-- ==== Sys2Proof/Word.lean ====
section
/-! DEFINITION. The word types of the QZ1024 model and the one shape in which it holds sparse state. -/
namespace Sys2Proof

/-- One byte of a frame, an image or a memory. -/
abbrev Byte := BitVec 8
/-- One 32-bit register (00_scope, "Registers and fields"). -/
abbrev Word := BitVec 32
/-- One 64-bit counter, Action Engine register or channel word. -/
abbrev DWord := BitVec 64

/-- Sparse state by key: strictly rising keys, no entry equal to what an unlisted key reads as.
`Machine/Store.lean` holds the operations that keep that form. -/
abbrev SMap (α : Type) := List (Nat × α)

end Sys2Proof
end

