-- ==== Sys2Proof/Syntax.lean ====
section
/-! DEFINITION. The commands of the QZ1024: one constructor per row of spec/opcode_table.json. A command is what happens to the
block from outside, or an action of one of its own engines that the rules describe as an event. The spec gives no bits for any row.

Frames (`id`, `fid`) and copies (`cid`) are named by the numbers that the model gives them on arrival (`Dev.nextFid`,
`Dev.nextCid`). Where a rule leaves the outcome of an event to the world outside the device (light, temperature, a
PCI Express error, a test pattern), the command carries that outcome. The rows stand in the table's order, those without
operands last. -/
namespace Sys2Proof

/-- A host port (R496). -/
abbrev HostNo := Fin 4
/-- A BAR0 offset (R496, R497). -/
abbrev Offset := BitVec 28
/-- A slice. -/
abbrev SliceNo := Fin 8
/-- A pipeline of a slice. -/
abbrev PipeNo := Fin 4
/-- A logical port number: slice in bits 8:6, pipeline in bits 5:4, port in pipeline and sub-port below. -/
abbrev LportNo := Fin 512
/-- An optical engine. -/
abbrev EngineNo := Fin 16
/-- A hopper: slice * 8 + hopper of the slice. -/
abbrev HopperNo := Fin 64
/-- An Action Engine thread of a slice. -/
abbrev ThreadNo := Fin 256
/-- A channel of a slice. -/
abbrev ChannelNo := Fin 256
/-- A queue: logical port * 16 + class. -/
abbrev QueueNo := Fin 8192
/-- An HBM stack. -/
abbrev StackNo := Fin 4
/-- A lease. -/
abbrev LeaseNo := Fin 64
/-- A ring of a host port (R516). -/
abbrev RingNo := Fin 11

/-- A report of a memory error (R573, R602): class, unit and location, a UE where `ue`, an injected error where `inj`. -/
structure ErrReport where
  cls : BitVec 8
  unit : BitVec 16
  loc : Word
  ue : Bool
  inj : Bool
  deriving DecidableEq, Repr

/-- The rest of an error report: whether the error is an injected one, and the reports of the same host/control clock (R576). -/
structure ReportMore where
  inj : Bool
  others : List ErrReport
  deriving DecidableEq, Repr

/-- What the lanes of a physical port receive, as masks by lane (R145): signal detected, clock recovery locked. -/
structure LaneSignals where
  signal : BitVec 8
  cdr : BitVec 8
  deriving DecidableEq, Repr

/-- What the PCS of a logical port finds (R109, R117): what its lanes receive, as in `LaneSignals`, and whether its alignment
markers are locked and its lanes deskewed. -/
structure PcsReport where
  n : LportNo
  signal : BitVec 8
  cdr : BitVec 8
  deskewed : Bool
  deriving DecidableEq, Repr

/-- A selected primary source and the power that its monitor finds, in 10 uW (R131). -/
structure SourcePower where
  j : Fin 8
  power : BitVec 16
  deriving DecidableEq, Repr

/-- A FLUSH_LEARNED of a slice: `during` are the buckets that the walker has reached when the table engine takes a learn
meanwhile (R252). -/
structure FlushRun where
  sl : SliceNo
  during : List (BitVec 20)
  deriving DecidableEq, Repr

/-- Writes of the next `n` staged cells of a spilled copy (R412). -/
structure SpillWrites where
  cid : Nat
  n : Nat
  deriving DecidableEq, Repr

/-- The last `n` commands of a pseudo channel of a stack (R427). -/
structure ReplaySpan where
  k : StackNo
  pc : Fin 32
  n : Nat
  deriving DecidableEq, Repr

/-- What a host sets in its port's configuration space: Bus Master Enable and the maximum payload size, 128 * 2^mps bytes (R498). -/
structure HostSettings where
  bme : Bool
  mps : Fin 3
  deriving DecidableEq, Repr

/-- The commands. -/
inductive Instr where
  /-- REGISTER_WRITE (R9): A host write to a register that has no row of its own takes effect as its access type states; `hw` are the bits of a W1C register that hardware sets in the clock of the write (R505). -/
  | registerWrite (h : HostNo) (a : Offset) (v : Word) (hw : Word)
  /-- BAD_ACCESS (R7): An access of the wrong size or alignment, or to an unassigned offset, reads zero, discards its write and is counted against the host port; an access of any size and alignment. -/
  | badAccess (h : HostNo) (a : Offset) (size : Nat) (write : Bool) (v : DWord)
  /-- RC_READ (R507): A read of an RC field samples the field and clears it device-wide in one clock of its domain; `upd` is what hardware updates the field to in the clock of the read. -/
  | rcRead (h : HostNo) (a : Offset) (upd : Option Word)
  /-- COUNTER_LOW_READ (R12): A 4-byte read of a counter's low word returns the low 32 bits and copies the high word into the host port's latch. -/
  | counterLowRead (h : HostNo) (a : Offset)
  /-- STOPPED_DOMAIN_ACCESS (R40): An access to a domain whose clock is stopped makes the fantail start it, and the access completes once the clock runs. -/
  | stoppedDomainAccess (h : HostNo) (a : Offset) (write : Bool) (v : Word)
  /-- ISA_GRANT (R31): In each core clock the ingress slot arbiter grants lanes to port hoppers first and then to the internal sources by weighted round robin. -/
  | isaGrant (sl : SliceNo) (p : PipeNo)
  /-- LOADER_CLAIM (R63): A write of the host port number to IMG_OWNER.OWNER while HELD is 0 claims the loader. -/
  | loaderClaim (h : HostNo)
  /-- LOADER_RELEASE (R93): A write of IMG_OWNER with RELEASE 1 and the owner's number releases the claim. -/
  | loaderRelease (h : HostNo)
  /-- BEGIN (R72): IMG_CMD.BEGIN starts a load into the free banks, or fails with BUSY_BANKS while an epoch drains. -/
  | imgBegin (h : HostNo)
  /-- ABORT (R72): IMG_CMD.ABORT abandons the load or the staged image and moves the loader to FAILED with ABORTED. -/
  | imgAbort (h : HostNo)
  /-- ARM (R78): IMG_CMD.ARM samples IMG_ACT_TIME and arms activation, or re-samples it while ARMED. -/
  | imgArm (h : HostNo)
  /-- CLEAR (R72): IMG_CMD.CLEAR takes the loader from FAILED to IDLE, or to EMPTY if no image runs. -/
  | imgClear (h : HostNo)
  /-- FORCE_RETIRE (R86): IMG_CMD.FORCE_RETIRE during DRAINING makes each block discard frames of the old epoch until its count reaches zero. -/
  | imgForceRetire (h : HostNo)
  /-- IMAGE_WRITE (R67): A posted write to the staging aperture delivers image bytes in order, and the loader checks each part as it arrives. -/
  | imageWrite (h : HostNo) (off : BitVec 26) (bs : List Byte)
  /-- STAGED_BANK_ERROR (R69): An uncorrectable error in a staged bank before activation fails the image with MEMORY, at the location (R602) given. -/
  | stagedBankError (cls : BitVec 8) (unit : BitVec 16) (loc : Word)
  /-- COMMIT (R88): VER_CMD.COMMIT makes the open version current, or sets COMMIT_PENDING while an old version is live. -/
  | verCommit (h : HostNo)
  /-- VERSION_FORCE_RETIRE (R91): VER_CMD.FORCE_RETIRE discards frames of the old rule version until its count reaches zero. -/
  | versionForceRetire (h : HostNo)
  /-- FUSE_ARB_WRITE (R100): A write to FUSE_ARB is tested for busy, power, decrease, unchanged value and exhaustion, and a changing write starts a fuse-counted change. -/
  | fuseArbWrite (h : HostNo) (v : Word)
  /-- FUSE_LANE_MAP_WRITE (R116): A changing write to FUSE_LANE_MAP consumes one step and starts a fuse-counted change of the lane-map lock. -/
  | fuseLaneMapWrite (h : HostNo) (v : Word)
  /-- FUSE_BOOT_POLICY_WRITE (R100): A changing write to FUSE_BOOT_POLICY consumes one step and starts a fuse-counted change. -/
  | fuseBootPolicyWrite (h : HostNo) (v : Word)
  /-- ENROL (R101): FUSE_KEY_CMD.ENROL fuses the staged key hash into a slot that was never enrolled or revoked. -/
  | enrol (h : HostNo) (slot : Fin 4)
  /-- REVOKE (R101): FUSE_KEY_CMD.REVOKE revokes a key slot unless it is the last usable key. -/
  | revoke (h : HostNo) (slot : Fin 4)
  /-- LMAP_SAVE (R115): OE_LMAP_CMD.SAVE starts writing the lane maps of the engine's four ports into its non-volatile memory, unless the engine is locked. -/
  | lmapSave (h : HostNo) (k : EngineNo)
  /-- LMAP_SAVE_DONE (R115): The lane-map save completes, clearing OE_LMAP_STATUS.BUSY and setting LMAP_SAVED, or LMAP_SAVE_FAILED where the memory failed. -/
  | lmapSaveDone (k : EngineNo) (failed : Bool)
  /-- PORT_DISABLE (R117): A logical port that stops being eligible, or whose engine is over temperature, goes to DISABLED and darkens its modulators. -/
  | portDisable (n : LportNo)
  /-- PORT_LIGHT (R117): An eligible DISABLED logical port with a valid map enters LIGHT and requests light for its laser sources. -/
  | portLight (n : LportNo)
  /-- SOURCES_STABLE (R117): When every source a port uses is lit and stable, its modulators are enabled and it enters ACQUIRE sending remote fault. -/
  | sourcesStable (n : LportNo)
  /-- PCS_ALIGNED (R117): PCS alignment on all lanes moves a port from ACQUIRE to VERIFY and starts UP_DELAY; the port and what its PCS finds. -/
  | pcsAligned (r : PcsReport)
  /-- ALIGNMENT_LOST (R117): Loss of PCS alignment returns a VERIFY port to ACQUIRE or moves an UP port to FAULT; what its lanes still receive. -/
  | alignmentLost (n : LportNo) (lanes : LaneSignals)
  /-- REMOTE_FAULT (R117): A received remote fault restarts UP_DELAY in VERIFY or moves an UP port to FAULT. -/
  | remoteFault (n : LportNo) (on : Bool)
  /-- UP_DELAY_EXPIRE (R117): UP_DELAY elapsing in VERIFY takes the port UP and sets LINK_UP. -/
  | upDelayExpire (n : LportNo)
  /-- GLITCH (R117): Alignment held with no remote fault before DOWN_DELAY ends returns a FAULT port to UP and counts a glitch. -/
  | glitch (n : LportNo)
  /-- DOWN_DELAY_EXPIRE (R117): DOWN_DELAY elapsing in FAULT returns the port to ACQUIRE and counts a link down. -/
  | downDelayExpire (n : LportNo)
  /-- FEC_DEG_WINDOW (R125): At the end of each FEC degrade window the corrected-symbol count sets or clears FEC_DEGRADED; the codewords since the last report and the corrected symbols of each lane. -/
  | fecDegWindow (n : LportNo) (cw : Nat) (corr : Nat) (uncorr : Nat) (syms : List Nat)
  /-- RX_FRAME (R126): The receive MAC delimits a frame, checks FCS and size, and discards runts and control frames other than PFC; `fecUncorr` where a codeword of the frame was uncorrectable. -/
  | rxFrame (n : LportNo) (bs : List Byte) (fecUncorr : Bool)
  /-- SOURCE_DARK (R128): A laser source goes dark 1 ms after the last logical port using its lane enters DISABLED. -/
  | sourceDark (k : EngineNo) (j : Fin 8)
  /-- SOURCE_MONITOR_SAMPLE (R129): Every 1 ms the engine samples bias and power of each lit source and marks a primary degraded after 1,000 bad samples; in units of 10 uA and 10 uW. -/
  | sourceMonitorSample (k : EngineNo) (j : Fin 8) (bias : BitVec 16) (power : BitVec 16)
  /-- FAILOVER_START (R130): A planned failover of source j turns the spare on into the monitor path. -/
  | failoverStart (k : EngineNo)
  /-- FAILOVER_POWER_CHECK (R130): At 500 µs the spare's power is checked and the egress MACs of lane j stop starting frames, or the failover stops with SPARE_DEG. -/
  | failoverPowerCheck (k : EngineNo) (power : BitVec 16)
  /-- FAILOVER_SWITCH (R130): Once the last frame on lane j completes, selector j switches to the spare and frames resume. -/
  | failoverSwitch (k : EngineNo)
  /-- TO_SPARE (R132): OE_FAILOVER_CMD.TO_SPARE requests a planned failover of the named source to its spare. -/
  | toSpare (h : HostNo) (k : EngineNo) (j : Fin 8)
  /-- TO_PRIMARY (R132): OE_FAILOVER_CMD.TO_PRIMARY requests a planned failover of the named source back to its primary. -/
  | toPrimary (h : HostNo) (k : EngineNo) (j : Fin 8)
  /-- SOURCE_ABRUPT_FAIL (R131): A selected primary whose power falls below FAIL is marked FAILED and the selector switches to the spare at once; the source and the power found. -/
  | sourceAbruptFail (k : EngineNo) (p : SourcePower)
  /-- LIT_SECONDS_SAVE (R134): Every 600 s the engine saves the lit-second counts of its sources to non-volatile memory. -/
  | litSecondsSave (k : EngineNo)
  /-- OE_OVERTEMP (R135): OE_TEMP reaching 95 °C sets OVERTEMP and turns off every source of the engine; `t` in eighths of a degree, as OE_TEMP holds it. -/
  | oeOvertemp (k : EngineNo) (t : BitVec 12)
  /-- OE_OVERTEMP_CLEAR (R135): OE_TEMP falling below 90 °C clears OVERTEMP and eligible ports restart at LIGHT; `t` in eighths of a degree. -/
  | oeOvertempClear (k : EngineNo) (t : BitVec 12)
  /-- FRAME_TRANSMIT (R387): The egress MAC serialises a copy, applying timestamp capture or one-step update, padding and, when STOMP is set, the stomp. -/
  | frameTransmit (cid : Nat)
  /-- TS_FIFO_READ (R140): A read of LP_TSFIFO_W0 returns the head entry's ID, copies its time into W1–W3 and removes it. -/
  | tsFifoRead (h : HostNo) (n : LportNo)
  /-- HOPPER_ADMIT (R148): The first segment of a frame reserves MAX_FRAME bytes and the hopper admits or discards the whole frame. -/
  | hopperAdmit (n : LportNo)
  /-- HOPPER_SEGMENT (R147): A later segment of an admitted frame is written into bank n mod 2 from its reservation, or released or discarded as the verdict states. -/
  | hopperSegment (n : LportNo)
  /-- DROP_REM (R151): HOP_CMD.DROP_REM issues a drop-remainder for the frame arriving on the named sub-port. -/
  | dropRem (h : HostNo) (q : HopperNo) (sub : Fin 8)
  /-- PARSE (R164): A parser lane walks the graph for a granted frame, fills the header vector and sets PARSE_LEN, EXC_NODE and REASON in 43 clocks. -/
  | parse (sl : SliceNo) (p : PipeNo)
  /-- STAGE_PASS (R264): A match-action stage issues its lookups, chooses an action word and applies its operations, edits and disposition to a frame; `id` is a frame, or in the egress pipelines a copy. -/
  | stagePass (egress : Bool) (id : Nat)
  /-- DEPARSE (R276): As the head leaves the pipeline the deparser writes back dirty containers and applies pops, pushes, patches and checksums; `id` is a frame, or in the egress pipelines a copy. -/
  | deparse (egress : Bool) (id : Nat)
  /-- COUNT_BYTES_DEFERRED (R644): A stage counter gains the frame's length in the clock in which that length becomes known; `id` is a frame, or in the egress pipelines a copy. -/
  | countBytesDeferred (egress : Bool) (id : Nat)
  /-- READ_CTR (R289): Stage command READ_CTR returns a counter pair. -/
  | readCtr (sl : SliceNo)
  /-- READ_CLEAR_CTR (R289): Stage command READ_CLEAR_CTR reads both counts in one clock and then clears them. -/
  | readClearCtr (sl : SliceNo)
  /-- READ_REG (R289): Stage command READ_REG returns a stage register. -/
  | readReg (sl : SliceNo)
  /-- WRITE_REG (R289): Stage command WRITE_REG writes a stage register ahead of frame updates in the same clock. -/
  | writeReg (sl : SliceNo)
  /-- BLT_ADD (R193): Bolter command ADD writes a free entry in every copy and marks it added in the open version. -/
  | bltAdd (sl : SliceNo)
  /-- BLT_DELETE (R194): Bolter command DELETE frees a never-visible entry or records its deletion in the open version. -/
  | bltDelete (sl : SliceNo)
  /-- BLT_READ (R204): Bolter command READ copies an entry into the staging and state registers. -/
  | bltRead (sl : SliceNo)
  /-- BLT_SEARCH (R209): Bolter command SEARCH resolves the staged key under the chosen version and opens a step-through. -/
  | bltSearch (sl : SliceNo)
  /-- SEARCH_NEXT (R209): Bolter command SEARCH_NEXT returns the next visible match of the open step-through or closes it with MISS. -/
  | searchNext (sl : SliceNo)
  /-- BLT_SCRUB_CHECK (R190): Every INTERVAL core clocks each block compares one entry's cells with its shadow and repairs a mismatch. -/
  | bltScrubCheck (sl : SliceNo)
  /-- BLT_SWEEP_VISIT (R196): The retirement sweep visits one entry per block per clock, settling added entries and freeing deleted ones. -/
  | bltSweepVisit (sl : SliceNo)
  /-- BLT_SWEEP_DONE (R196): The bolter sweep ends, clearing SWEEP_BUSY and setting SWEEP_DONE. -/
  | bltSweepDone (sl : SliceNo)
  /-- TBL_ADD (R229): Table command ADD inserts an exact-match entry by relocation or overflow, or adds an LPM prefix. -/
  | tblAdd (sl : SliceNo)
  /-- TBL_DELETE (R224): Table command DELETE frees or marks deleted an exact-match or LPM entry in the open version. -/
  | tblDelete (sl : SliceNo)
  /-- REPLACE (R226): Table command REPLACE writes a new entry and deletes the old one, or rewrites a learned entry in place. -/
  | tblReplace (sl : SliceNo)
  /-- TBL_READ (R252): Table command READ returns the entry of the key or prefix visible to the chosen version. -/
  | tblRead (sl : SliceNo)
  /-- LOOKUP (R252): Table command LOOKUP returns the entry found as a frame's lookup would find it. -/
  | tblLookup (sl : SliceNo)
  /-- READ_SLOT (R252): Table command READ_SLOT returns the exact-match location at TBL_CMD_LOC in any state. -/
  | readSlot (sl : SliceNo)
  /-- FLUSH_LEARNED (R252): Table command FLUSH_LEARNED frees learned entries of a table, optionally those matching a masked result, on the walker. -/
  | flushLearned (f : FlushRun)
  /-- STAT (R252): Table command STAT returns the table's used, learned and overflow counts. -/
  | tblStat (sl : SliceNo)
  /-- LEARN_EXECUTE (R242): The table engine starts a queued learn at most once per GAP and inserts, refreshes, moves or refuses the entry. -/
  | learnExecute (sl : SliceNo)
  /-- TBL_SWEEP_DONE (R227): The walker's retirement sweep of the exact-match and LPM stores ends and sets SWEEP_DONE. -/
  | tblSweepDone (sl : SliceNo)
  /-- AGEING_PASS (R245): Every TICK × 100 ms the walker ages learned entries, freeing those whose AGE reaches AGE_LIMIT. -/
  | ageingPass (sl : SliceNo)
  /-- STEER_TO_CHANNEL (R310): A steered frame is offered to its channel 8 clocks after stage 23 and committed as a frame message or discarded. -/
  | steerToChannel (fid : Nat)
  /-- MESSAGE_DELIVER (R308): A visible channel head is delivered to one waiting reader, which leaves BLK_RD or IDLE and may move banks. -/
  | messageDeliver (sl : SliceNo) (c : ChannelNo)
  /-- BLOCKED_COMMIT (R306): A thread in BLK_WR commits its staged message when the channel or outbound entries have room. -/
  | blockedCommit (sl : SliceNo) (t : ThreadNo)
  /-- SHARE_ALLOCATE (R314): A thread in BLK_SHARE gets its cells when the common part has them. -/
  | shareAllocate (sl : SliceNo) (t : ThreadNo)
  /-- WAIT_SATISFIED (R320): A WAITING thread returns to RUN when its condition becomes true. -/
  | waitSatisfied (sl : SliceNo) (t : ThreadNo)
  /-- FLD_DATA_ARRIVE (R313): An FLD waiting for frame bytes completes when they arrive or the frame completes. -/
  | fldDataArrive (sl : SliceNo) (t : ThreadNo)
  /-- AE_TIMER_EXPIRE (R321): A thread's timer reaching 0 ends a timed wait or raises the TIMER interrupt. -/
  | aeTimerExpire (sl : SliceNo) (t : ThreadNo)
  /-- AE_NOP (R298): Microword NOP retires without effect. -/
  | aeNop (sl : SliceNo) (t : ThreadNo)
  /-- AE_MOV (R298): Microword MOV writes operand B to gD. -/
  | aeMov (sl : SliceNo) (t : ThreadNo)
  /-- AE_ADD (R298): Microword ADD writes gA + B to gD. -/
  | aeAdd (sl : SliceNo) (t : ThreadNo)
  /-- AE_SUB (R298): Microword SUB writes gA − B to gD. -/
  | aeSub (sl : SliceNo) (t : ThreadNo)
  /-- AE_AND (R298): Microword AND writes gA AND B to gD. -/
  | aeAnd (sl : SliceNo) (t : ThreadNo)
  /-- AE_OR (R298): Microword OR writes gA OR B to gD. -/
  | aeOr (sl : SliceNo) (t : ThreadNo)
  /-- AE_XOR (R298): Microword XOR writes gA XOR B to gD. -/
  | aeXor (sl : SliceNo) (t : ThreadNo)
  /-- AE_SHL (R298): Microword SHL shifts gA left by B[5:0] into gD. -/
  | aeShl (sl : SliceNo) (t : ThreadNo)
  /-- AE_SHR (R298): Microword SHR shifts gA right logically by B[5:0] into gD. -/
  | aeShr (sl : SliceNo) (t : ThreadNo)
  /-- AE_SAR (R298): Microword SAR shifts gA right arithmetically by B[5:0] into gD. -/
  | aeSar (sl : SliceNo) (t : ThreadNo)
  /-- AE_CMP (R297): Microword CMP sets the flags from gA − B. -/
  | aeCmp (sl : SliceNo) (t : ThreadNo)
  /-- AE_MUL (R298): Microword MUL writes the low 64 bits of gA × B to gD. -/
  | aeMul (sl : SliceNo) (t : ThreadNo)
  /-- AE_BFX (R298): Microword BFX extracts a bit field of gA into gD. -/
  | aeBfx (sl : SliceNo) (t : ThreadNo)
  /-- AE_BFI (R298): Microword BFI inserts the low bits of B into a bit field of gD. -/
  | aeBfi (sl : SliceNo) (t : ThreadNo)
  /-- AE_BR (R298): Microword BR sets PC to TGT. -/
  | aeBr (sl : SliceNo) (t : ThreadNo)
  /-- AE_CALL (R298): Microword CALL pushes PC + 1 and jumps to TGT, faulting STACK on a ninth push. -/
  | aeCall (sl : SliceNo) (t : ThreadNo)
  /-- AE_RET (R298): Microword RET pops PC, faulting STACK on an empty stack. -/
  | aeRet (sl : SliceNo) (t : ThreadNo)
  /-- AE_BRX (R298): Microword BRX sets PC to gA[15:0]. -/
  | aeBrx (sl : SliceNo) (t : ThreadNo)
  /-- AE_YIELD (R298): Microword YIELD makes the thread count as having issued most recently. -/
  | aeYield (sl : SliceNo) (t : ThreadNo)
  /-- AE_LD (R298): Microword LD loads a scratch word into gD. -/
  | aeLd (sl : SliceNo) (t : ThreadNo)
  /-- AE_ST (R298): Microword ST stores B into a scratch word. -/
  | aeSt (sl : SliceNo) (t : ThreadNo)
  /-- AE_ATOM (R298): Microword ATOM returns a scratch word and adds B to it in one access. -/
  | aeAtom (sl : SliceNo) (t : ThreadNo)
  /-- AE_CHRD (R307): Microword CHRD takes the channel head or blocks in BLK_RD or IDLE. -/
  | aeChrd (sl : SliceNo) (t : ThreadNo)
  /-- AE_CHRDNB (R307): Microword CHRDNB takes the channel head or returns the not-valid tag and sets X. -/
  | aeChrdnb (sl : SliceNo) (t : ThreadNo)
  /-- AE_CHWR (R306): Microword CHWR stages one word for a channel, committing it when SEND is set. -/
  | aeChwr (sl : SliceNo) (t : ThreadNo)
  /-- AE_CHSEND (R306): Microword CHSEND commits the staged words as one message or enters BLK_WR. -/
  | aeChsend (sl : SliceNo) (t : ThreadNo)
  /-- AE_CHDISC (R298): Microword CHDISC discards the staged words. -/
  | aeChdisc (sl : SliceNo) (t : ThreadNo)
  /-- AE_FLD (R313): Microword FLD loads 1–8 bytes of a frame space or cell into gD. -/
  | aeFld (sl : SliceNo) (t : ThreadNo)
  /-- AE_FST (R313): Microword FST stores 1–8 bytes of B into a frame space or cell. -/
  | aeFst (sl : SliceNo) (t : ThreadNo)
  /-- AE_FALLOC (R314): Microword FALLOC creates an empty frame in a handle slot. -/
  | aeFalloc (sl : SliceNo) (t : ThreadNo)
  /-- AE_FSEND (R316): Microword FSEND sends a held frame to a software channel, RETURN, PUNT or DROP. -/
  | aeFsend (sl : SliceNo) (t : ThreadNo)
  /-- AE_FLEN (R313): Microword FLEN sets a frame's length and frees cells beyond it. -/
  | aeFlen (sl : SliceNo) (t : ThreadNo)
  /-- AE_CALLOC (R319): Microword CALLOC allocates a raw cell owned by the thread. -/
  | aeCalloc (sl : SliceNo) (t : ThreadNo)
  /-- AE_CFREE (R319): Microword CFREE gives a raw cell back to the pool manager. -/
  | aeCfree (sl : SliceNo) (t : ThreadNo)
  /-- AE_WAIT (R320): Microword WAIT puts the thread in WAITING until its condition holds or its timer expires. -/
  | aeWait (sl : SliceNo) (t : ThreadNo)
  /-- AE_TMR (R321): Microword TMR loads or stops the thread's timer. -/
  | aeTmr (sl : SliceNo) (t : ThreadNo)
  /-- AE_SIGNAL (R321): Microword SIGNAL sets SIGPEND of the target thread, raising an interrupt where enabled. -/
  | aeSignal (sl : SliceNo) (t : ThreadNo)
  /-- AE_TCTL_STOP (R329): Miller microword TCTL STOP stops a thread. -/
  | aeTctlStop (sl : SliceNo) (t : ThreadNo)
  /-- AE_TCTL_RESUME (R329): Miller microword TCTL RESUME resumes a stopped thread. -/
  | aeTctlResume (sl : SliceNo) (t : ThreadNo)
  /-- AE_TCTL_RESTART (R329): Miller microword TCTL RESTART restarts a thread. -/
  | aeTctlRestart (sl : SliceNo) (t : ThreadNo)
  /-- AE_TCTL_DISABLE (R329): Miller microword TCTL DISABLE disables a thread. -/
  | aeTctlDisable (sl : SliceNo) (t : ThreadNo)
  /-- AE_TCTL_DISCARD_STAGED (R329): Miller microword TCTL DISCARD_STAGED empties a thread's staging buffer. -/
  | aeTctlDiscardStaged (sl : SliceNo) (t : ThreadNo)
  /-- AE_TCTL_READ_STATE (R329): Miller microword TCTL READ_STATE returns a thread's AE_THR_STATUS. -/
  | aeTctlReadState (sl : SliceNo) (t : ThreadNo)
  /-- AE_MFTS (R323): Microword MFTS reads a trap save item into gD. -/
  | aeMfts (sl : SliceNo) (t : ThreadNo)
  /-- AE_MTTS (R323): Microword MTTS writes a trap save item. -/
  | aeMtts (sl : SliceNo) (t : ThreadNo)
  /-- AE_TRET (R324): Microword TRET restores the flags, clears IN_TRAP and resumes at TS_PC or TS_PC + 1. -/
  | aeTret (sl : SliceNo) (t : ThreadNo)
  /-- AE_SWTRAP (R298): Microword SWTRAP raises fault SOFTWARE with the given detail. -/
  | aeSwtrap (sl : SliceNo) (t : ThreadNo)
  /-- AE_MMRD (R344): Microword MMRD reads a device register through the register bridge. -/
  | aeMmrd (sl : SliceNo) (t : ThreadNo)
  /-- AE_MMWR (R344): Microword MMWR writes a device register through the register bridge. -/
  | aeMmwr (sl : SliceNo) (t : ThreadNo)
  /-- AE_TIME (R298): Microword TIME reads the time unit's seconds and nanoseconds into gD. -/
  | aeTime (sl : SliceNo) (t : ThreadNo)
  /-- THR_STOP (R337): AE_THR_CMD.STOP stops a thread at its next microword boundary. -/
  | thrStop (h : HostNo) (sl : SliceNo) (t : ThreadNo)
  /-- THR_RESUME (R337): AE_THR_CMD.RESUME lets a stopped thread run. -/
  | thrResume (h : HostNo) (sl : SliceNo) (t : ThreadNo)
  /-- THR_STEP (R337): AE_THR_CMD.STEP retires one microword of a stopped thread and stops it again. -/
  | thrStep (h : HostNo) (sl : SliceNo) (t : ThreadNo)
  /-- THR_RESTART (R294): AE_THR_CMD.RESTART clears a thread's state, drops its frames and starts it at ENTRY. -/
  | thrRestart (h : HostNo) (sl : SliceNo) (t : ThreadNo)
  /-- THR_DISABLE (R294): AE_THR_CMD.DISABLE clears a thread as RESTART does and leaves it DISABLED. -/
  | thrDisable (h : HostNo) (sl : SliceNo) (t : ThreadNo)
  /-- THR_DISCARD_STAGED (R338): AE_THR_CMD.DISCARD_STAGED empties a thread's staging buffer. -/
  | thrDiscardStaged (h : HostNo) (sl : SliceNo) (t : ThreadNo)
  /-- THR_SIGNAL (R348): AE_THR_CMD.SIGNAL sets the thread's SIGPEND. -/
  | thrSignal (h : HostNo) (sl : SliceNo) (t : ThreadNo)
  /-- BREAKPOINT_STOP (R337): A matching thread about to issue at a breakpoint address stops with BP_HIT. -/
  | breakpointStop (sl : SliceNo) (t : ThreadNo)
  /-- DEBUG_WRITE (R339): A write of AE_DBG_DATA_HI stores the item of a stopped thread through the debug window. -/
  | debugWrite (h : HostNo) (sl : SliceNo) (v : Word)
  /-- STALLED_WRITER (R338): A thread STOPPED with staged words for HOLD_US posts STALLED_WRITER to the miller. -/
  | stalledWriter (sl : SliceNo) (t : ThreadNo)
  /-- WATCHDOG (R332): The deadlock condition holding for INTERVAL_US posts WATCHDOG and sets FIRED. -/
  | watchdog (sl : SliceNo) (e : Fin 32)
  /-- MILLER_STALL (R328): A message untaken in channel 0xFE for STALL_US sets MILLER_STALL. -/
  | millerStall (sl : SliceNo)
  /-- FORCED_MOVE (R335): After retirement a thread still on the old bank moves at its next microword boundary, discarding staged words. -/
  | forcedMove (sl : SliceNo) (t : ThreadNo)
  /-- CHANNEL_CFG_UPDATE (R336): A channel takes the configuration of the new bank when it is first empty after activation. -/
  | channelCfgUpdate (sl : SliceNo) (c : ChannelNo)
  /-- STAGE_WORD (R342): Patch command STAGE_WORD stages an address and microword. -/
  | stageWord (sl : SliceNo)
  /-- PATCH_COMMIT (R341): Patch command COMMIT installs all staged words into the overlay once the guard allows, or times out. -/
  | patchCommit (sl : SliceNo)
  /-- CLEAR_ALL (R341): Patch command CLEAR_ALL empties the overlay under the guard. -/
  | patchClearAll (sl : SliceNo)
  /-- READ_WORD (R342): Patch command READ_WORD returns the microword as fetched. -/
  | patchReadWord (sl : SliceNo)
  /-- UNSTAGE_ALL (R342): Patch command UNSTAGE_ALL discards the staged words. -/
  | unstageAll (sl : SliceNo)
  /-- PATCH_INSTALL (R341): A waiting COMMIT or CLEAR_ALL installs when no thread lies in the guard range. -/
  | patchInstall (sl : SliceNo)
  /-- GUARD_TIMEOUT (R341): A guard not met within 100 µs ends the patch command with GUARD_TIMEOUT. -/
  | guardTimeout (sl : SliceNo)
  /-- CELL_RECEIVE (R359): A cell arriving at a link edge is CRC-checked and sorted into a resequencer slot or discarded. -/
  | cellReceive (outbound : Bool) (sl : SliceNo) (plane : Fin 4) (crcFail : Bool)
  /-- RSQ_RELEASE (R361): The cell at NEXT is released, checked against its context and passed, started or discarded. -/
  | rsqRelease (outbound : Bool) (sl : SliceNo) (p : PipeNo)
  /-- GAP_TIMEOUT (R360): The gap timer reaching its timeout declares NEXT lost and advances it. -/
  | gapTimeout (outbound : Bool) (sl : SliceNo) (p : PipeNo)
  /-- CONTEXT_TIMEOUT (R361): A context in a frame with no cell for TIMEOUT_NS ends the frame bad with CELL_LOST. -/
  | contextTimeout (outbound : Bool) (sl : SliceNo) (p : PipeNo) (ctx : Fin 32)
  /-- HEAD_RELEASE (R363): An outbound resequencer releases a head to the egress MAC when its last cell or LEAD cells are ready. -/
  | headRelease (sl : SliceNo) (p : PipeNo)
  /-- AGER_VISIT (R396): The ager visits one queue per clock and discards up to 16 unstarted head copies older than AGE_LIMIT. -/
  | agerVisit (q : QueueNo)
  /-- COPY_START (R463): The egress scheduler selects an eligible port, class and bin and starts a copy, charging shapers and deficits. -/
  | copyStart (sl : SliceNo) (p : PipeNo)
  /-- SPILL_WRITE_DONE (R413): The write of a spilled copy's last cell completes and the copy becomes PARKED; with fewer cells than are staged, the writes of its next cells complete (R412). -/
  | spillWriteDone (w : SpillWrites)
  /-- FILL_EVALUATE (R416): Every 256 traffic-manager clocks the fill engine takes candidates and issues reads within its prefetch space. -/
  | fillEvaluate (sl : SliceNo)
  /-- FILL_READ_DONE (R417): A line read back is written into a shared buffer cell, and the copy becomes RESIDENT when all cells are back. -/
  | fillReadDone (cid : Nat)
  /-- HBM_PHASE_SWITCH (R422): A controller switches between read and write phases when PHASE_NS ends or the current kind runs out. -/
  | hbmPhaseSwitch (k : StackNo)
  /-- HBM_REFRESH (R423): A refresh falling due is issued, postponed during panic, or forced at POSTPONE_MAX. -/
  | hbmRefresh (k : StackNo) (pc : Fin 32)
  /-- HBM_REPLAY (R427): A command-address or write-data parity error makes the controller replay unacknowledged commands; `reread` for a read made again, `failed` where it fails again. -/
  | hbmReplay (r : ReplaySpan) (reread : Bool) (failed : Bool)
  /-- HBM_SCRUB_READ (R430): Every INTERVAL HBM clocks the scrubber reads one line and writes corrected data back. -/
  | hbmScrubRead (k : StackNo)
  /-- FREEZE (R434): HBM_CMD.FREEZE freezes the controller with cause SOFTWARE. -/
  | hbmFreeze (h : HostNo) (k : StackNo)
  /-- HBM_OVERTEMP (R434): HBM_TEMP reaching 105 °C freezes the controller with cause OVERTEMP; `t` in eighths of a degree, as HBM_TEMP holds it. -/
  | hbmOvertemp (k : StackNo) (t : BitVec 12)
  /-- THAW (R437): HBM_CMD.THAW repeats training read checks and returns a FROZEN controller to RUN or leaves it FROZEN; `pass` is the outcome of the checks. -/
  | hbmThaw (h : HostNo) (k : StackNo) (pass : Bool)
  /-- OFFLINE (R438): HBM_CMD.OFFLINE discards every parked copy and holds the controller OFFLINE until cold reset. -/
  | hbmOffline (h : HostNo) (k : StackNo)
  /-- RETRAIN (R437): HBM_CMD.RETRAIN runs full training, discarding parked copies and freeing pages. -/
  | hbmRetrain (h : HostNo) (k : StackNo)
  /-- HBM_INIT_DONE (R439): The power-up sequence completes and the controller enters TRAIN. -/
  | hbmInitDone (k : StackNo)
  /-- HBM_TRAIN_DONE (R440): Training completes and the controller enters RUN or TRAIN_FAIL; `mask` holds the pseudo channels that passed, `reused` whether saved results were used. -/
  | hbmTrainDone (k : StackNo) (mask : Word) (reused : Bool)
  /-- HBM_SLEEP_ENTRY (R439): No request for IDLE_US, or a fantail sleep request, puts the controller in self-refresh. -/
  | hbmSleepEntry (k : StackNo)
  /-- HBM_SLEEP_EXIT (R439): A request or fantail wake takes the controller out of self-refresh within 600 ns. -/
  | hbmSleepExit (k : StackNo)
  /-- PAGE_RETIRE (R432): HBM_RETIRE_CMD retires a page at once or once its LIVE reaches zero. -/
  | pageRetire (h : HostNo) (k : StackNo) (page : BitVec 20)
  /-- READ_LINE (R441): Diagnostic command READ_LINE reads a line into HBM_DIAG_DATA while FROZEN. -/
  | readLine (k : StackNo)
  /-- TEST_PAGES (R441): Diagnostic command TEST_PAGES tests a range of free pages with four patterns and retires failures; `bad` are the pages that fail. -/
  | testPages (k : StackNo) (bad : List Nat)
  /-- WRITE (R476): Governor command WRITE sets a policer's configuration, effective at the next refill with full buckets. -/
  | govWrite (sl : SliceNo)
  /-- READ (R475): Governor command READ returns a policer's configuration and bucket levels. -/
  | govRead (sl : SliceNo)
  /-- READ_STATS (R476): Governor command READ_STATS returns a policer's seven statistics. -/
  | govReadStats (sl : SliceNo)
  /-- READ_CLEAR_STATS (R476): Governor command READ_CLEAR_STATS returns a policer's statistics and clears them. -/
  | govReadClearStats (sl : SliceNo)
  /-- RESET_BUCKETS (R476): Governor command RESET_BUCKETS fills a policer's buckets at the next refill. -/
  | govResetBuckets (sl : SliceNo)
  /-- CONFIG_CHANGE (R480): SLU_CMD.CONFIG_CHANGE copies the admin list to pending and computes the change time. -/
  | configChange (h : HostNo) (n : LportNo)
  /-- CANCEL (R480): SLU_CMD.CANCEL discards the pending gate list. -/
  | gateCancel (h : HostNo) (n : LportNo)
  /-- GATE_LIST_CHANGE (R481): At the change time the pending list becomes the oper list. -/
  | gateListChange (n : LportNo)
  /-- GATE_ENTRY_BOUNDARY (R482): At each entry boundary of the oper list the gate states change. -/
  | gateEntryBoundary (n : LportNo)
  /-- OVERSIZE_DISCARD (R484): An oversize head copy is discarded after OVS_CYCLES oper cycles. -/
  | oversizeDiscard (q : QueueNo) (b : Fin 64)
  /-- PAUSE_TIMER_EXPIRE (R487): A priority's pause timer runs out and its lossless classes may start again. -/
  | pauseTimerExpire (n : LportNo) (prio : Fin 8)
  /-- PFC_REFRESH (R488): REFRESH pause quanta after the last PFC frame in XOFF, the frame is sent again. -/
  | pfcRefresh (n : LportNo) (prio : Fin 8)
  /-- ACQUIRE (R502): Lease command ACQUIRE grants or renews a lease or reports it busy. -/
  | leaseAcquire (h : HostNo) (n : LeaseNo) (term : BitVec 16)
  /-- RELEASE (R502): Lease command RELEASE frees a lease held by the host port and posts FREED records. -/
  | leaseRelease (h : HostNo) (n : LeaseNo)
  /-- LEASE_EXPIRE (R504): A lease whose term runs out becomes FREE and posts EXPIRED and FREED records. -/
  | leaseExpire (n : LeaseNo)
  /-- PORT_RESET (R500): A link down, hot reset, FLR or D3hot entry resets one host port's leases, rings, queues and loader claim; `linkDown` where the link goes down. -/
  | portReset (h : HostNo) (linkDown : Bool)
  /-- RING_RECORD_POST (R509): The host complex writes a record into an event ring, padding at the end or losing it when full; `pcieErr` where the write ends in a PCI Express error. -/
  | ringRecordPost (pcieErr : Bool)
  /-- MSIX_RAISE (R514): A ring whose unsignalled records reach THRESH or wait DELAY_US raises its MSI-X vector. -/
  | msixRaise (h : HostNo) (r : RingNo)
  /-- RING_CONS_WRITE (R514): A write of RING_CONS consumes entries and ends the outstanding raise. -/
  | ringConsWrite (h : HostNo) (r : RingNo) (v : Word)
  /-- RING_ENABLE (R517): Setting RING_CTRL.EN starts a ring with PROD and CONS at zero; `v` is the rest of the word written. -/
  | ringEnable (h : HostNo) (r : RingNo) (v : Word)
  /-- PUNT_WRITE (R519): A punted frame whose last cell is admitted is written into a punt ring slot when the ring has room; `pcieErr` where the write ends in a PCI Express error. -/
  | puntWrite (h : HostNo) (pcieErr : Bool)
  /-- INJECT_DESCRIPTOR (R520): The host complex takes an injection descriptor, reads the frame and offers it to the ingress pipeline; `pcieErr` where the read ends in a PCI Express error. -/
  | injectDescriptor (h : HostNo) (pcieErr : Bool)
  /-- READ_BLOCK (R522): DMA operation READ_BLOCK copies BAR0 registers to host memory; `fail` is how many units were done before a PCI Express error, if one came. -/
  | readBlock (h : HostNo) (fail : Option Nat)
  /-- WRITE_BLOCK (R522): DMA operation WRITE_BLOCK copies host memory into BAR0 registers; `fail` is how many units were done before a PCI Express error, if one came. -/
  | writeBlock (h : HostNo) (fail : Option Nat)
  /-- PROGRAM (R522): DMA operation PROGRAM runs a list of Amiler-format entries from host memory, one entry a command; `fail` where a PCI Express error came. -/
  | program (h : HostNo) (fail : Bool)
  /-- LOAD (R530): HPL_AML_KEY_CTRL.LOAD activates the staged Amiler key of the host port. -/
  | amlKeyLoad (h : HostNo)
  /-- KEY_CLEAR (R530): HPL_AML_KEY_CTRL.CLEAR erases the host port's Amiler key. -/
  | amlKeyClear (h : HostNo)
  /-- GO (R531): HPL_AML_OOB_CMD.GO submits an out-of-band Amiler request with the host port's rights. -/
  | oobGo (h : HostNo)
  /-- SLICE_SLEEP_ENTRY (R535): A slice idle for SLICE_US with sleep enabled and no hold enters ENTERING. -/
  | sliceSleepEntry (sl : SliceNo)
  /-- SLICE_ASLEEP (R535): Sleep entry completes and the slice's clocks stop with state in retention. -/
  | sliceAsleep (sl : SliceNo)
  /-- SLICE_WAKE (R538): The fantail takes a synchronised wake request and starts WAKING the slice. -/
  | sliceWake (sl : SliceNo)
  /-- SLICE_WAKE_DONE (R538): The slice's clocks start in retained state and it returns to RUN. -/
  | sliceWakeDone (sl : SliceNo)
  /-- FAN_HOLD_WRITE (R541): A write of 1 to a FAN_HOLD bit keeps the slice awake and wakes it if sleeping. -/
  | fanHoldWrite (h : HostNo) (v : Word)
  /-- MAC_DOMAIN_STOP (R542): A MAC domain stops 10 µs after its last logical port enters DISABLED. -/
  | macDomainStop (sl : SliceNo)
  /-- POWER_ON (R545): FAN_CMD.POWER_ON starts the conversion from STANDBY or TRIPPED and clears a remembered exit; sent by a host port or by the I3C target (none); `high` where 48 V is above 44 V. -/
  | powerOn (w : Option HostNo) (high : Bool)
  /-- SHUTDOWN (R549): FAN_CMD.SHUTDOWN disables ports, saves counts, parks HBM and turns the conversion off; sent by a host port or by the I3C target (none). -/
  | shutdown (w : Option HostNo)
  /-- BROWNOUT (R550): 48 V below 40 V turns lasers off, lets rails fall and enters STANDBY with cause BROWNOUT; `hot` where a die also reaches 125 °C in that clock (R625). -/
  | brownout (hot : Bool)
  /-- TEMP_SAMPLE (R551): Every 100 µs die temperatures are sampled, setting THERM_WARN on a crossing; die `k` (slices 0 to 7, then the hub) reads `t` eighths of a degree. -/
  | tempSample (k : Fin 9) (t : BitVec 12)
  /-- WARM (R554): RST_CMD.WARM resets the data path, keeping the running image, tables and links; sent by a host port or by the I3C target (none). -/
  | warm (w : Option HostNo)
  /-- COLD (R554): RST_CMD.COLD resets everything except the AON island; sent by a host port or by the I3C target (none). -/
  | cold (w : Option HostNo)
  /-- PERST_DEASSERT (R547): Deassertion of PERST# lets a host port start link training, with the width and speed that it reaches and what its host then sets. -/
  | perstDeassert (h : HostNo) (width : BitVec 4) (speed : BitVec 4) (cfg : HostSettings)
  /-- SET (R560): TIME_CMD.SET replaces the time unit's time. -/
  | timeSet (h : HostNo)
  /-- STEP (R560): TIME_CMD.STEP adds a signed step to the time unit's time. -/
  | timeStep (h : HostNo)
  /-- I3C_PRIVATE_WRITE (R563): An I3C private write sets the register offset and optionally writes that register. -/
  | i3cPrivateWrite (off : Word) (v : Option Word)
  /-- I3C_PRIVATE_READ (R563): An I3C private read returns registers from the last offset given upward; `n` words. -/
  | i3cPrivateRead (n : Nat)
  /-- ENTDAA (R563): Dynamic address assignment gives the I3C target its address. -/
  | entdaa (addr : BitVec 7)
  /-- SAMPLE_PRELOAD (R565): JTAG instruction SAMPLE/PRELOAD in READY, shifting in `data`. -/
  | jtagSample (data : DWord)
  /-- EXTEST (R565): JTAG instruction EXTEST in READY, with `data` in the boundary cells. -/
  | jtagExtest (data : DWord)
  /-- ERROR_REPORT (R575): A CE or UE report updates the tracker entry of its location and finds a lasting fault at THRESH; a UE where `ue`; the rest of the report. -/
  | errorReport (cls : BitVec 8) (unit : BitVec 16) (loc : Word) (ue : Bool) (more : ReportMore)
  /-- INJ_ARM (R574): ERR_INJ_CMD.ARM arms the injector for the next write to the selected class and unit. -/
  | injArm (h : HostNo)
  /-- INJ_CANCEL (R601): ERR_INJ_CMD.CANCEL disarms the injector. -/
  | injCancel (h : HostNo)
  /-- ERROR_INJECT (R574): The next hardware write to the selected location stores inverted symbols and disarms the injector; `loc` is the location written. -/
  | errorInject (loc : Word)
  /-- SPARE_GO (R581): ERR_SPARE_CMD.GO restores a recorded remap. -/
  | spareGo (h : HostNo)
  /-- ERR_LOG_READ (R601): A read of ERR_LOG_W0 returns the head log entry and removes it. -/
  | errLogRead (h : HostNo)
  /-- STAT_CONFIG_WRITE (R587): A write of STAT_PERIOD_MS, STAT_ALIGN or EN reschedules or starts or stops statistics periods; `which` is 0 for STAT_PERIOD_MS, 1 and 2 for the words of STAT_ALIGN, 3 for STAT_CTRL. -/
  | statConfigWrite (h : HostNo) (which : Fin 4) (v : Word)
  /-- PMC_SAMPLE (R592): A SAMPLE counter reaching PMC_PERIOD records a thread and PC sample and restarts. -/
  | pmcSample (sl : SliceNo)
  /-- PMS_READ (R593): A read of PMS_W0 returns the head sample and removes it. -/
  | pmsRead (h : HostNo) (sl : SliceNo)
  /-- PERF_FREEZE (R594): PERF_CMD FREEZE schedules every performance counter to stop at the action time (SCHED where `sched`). -/
  | perfFreeze (h : HostNo) (sched : Bool)
  /-- PERF_UNFREEZE (R594): PERF_CMD UNFREEZE schedules the counters to start again at the action time (SCHED where `sched`). -/
  | perfUnfreeze (h : HostNo) (sched : Bool)
  /-- SNAPSHOT (R594): PERF_CMD SNAPSHOT schedules a copy of every counter into its snapshot register (SCHED where `sched`). -/
  | snapshot (h : HostNo) (sched : Bool)
  /-- TIME_NOW_NS_READ (R569): A read of TIME_NOW_NS returns the nanoseconds and samples the whole time into the reading host port's latch for TIME_NOW_SL and TIME_NOW_SH. -/
  | timeNowNsRead (h : HostNo)
  /-- TIME_PPS_IN_NS_READ (R569): A read of TIME_PPS_IN_NS returns the latched nanoseconds and latches the PPS seconds words for TIME_PPS_IN_SL and TIME_PPS_IN_SH. -/
  | timePpsInNsRead (h : HostNo)
  /-- AE_DBG_DATA_LO_READ (R350): A read of AE_DBG_DATA_LO samples the whole debug-window item of the selected thread so that AE_DBG_DATA_HI returns the same sample. -/
  | aeDbgDataLoRead (h : HostNo) (sl : SliceNo)
  /-- LOAD_VERIFY (R68): After the last byte the loader makes the cross-section, key, signature, rollback and placement checks and reaches STAGED or FAILED within 2 ms. -/
  | loadVerify
  /-- ACTIVATION (R77): When the armed activation time is reached, every ingress pipeline switches to the new epoch and the loader enters DRAINING or IDLE. -/
  | activation
  /-- EPOCH_RETIRE (R85): When the old epoch's live-tag count reaches zero it retires, its banks are freed and units it alone placed are cleared. -/
  | epochRetire
  /-- DRAIN_SLOW (R86): DRAINING lasting IMG_DRAIN_LIMIT microseconds raises IMG_EVENTS.DRAIN_SLOW. -/
  | drainSlow
  /-- ARB_AUTO_ADVANCE (R105): With ARB_AUTO set, FUSE_ARB is advanced to the new image's SVN at retirement, or as soon as a fuse change in progress completes. -/
  | arbAutoAdvance
  /-- VERSION_RETIRE (R91): When the old version's live-tag count reaches zero it retires, a pending commit is performed and retirement sweeps start. -/
  | versionRetire
  /-- VERSION_DRAIN_SLOW (R91): An old version live for VER_DRAIN_LIMIT microseconds raises VER_EVENTS.DRAIN_SLOW. -/
  | versionDrainSlow
  /-- FUSE_CHANGE_DONE (R97): A fuse-counted change completes by setting COMPLETE in its change log record and clearing BUSY. -/
  | fuseChangeDone
  /-- WRITE_MEMBER (R283): Replication command WRITE_MEMBER changes one member record in one clock. -/
  | writeMember
  /-- READ_MEMBER (R290): Replication command READ_MEMBER returns one member record. -/
  | readMember
  /-- SET_LIST (R283): Replication command SET_LIST replaces FIRST and COUNT of a list head in one clock. -/
  | setList
  /-- READ_LIST (R290): Replication command READ_LIST returns a list head. -/
  | readList
  /-- FRAME_ADMIT (R370): A frame's first cell is metered and admitted, refused, spilled or replicated under pool and queue admission. -/
  | frameAdmit
  /-- CELL_ADMIT (R372): A later cell of an admitted frame is written into the same pool, charging the rest of the length and carrying any bad mark. -/
  | cellAdmit
  /-- CELL_FREE (R377): A free is checked for range, double free and ownership, then frees a raw cell or decrements a frame cell's REF. -/
  | cellFree
  /-- ALLOC (R403): Pool command ALLOC allocates a raw cell owned by the host port. -/
  | bpmAlloc
  /-- READ_STATE (R403): Pool command READ_STATE returns a cell's state record. -/
  | bpmReadState
  /-- SET_ATOMIC (R393): Pool command SET_ATOMIC sets the atomic attribute of a list. -/
  | setAtomic
  /-- CLEAR_ATOMIC (R393): Pool command CLEAR_ATOMIC clears the atomic attribute of a list. -/
  | clearAtomic
  /-- READ_ATOMIC (R403): Pool command READ_ATOMIC returns a list's atomic attribute. -/
  | readAtomic
  /-- BPM_FREE (R377): A write to BPM_FREE_CMD frees a cell with the host port as freeing party. -/
  | bpmFree
  /-- SHAPER_REFILL (R466): Every 256 traffic-manager clocks shapers and policers refill and pending rate changes and the new queue plan take effect. -/
  | shaperRefill
  /-- PFC_FRAME_RX (R486): A received PFC frame sets or ends the pause timers of its enabled priorities. -/
  | pfcFrameRx
  /-- AMILER_REQUEST (R528): The engine checks a diverted frame's format, key, MAC and sequence and executes its entries, then responds. -/
  | amilerRequest
  /-- AML_WRITE (R526): Amiler entry WRITE makes a 4-byte register write with the host's rights. -/
  | amlWrite
  /-- AML_READ (R526): Amiler entry READ makes a 4-byte register read. -/
  | amlRead
  /-- AML_WAIT (R526): Amiler entry WAIT repeats a read until the masked value is zero or WAIT_US passes. -/
  | amlWait
  /-- AML_READ64 (R526): Amiler entry READ64 makes an aligned 8-byte counter read. -/
  | amlRead64
  /-- FABRIC_SLEEP (R543): The fabric idle for FABRIC_US sleeps and sends sleep requests to running HBM controllers. -/
  | fabricSleep
  /-- FABRIC_WAKE (R543): A wake request wakes the fabric and applies the refills and gate states missed. -/
  | fabricWake
  /-- INPUT_QUALIFIED (R545): 48 V above 44 V for 10 ms with AUTO_ON and no remembered exit starts POWER_UP. -/
  | inputQualified
  /-- SHUTDOWN_DONE (R549): Shutdown completes and the fantail enters STANDBY. -/
  | shutdownDone
  /-- RAILS_GOOD (R546): All rails are good and the fantail enters INIT, starting clocks. -/
  | railsGood
  /-- STARTUP_DONE (R546): The start-up steps complete and the fantail enters READY. -/
  | startupDone
  /-- POWER_ON_RESET (R553): The standby rail rising resets everything including the AON island. -/
  | powerOnReset
  /-- WARM_RESET_DONE (R555): A warm reset completes within 500 µs and BAR0 accesses resume. -/
  | warmResetDone
  /-- DEFERRED_RESET_START (R557): A reset requested while a fuse change was busy starts when BUSY returns to 0. -/
  | deferredResetStart
  /-- REF_LOST (R561): No 10 MHz edge for 1 µs puts the time synthesiser in holdover on the MEMS reference. -/
  | refLost
  /-- REF_RELOCK (R561): The 10 MHz input stable for 100 ms relocks the time synthesiser. -/
  | refRelock
  /-- PPS_IN_EDGE (R562): A rising 1PPS input edge latches the time. -/
  | ppsInEdge
  /-- PPS_OUT_RISE (R562): The 1PPS output rises when nanoseconds equal OFFSET_NS. -/
  | ppsOutRise
  /-- PPS_OUT_FALL (R562): The 1PPS output falls after WIDTH_MS. -/
  | ppsOutFall
  /-- BYPASS (R565): JTAG instruction BYPASS. -/
  | jtagBypass
  /-- IDCODE (R565): JTAG instruction IDCODE returns the device identification. -/
  | jtagIdcode
  /-- SPARE_REMAP (R579): A location is copied into a spare and remapped within 2 µs of the deciding report. -/
  | spareRemap
  /-- STAT_BOUNDARY (R584): At each period boundary participating counters latch into shadows and restart at zero. -/
  | statBoundary
  /-- PERF_ACTION (R594): At the action time every counter carries out the pending freeze, unfreeze or snapshot. -/
  | perfAction
  /-- STANDBY_RAIL_LOSS (R626): The 3.3 V standby rail falls below 3.135 V, leaving the AON island on the conversion while 48 V is present, or unpowered otherwise. -/
  | standbyRailLoss
  deriving DecidableEq, Repr

end Sys2Proof
end

