-- ==== Sys2Proof/Decode.lean ====
section
/-! DEFINITION. The reader of command words. spec/opcode_table.json gives no row any bits, and no rule spells a command as a word:
no word spells a command (log 1). -/
namespace Sys2Proof

/-- The command that a word of `nbits` bits spells by the table's bits: no row has bits, so there is none. -/
def decodeTableWord (_nbits _w : Nat) : Option Instr := none

end Sys2Proof
end

