-- ==== Sys2Proof/Config.lean ====
section
/-! DEFINITION. What the spec leaves open and the model leaves free: opaque constants with no body. -/
namespace Sys2Proof.Config

/-- DESIGN CHOICE (log 2). The value of the n-th quantity that the spec leaves open: nothing constrains it.
A meaning applies it to `Dev.freeCount` and advances that counter, so each use is a fresh value. -/
opaque freeValue : Nat → Nat

/-- Frames that the input FIFO of a recirculation source holds, less one (R33): the spec states no depth (log 146). -/
opaque recircFifo : Nat

/-- The LPM index (R236), which the spec leaves to the device (log 16): the bucket that it selects for an address of a VRF, and
the index words that this reads, the covering-prefix record last; by slice, first unit, layout number, VRF and address. -/
opaque lpmBucket : Nat → Nat → Nat → Nat → Nat → Nat
opaque lpmWords : Nat → Nat → Nat → Nat → Nat → List Nat

/-- Whether a split of an LPM bucket moves the prefix in a slot (R239, log 16): by slice, layout number and slot. -/
opaque lpmMoves : Nat → Nat → Nat → Bool

/-- Byte `i` of the last of the four patterns that TEST_PAGES writes (R441), which the spec does not state (log 167). -/
opaque testPattern : Nat → BitVec 8

/-- DEV_VARIANT.OPTICS, loaded from fuses (R4): false is QZ1024-D5 (0x01), true is QZ1024-D2K (0x02). -/
opaque opticsD2K : Bool

/-- The JEP106 code of the manufacturer, which the JTAG IDCODE holds (R565): the spec does not state it. -/
opaque jep106 : Nat

/-- Bits 47:33 of the I3C provisioned ID (R563): the manufacturer's MIPI ID, which the spec does not state (log 125). -/
opaque mipiId : Nat

end Sys2Proof.Config
end

