-- ==== Sys2Proof/Machine/Bits.lean ====
section
/-! DEFINITION. Bit fields, sign extension and byte order, over natural numbers. -/
namespace Sys2Proof.Machine

/-- Bits `lo + w - 1` down to `lo` of `n`: the spec's `REG.FIELD`. -/
def fld (n lo w : Nat) : Nat := (n / 2 ^ lo) % 2 ^ w

/-- `n` with bits `lo + w - 1` down to `lo` replaced by `v`. -/
def putFld (n lo w v : Nat) : Nat := n - fld n lo w * 2 ^ lo + (v % 2 ^ w) * 2 ^ lo

/-- 1 for true, 0 for false. -/
def b2n (b : Bool) : Nat := if b then 1 else 0

/-- A register word from (low bit, width, value) fields. -/
def packFields : List (Nat × Nat × Nat) → Nat
  | [] => 0
  | (lo, w, v) :: fs => (v % 2 ^ w) * 2 ^ lo + packFields fs

/-- The value of the low `w` bits read as a two's complement number. -/
def sext (w n : Nat) : Int := if fld n (w - 1) 1 = 1 then (n % 2 ^ w : Int) - 2 ^ w else (n % 2 ^ w : Int)

/-- A signed number as a `w`-bit word. -/
def ofInt (w : Nat) (i : Int) : Nat := (i % (2 ^ w : Int)).toNat

/-- Little-endian number of a byte list. -/
def leNat : List Byte → Nat
  | [] => 0
  | b :: bs => b.toNat + 256 * leNat bs

/-- Big-endian number of a byte list. -/
def beNat (bs : List Byte) : Nat := bs.foldl (fun a b => a * 256 + b.toNat) 0

/-- `k` bytes of `n`, least significant first. -/
def leBytes : Nat → Nat → List Byte
  | 0, _ => []
  | k + 1, n => BitVec.ofNat 8 n :: leBytes k (n / 256)

/-- `k` bytes of `n`, most significant first. -/
def beBytes (k n : Nat) : List Byte := (leBytes k n).reverse

/-- Bytes `off` to `off + len - 1` of a byte string. -/
def slice (bs : List Byte) (off len : Nat) : List Byte := (bs.drop off).take len

/-- Byte `off` of a byte string; 0 past its end. -/
def byteAt (bs : List Byte) (off : Nat) : Nat := ((bs.drop off).headD 0).toNat

/-- Little-endian field of `len` bytes at `off`. -/
def leAt (bs : List Byte) (off len : Nat) : Nat := leNat (slice bs off len)

/-- Big-endian field of `len` bytes at `off`. -/
def beAt (bs : List Byte) (off len : Nat) : Nat := beNat (slice bs off len)

/-- `bs` with the bytes `new` in place of those from `off` on. -/
def spliceAt (bs : List Byte) (off : Nat) (new : List Byte) : List Byte :=
  bs.take off ++ new ++ bs.drop (off + new.length)

/-- The position of the first element that meets `p`. -/
def findPos {α : Type} (p : α → Bool) : List α → Option Nat
  | [] => none
  | a :: as => if p a then some 0 else (findPos p as).map (· + 1)

/-- The first element that meets `p`, with the list without it. -/
def takeFirst {α : Type} (p : α → Bool) : List α → Option (α × List α)
  | [] => none
  | a :: as => if p a then some (a, as) else
    match takeFirst p as with
    | none => none
    | some (b, rest) => some (b, a :: rest)

/-- A number takes its place in a rising list. -/
def insertNat (n : Nat) : List Nat → List Nat
  | [] => [n]
  | x :: xs => if n ≤ x then n :: x :: xs else x :: insertNat n xs

/-- Numbers in rising order. -/
def rising (ns : List Nat) : List Nat := ns.foldr insertNat []

/-- `a / b` rounded up. -/
def ceilDiv (a b : Nat) : Nat := (a + b - 1) / b

end Sys2Proof.Machine
end

