-- ==== Sys2Proof/Machine/StateBase.lean ====
section
/-! DEFINITION. The structures of State that every block shares: registers, time, host ports, rings, leases, the
fantail, the loader, versions, fuses, errors, statistics and performance counters. -/
namespace Sys2Proof.Machine

/-- The register bank: one home for the value of every register of `Machine/RegMap.lean`. A key is
`id * 2^20 + flat index`; the value stored is the exclusive or of the register's value with its reset value, so the
empty bank is every register at reset and no entry is 0. -/
structure Regs where
  /-- 32-bit registers. -/
  words : SMap Word := []
  /-- 64-bit counters and 64-bit registers. -/
  wides : SMap DWord := []
  /-- Shadows of statistics periods (R584), by the key of the counter. -/
  shadows : SMap DWord := []
  /-- Companion counts (R506), by register key * 32 + bit. -/
  companions : SMap Word := []
  /-- High-word latches (R12), by host * 2^40 + counter key. -/
  latches : SMap Word := []
  deriving DecidableEq, Repr

/-- PTP time (R136) with the 32-bit internal fraction of R559. -/
structure TimeUnit where
  secs : Nat := 0
  ns : Nat := 0
  frac : Nat := 0
  deriving DecidableEq, Repr

/-- Who makes a register access, and so whose rights it carries (R505, R528, R531, R344, R563). -/
inductive Accessor where
  /-- Host port h over PCIe. -/
  | host (h : Nat)
  /-- An Action Engine thread of a slice through the register bridge, with the rights of host port EXT. -/
  | bridge (h : Nat)
  /-- An in-band Amiler request with the rights of host port HOST. -/
  | amiler (h : Nat)
  /-- An out-of-band Amiler request of host port h. -/
  | oob (h : Nat)
  /-- The I3C target. -/
  | i3c
  deriving DecidableEq, Repr

/-- A register access held by the register bridge until its domain runs (R40, R42). -/
structure Access where
  who : Accessor
  addr : Nat
  write : Bool
  size : Nat
  value : Nat
  /-- W1C bits that hardware sets in the clock of a write, and what it updates an RC field to in that of a read. -/
  hwSet : Nat
  upd : Option Nat
  deriving DecidableEq, Repr

/-- What software set of one frame or record of a host's queue of punted frames (R518). -/
structure PuntEntry where
  fid : Nat
  cells : Nat
  /-- Its last cell has been admitted. -/
  whole : Bool
  deriving DecidableEq, Repr

/-- A PROGRAM descriptor in execution (R522): entries done, results written, an access fell under R7, and since when its
present WAIT entry has been tried. -/
structure DmaRun where
  done : Nat := 0
  outs : Nat := 0
  bad : Bool := false
  waitSince : Option Nat := none
  deriving DecidableEq, Repr

/-- One host port (12_host_control) with the part of its host's memory that the device reaches. -/
structure HostPort where
  /-- PERST# of the port is deasserted (R547). -/
  perstOff : Bool := false
  /-- The PCIe link is up. -/
  up : Bool := false
  /-- Bus Master Enable of the configuration space (R501). -/
  bme : Bool := false
  /-- Host memory behind the port's rings, descriptors and buffers. -/
  mem : List Host.Cell := []
  /-- Data of the last read the port completed. -/
  readData : DWord := 0
  /-- Whole time sampled by TIME_NOW_NS: seconds and top 16 bits of the fraction (R569). -/
  nowSecs : Nat := 0
  nowFrac : Nat := 0
  /-- Seconds latched by TIME_PPS_IN_NS (R569). -/
  ppsSecs : Nat := 0
  /-- Key bytes written to HPL_AML_KEY_j (R530), and the active key when VALID. -/
  keyStage : List Byte := []
  key : Option (List Byte) := none
  punt : List PuntEntry := []
  /-- Injection ring whose turn it is (R520) and the frame offered with its ring, not yet granted a lane. -/
  injTurn : Nat := 0
  injHeld : Option (Nat × Nat) := none
  /-- OOB Amiler request waiting or running (R531). -/
  oobBusy : Bool := false
  dma : Option DmaRun := none
  /-- The negotiated maximum payload size: 128 bytes * 2^mps (R66, R498). -/
  mps : Nat := 0
  /-- What the host last gave its link (PERST_DEASSERT): width, speed code, Bus Master Enable, payload size (log 53). -/
  lnkWidth : Nat := 0
  lnkSpeed : Nat := 0
  lnkBme : Bool := false
  lnkMps : Nat := 0
  /-- MSI-X vectors sent, newest first: the model's record of what left the port. -/
  msixSent : List Nat := []
  deriving DecidableEq, Repr

/-- What a ring keeps beside its registers (R509, R514). -/
structure RingState where
  seq : Nat := 0
  /-- Records written since the last raise was consumed. -/
  unsignalled : Nat := 0
  /-- Time of the oldest unsignalled record. -/
  oldest : Nat := 0
  /-- A raise is outstanding until software writes RING_CONS. -/
  raised : Bool := false
  /-- Records were lost since the last one written. -/
  lost : Bool := false
  deriving DecidableEq, Repr

/-- A record queued for an event ring (R508 to R511), with the time at which it was queued. -/
structure RingRecord where
  host : Nat
  ring : Nat
  typ : Nat
  aux : Nat
  payload : List Byte
  secs : Nat
  ns : Nat
  deriving DecidableEq, Repr

/-- One lease (R502): its holder, generation and the time at which its term runs out. -/
structure Lease where
  holder : Option Nat := none
  gen : Nat := 0
  deadline : Nat := 0
  deriving DecidableEq, Repr

/-- Main states of the fantail (R545). -/
inductive FanState where
  | standby | powerUp | init | ready | shutdown | tripped
  deriving DecidableEq, Repr

/-- States of a slice core domain (R535). -/
inductive SliceState where
  | run | entering | asleep | waking
  deriving DecidableEq, Repr

/-- One slice as the fantail sees it. -/
structure SliceSt where
  st : SliceState := .run
  /-- A wake request is raised and not yet taken (R537). -/
  wakeReq : Bool := false
  /-- When the present state was entered. -/
  since : Nat := 0
  /-- Since when the idle rule of R536 has held; none while it does not. -/
  idleSince : Option Nat := none
  /-- Microseconds ASLEEP carry: nanoseconds not yet counted in FAN_ASLEEP_US. -/
  asleepNs : Nat := 0
  /-- Statistics boundaries that passed while the core or MAC domain was stopped (R585). -/
  missed : Nat := 0
  macMissed : Nat := 0
  /-- Core clocks that have passed, and those of them in which each engine used its issue slot, since the counters last
  restarted: the rest is AE_ENG_EMPTY (R347, R591). -/
  runClk : Nat := 0
  used : SMap Nat := []
  /-- Slots already accounted whose clocks the model's time has still to reach, by engine, by 32 + egress pipeline and by
  64 + ingress pipeline (R35, R590, R591). -/
  slots : SMap Nat := []
  /-- The MAC domain of the slice runs (R542), and when its last port left it idle. -/
  macRun : Bool := true
  macIdleSince : Nat := 0
  /-- Slice state of an activation or commit that it slept through (R79). -/
  switchDue : Bool := false
  deriving DecidableEq, Repr

/-- Kinds of reset waiting or running (R553, R557). -/
inductive ResetKind where
  | warm | cold
  deriving DecidableEq, Repr

/-- The fantail and reset controller (AON island). -/
structure Fan where
  st : FanState := .standby
  /-- When the main state was entered. -/
  since : Nat := 0
  /-- A shutdown or trip exit is remembered (R552). -/
  exitHeld : Bool := false
  /-- INPUT_OK: qualified and not below 40 V since (R568). -/
  inputOk : Bool := false
  /-- 48 V is present. -/
  inputHigh : Bool := false
  /-- The 3.3 V standby rail is present, and the AON island has power (R626). -/
  vsb3 : Bool := true
  aonOn : Bool := true
  hbmDone : Bool := false
  fabricAsleep : Bool := false
  fabricWakeReq : Bool := false
  fabricSince : Nat := 0
  fabricIdleSince : Option Nat := none
  fabricMissed : Nat := 0
  /-- A reset that waits for FUSE_STATUS.BUSY, and the source that asked for it (R557). -/
  resetWaiting : Option (ResetKind × Nat) := none
  /-- A warm reset that runs, with its start (R555). -/
  warmRunning : Option Nat := none
  /-- I3C: last BAR0 offset given by a private write; in-band interrupts raised, oldest first. -/
  i3cOffset : Nat := 0
  ibi : List Nat := []
  /-- Words that the last private read returned. -/
  i3cRead : List Word := []
  /-- The provisioned ID that the last ENTDAA sent (R563). -/
  i3cPid : Nat := 0
  /-- JTAG instruction in force: 0 BYPASS, 1 IDCODE, 2 SAMPLE/PRELOAD, 3 EXTEST (R565), its shift register and the
  boundary cells that it drives. -/
  jtagInsn : Nat := 0
  jtagData : Nat := 0
  jtagCells : Nat := 0
  /-- 1PPS output level and when it rose (R562). -/
  ppsOut : Bool := false
  ppsOutSince : Nat := 0
  deriving DecidableEq, Repr

/-- Loader states (R72). -/
inductive LoaderState where
  | empty | idle | loading | staged | armed | draining | failed
  deriving DecidableEq, Repr

/-- States of one bank of the banked memories (R46). -/
inductive BankState where
  | free | staged | running | draining
  deriving DecidableEq, Repr

/-- One bank of every banked memory (R45), held as the image whose payloads it holds (R52). -/
structure ImgBank where
  st : BankState := .free
  img : List Byte := []
  deriving DecidableEq, Repr

/-- The loader (02_structure_image, "The loader"). -/
structure Loader where
  st : LoaderState := .empty
  held : Bool := false
  /-- IMG_OWNER.OWNER; kept as written by the last claim. -/
  owner : Nat := 0
  err : Nat := 0
  /-- Bytes received so far, in order; IMG_NEXT_OFFSET is their number. -/
  img : List Byte := []
  /-- Sampled activation time (R78); 0 is at once. -/
  armTime : Nat := 0
  /-- When DRAINING began, and whether DRAIN_SLOW has been raised for it (R86). -/
  drainSince : Nat := 0
  slow : Bool := false
  /-- FORCE_RETIRE has been written during this DRAINING (R86). -/
  force : Bool := false
  /-- When the last image byte arrived (R70). -/
  lastByteAt : Nat := 0
  /-- An ARB_AUTO advance is due (R105). -/
  arbDue : Bool := false
  /-- Retirement has asked the sleeping slices to wake (R611). -/
  retireWake : Bool := false
  deriving DecidableEq, Repr

/-- Structure epochs (R75, R84): the running and the draining one. -/
structure Epochs where
  run : Option Nat := none
  old : Option Nat := none
  /-- Live tags of each epoch. -/
  live : SMap Nat := []
  deriving DecidableEq, Repr

/-- Rule versions (R87 to R92). -/
structure Versions where
  cur : Nat := 0
  old : Nat := 0
  oldLive : Bool := false
  pending : Bool := false
  force : Bool := false
  drainSince : Nat := 0
  slow : Bool := false
  /-- Live tags of each version. -/
  live : SMap Nat := []
  deriving DecidableEq, Repr

/-- A change log record (R106) as its four words. -/
structure LogRecord where
  w0 : Nat
  w1 : Nat
  w2 : Nat
  w3 : Nat
  /-- The 48 hash bytes of an enrolment, which the fuses of the slot hold. -/
  hash : List Byte
  deriving DecidableEq, Repr

/-- The fuse block: the log, oldest first, and the change in progress, whose STARTED record is the last of the log. -/
structure Fuses where
  log : List LogRecord := []
  busy : Bool := false
  /-- The whole record of the change in progress, written when it completes (R97). -/
  job : Option LogRecord := none
  result : Nat := 0
  deriving DecidableEq, Repr

/-- What a memory location holds wrong: a correctable or an uncorrectable codeword (R572). -/
structure Upset where
  cls : Nat
  unit : Nat
  loc : Nat
  ue : Bool
  inj : Bool
  /-- Which part of the location is wrong, a free value (R574): the stored-key bit for class 0x06, the copy for 0x09 (R237), the
  codeword of the line for 0x03 (R406). -/
  bit : Nat
  deriving DecidableEq, Repr

/-- A tracker entry (R575). -/
structure Track where
  cls : Nat
  unit : Nat
  loc : Nat
  first : Nat
  count : Nat
  deriving DecidableEq, Repr

/-- A lasting-fault log entry (R601). -/
structure ErrLog where
  cls : Nat
  unit : Nat
  loc : Nat
  ue : Bool
  inj : Bool
  action : Nat
  secs : Nat
  deriving DecidableEq, Repr

/-- A remapped location (R579, R581): location, its spare's number. -/
structure Remap where
  cls : Nat
  unit : Nat
  loc : Nat
  spare : Nat
  deriving DecidableEq, Repr

/-- A spare copy in progress (R579). -/
structure SpareJob where
  cls : Nat
  unit : Nat
  loc : Nat
  ue : Bool
  inj : Bool
  deriving DecidableEq, Repr

/-- Errors, tracker, sparing and injector (14_reliability_telemetry). -/
structure Errs where
  upsets : List Upset := []
  tracker : List Track := []
  log : List ErrLog := []
  remaps : List Remap := []
  spareJobs : List SpareJob := []
  /-- Locations of R580 (classes 0x07 and 0x08) never to be used again once freed, as (class, unit, loc). -/
  retired : List (Nat × Nat × Nat) := []
  /-- Locations of R582 that hold a poisoned codeword, as (class, unit, loc). -/
  poisoned : List (Nat × Nat × Nat) := []
  /-- HBM pages that a lasting fault retires (R432), as (stack, page), oldest first. -/
  pageReq : List (Nat × Nat) := []
  /-- Page table entries, by stack and page, that a reader has found uncorrectable: the freeze of R431 follows in the same row. -/
  tableLost : List (Nat × Nat) := []
  armed : Bool := false
  deriving DecidableEq, Repr

/-- A performance sample (R593). -/
structure Sample where
  counter : Nat
  thread : Nat
  event : Nat
  pc : Nat
  epoch : Nat
  inTrap : Bool
  ns : Nat
  secs : Nat
  deriving DecidableEq, Repr

/-- A sample that a counter has called for and that has not been taken (R592): the PC is that of the thread's last
microword, and `left` of its next microwords may still come. -/
structure SampleDue where
  slice : Nat
  counter : Nat
  thread : Nat
  event : Nat
  pc : Nat
  left : Nat
  deriving DecidableEq, Repr

/-- Statistics periods, performance counter control and samples. -/
structure Stats where
  /-- T of the next boundary and whether it ends a short period; none while STAT_CTRL.EN is 0 (R584, R587). -/
  next : Option Nat := none
  short : Bool := false
  frozen : Bool := false
  /-- PERF action waiting: 1 FREEZE, 2 UNFREEZE, 3 SNAPSHOT, with its time T (R594). -/
  perf : Option (Nat × Nat) := none
  snapSeq : Nat := 0
  /-- Sample FIFO of each slice. -/
  samples : SMap (List Sample) := []
  /-- Samples called for and not yet taken (R592). -/
  due : List SampleDue := []
  deriving DecidableEq, Repr

end Sys2Proof.Machine
end

