-- ==== Sys2Proof/Machine/StateAe.lean ====
section
/-! DEFINITION. The structures of State for the Action Engine arrays (chapter 08). -/
namespace Sys2Proof.Machine

/-- States of a thread (R294, R348). -/
inductive ThrState where
  | disabled | run | idle | blkRd | blkWr | blkShare | waiting | stopped | faulted
  deriving DecidableEq, Repr

/-- One thread (R291). -/
structure Thread where
  st : ThrState := .disabled
  /-- Epoch of the fetch bank (R333). -/
  epoch : Nat := 0
  pc : Nat := 0
  /-- g1 to g31. -/
  regs : SMap DWord := []
  z : Bool := false
  n : Bool := false
  c : Bool := false
  v : Bool := false
  x : Bool := false
  /-- Return addresses, latest first. -/
  stack : List Nat := []
  /-- Time at which the timer reaches 0, while it runs; it has expired; its expiry interrupts. -/
  timer : Option Nat := none
  expired : Bool := false
  timerInt : Bool := false
  /-- Frames held, by slot: frame number plus 1. -/
  slots : SMap Nat := []
  staged : List DWord := []
  stageChan : Nat := 0
  /-- CHSEND has been issued for the staged words and waits for room (R331). -/
  sendWaits : Bool := false
  /-- The CHWR with SEND that waits staged the last word itself (R325, log 42). -/
  sendOwn : Bool := false
  /-- Moved to the running bank while in an idle read: the next message continues it at IDLE_CONT (R335). -/
  idleMove : Bool := false
  tsPc : Nat := 0
  tsFlags : Nat := 0
  tsCause : Nat := 0
  tsDetail : Nat := 0
  tsCsp : Nat := 0
  inTrap : Bool := false
  sigpend : Bool := false
  /-- Interrupts raised and not yet taken. -/
  timerIrq : Bool := false
  sigIrq : Bool := false
  /-- Blocked read: its channel, destination register and kind; when the wait began. -/
  rdChan : Nat := 0
  rdDst : Nat := 0
  since : Nat := 0
  /-- WAIT: condition, gA and B, TMO (R320). -/
  waitCond : Nat := 0
  waitA : Nat := 0
  waitB : Nat := 0
  waitTmo : Bool := false
  /-- FLD waits, in RUN, for a byte (R313). -/
  fldWait : Bool := false
  /-- STEP is in force; stopped by a breakpoint; the breakpoint at PC has been passed. -/
  stepping : Bool := false
  bpHit : Bool := false
  bpPass : Bool := false
  /-- STALLED_WRITER has been posted for this stop (R338). -/
  stallPosted : Bool := false
  /-- Last fault: cause, handled, PC (R348). -/
  faultCause : Nat := 0
  faultHandled : Bool := false
  faultPc : Nat := 0
  deriving DecidableEq, Repr

/-- A message of a channel (R304): its words, its frame if it is a frame message, when it was committed. -/
structure Msg where
  words : List DWord
  frame : Option Nat
  at_ : Nat
  /-- First word of channel storage that it occupies. -/
  loc : Nat
  /-- MILLER_STALL has been set for it (R328). -/
  stalled : Bool
  deriving DecidableEq, Repr

/-- One channel: its record in force, whether a new one waits (R336), its messages, oldest first. -/
structure Chan where
  en : Bool := false
  cap : Nat := 0
  readers : Nat := 0
  cfgDue : Bool := false
  msgs : List Msg := []
  /-- Words ever committed: where the next message is stored. -/
  written : Nat := 0
  /-- Time of the last STEER_FULL event, plus 1 (R310). -/
  fullAt : Nat := 0
  deriving DecidableEq, Repr

/-- Watchdog of one engine (R332): since when its condition has held; it has fired. -/
structure Watchdog where
  since : Option Nat := none
  fired : Bool := false
  deriving DecidableEq, Repr

/-- When a thread last issued (R292, R293): its place in the order of all issues, and the time from which the results of that
microword are available. -/
structure Issue where
  order : Nat := 0
  ready : Nat := 0
  deriving DecidableEq, Repr

/-- The arrays of all slices. -/
structure Array8 where
  /-- Threads by slice * 256 + thread. -/
  threads : SMap Thread := []
  /-- Last issues, by slice * 256 + thread; microwords issued so far. -/
  issue : SMap Issue := []
  issues : Nat := 0
  /-- Channels by slice * 256 + channel. -/
  chans : SMap Chan := []
  /-- Scratch memory by (slice * 32 + engine) * 4096 + word. -/
  scratch : SMap DWord := []
  dogs : SMap Watchdog := []
  /-- Events were lost since the last one queued, by slice (R328). -/
  evLost : SMap Bool := []
  /-- Patch overlay: ((slice * 2 + bank) * 65536 + address) to the microword (R340). -/
  overlay : SMap (Option Nat) := []
  /-- Words staged by a patch command set: address and microword, by slice * 4 + host port (R341). -/
  patch : SMap (List (Nat × Nat)) := []
  /-- A COMMIT or CLEAR_ALL waits for its guard since this time, by slice (R341). -/
  guardWait : SMap (Option Nat) := []
  deriving DecidableEq, Repr

end Sys2Proof.Machine
end

