-- ==== Sys2Proof/Machine/StateFwd.lean ====
section
/-! DEFINITION. The structures of State for frames on their way: carrier tags, hoppers, pipeline passes, cells,
resequencers, the shared buffer and copies (chapters 04, 07 and 09). -/
namespace Sys2Proof.Machine

/-- The carrier tag (R171). -/
structure Tag where
  epoch : Nat := 0
  version : Nat := 0
  lport : Nat := 0
  ct : Bool := false
  stomp : Bool := false
  mcast : Bool := false
  queue : Nat := 0
  bin : Nat := 0
  colour : Nat := 0
  reason : Nat := 0
  pass : Nat := 0
  hostInj : Bool := false
  aeRet : Bool := false
  /-- Arrival timestamp in the 48-bit layout of R138. -/
  ts : Nat := 0
  seq : Nat := 0
  repl : Nat := 0
  copy : Nat := 0
  puntHost : Nat := 0
  user0 : Nat := 0
  user1 : Nat := 0
  user2 : Nat := 0
  deriving DecidableEq, Repr

/-- A result slot (R263) with the fields of R183, R219. -/
structure Slot where
  result : Nat := 0
  hit : Bool := false
  multi : Bool := false
  tie : Bool := false
  err : Bool := false
  addr : Nat := 0
  learned : Bool := false
  deriving DecidableEq, Repr

/-- Dispositions of a frame in a pipeline (R266). -/
inductive Disp where
  | forward | discard | toAe | punt | recirc
  deriving DecidableEq, Repr

/-- A write-back record (R270): source bit offset and width. -/
structure WriteBack where
  off : Nat
  width : Nat
  deriving DecidableEq, Repr

/-- One edit as accepted when its word executed (R273). -/
inductive Edit where
  /-- Insert bytes before byte `p` of the head. -/
  | push (p : Nat) (bytes : List Byte)
  /-- Remove bytes `p` to `p + len - 1`. -/
  | pop (p len : Nat)
  /-- Recompute the IPv4 checksum at input position `p`, or, with `ins`, at the first byte of inserted edit `ins`
  plus `p`; `len` 0 takes the length from the IHL. -/
  | csum (p : Nat) (ins : Option Nat) (len : Nat)
  deriving DecidableEq, Repr

/-- A PATCH (R274): edit it writes into, byte in the insert, byte count, value; `after` names the LEN_AFTER byte. -/
structure Patch where
  edit : Nat
  at_ : Nat
  len : Nat
  value : Nat
  after : Option Nat
  deriving DecidableEq, Repr

/-- A COUNT whose byte count waits for the frame's length (R644): stage and counter. -/
structure Deferred where
  egress : Bool
  slice : Nat
  pipe : Nat
  stage : Nat
  ctr : Nat
  deriving DecidableEq, Repr

/-- A lookup record on its way to a slot (R263): the stage at whose cycle 0 (or cycle 4 for TCAM) it lands. -/
structure Landing where
  stage : Nat
  tcam : Bool
  slot : Nat
  record : Slot
  /-- REASON that a failed verification or a memory error writes (R188, R221); 0 none. -/
  reason : Nat
  deriving DecidableEq, Repr

/-- What a frame carries through one pipeline: header vector, slots, disposition, edits. -/
structure Pass where
  /-- Containers (R162, R271), 0 where not listed. -/
  cont : SMap Nat := []
  /-- Write-back records of containers, 0 width standing for none. -/
  wb : SMap WriteBack := []
  dirty : List Nat := []
  valid : Nat := 0
  parseLen : Nat := 0
  excNode : Nat := 0xFF
  slots : SMap Slot := []
  landing : List Landing := []
  disp : Disp := .forward
  edits : List Edit := []
  patches : List Patch := []
  /-- The head (at most 256 bytes) as it entered the pipeline. -/
  head : List Byte := []
  /-- Two-step capture request (R280): capture ID; one-step request: byte and checksum byte. -/
  tscap : Option Nat := none
  ts1 : Option (Nat × Option Nat) := none
  deriving DecidableEq, Repr

/-- Sources of an ingress pipeline (R31, R158). -/
inductive Source where
  | port | recirc | aeRet | host
  deriving DecidableEq, Repr

/-- Where a frame is. -/
inductive Place where
  /-- In the receive MAC, its segments not all handed to the hopper. -/
  | mac
  /-- Its head queued in the hopper for the arbiter (R149). -/
  | hopper
  /-- Offered by an internal source of a pipeline (R31). -/
  | offered
  /-- Granted lane `lane` and not yet parsed. -/
  | granted (lane : Nat)
  /-- About to enter ingress stage `n`. -/
  | ingress (n : Nat)
  /-- Past its forward verdict, not yet deparsed. -/
  | deparse
  /-- Sent to the millrace, admitted or waiting for admission. -/
  | fabric
  /-- Held by the Action Engine array. -/
  | array
  /-- In the punt queue of a host port or the Amiler engine. -/
  | punted
  /-- Gone: only segments still to be discarded remain. -/
  | gone
  deriving DecidableEq, Repr

/-- Where a frame that leaves an ingress pipeline is bound (R278, R518, R524). -/
inductive Dest where
  | queue
  | array (chan : Nat)
  | punt (host : Nat)
  | amiler (host : Nat)
  deriving DecidableEq, Repr

/-- What the fabric die has decided of a frame. -/
inductive Fate where
  | none | admitted | discarded
  deriving DecidableEq, Repr

/-- A frame in the device, from its first byte until its last copy is finished with. -/
structure Frame where
  src : Source := .port
  /-- Ingress logical port. -/
  lport : Nat := 0
  /-- Slice and pipeline that it enters. -/
  slice : Nat := 0
  pipe : Nat := 0
  place : Place := .mac
  /-- Order of arrival of first segments (R149), and of offering. -/
  arrival : Nat := 0
  /-- Bytes that the receive MAC has still to hand over, and how many it has handed over. -/
  mac : List Byte := []
  taken : Nat := 0
  /-- Bytes of the frame that have come in, FCS included. -/
  bytes : List Byte := []
  /-- Bad reason (R384) that the receive MAC will give at the last segment, and its counter: 0 none. -/
  macBad : Nat := 0
  /-- Bad reason found so far; 0 none. -/
  bad : Nat := 0
  /-- The last segment has been handed on. -/
  whole : Bool := false
  /-- Segments of its reservation left, segments held by the hopper (R148). -/
  resv : Nat := 0
  held : Nat := 0
  /-- The verdict has released it; or discards it (R150, R151). -/
  released : Bool := false
  dropping : Bool := false
  /-- Segments held whose hopper word holds a parity error not yet found (R155): segment * 2^20 + location. -/
  parity : List Nat := []
  /-- Arrival time: seconds, nanoseconds and fraction. -/
  tsSecs : Nat := 0
  tsNs : Nat := 0
  tsFrac : Nat := 0
  hasTag : Bool := false
  tag : Tag := {}
  /-- Epoch and version of the pipeline in the clock of its lane grant, none where no image ran (R29, R74, R168); and the
  order of that grant among all, by which earlier frames of a pipeline go first (R30). -/
  stamp : Option (Nat × Nat) := none
  order : Nat := 0
  ps : Pass := {}
  /-- Byte counts of COUNT operations that wait for the length (R644). -/
  deferred : List Deferred := []
  dest : Dest := .queue
  /-- Deparsed head (bytes that replace the first `headIn` input bytes) once deparsed. -/
  head : List Byte := []
  headIn : Nat := 0
  /-- The deparser has cut the frame at 16,383 bytes (R277). -/
  cut : Bool := false
  /-- Cells handed to the link edge, and whether the last one has been. -/
  sent : Nat := 0
  sentLast : Bool := false
  /-- Context of its cells (R361). -/
  ctx : Nat := 0
  /-- Bytes admitted by the fabric die, and the shared buffer cells that hold them. -/
  blen : Nat := 0
  cells : List Nat := []
  /-- Cells that have come out of the resequencer. -/
  nCells : Nat := 0
  /-- What admission has decided: nothing yet, admitted, or discarded with its later cells. -/
  fate : Fate := .none
  /-- Its pool; whether its last cell is in; the bad reason that the fabric die knows. -/
  pool : Nat := 0
  bufWhole : Bool := false
  bufBad : Nat := 0
  /-- Policer that meters it, and the bytes of its first cell (R471). -/
  meter : Option Nat := none
  b1 : Nat := 0
  /-- The PFC count that its cells raise: logical port * 8 + priority (R488). -/
  pfc : Option Nat := none
  /-- Copies that still refer to the frame. -/
  nCopies : Nat := 0
  /-- It waits for its last cell to be replicated on an atomic list (R393). -/
  atomic : Bool := false
  /-- The COPY and QUEUE of each copy of its list, as read when its first cell was admitted (R282). -/
  members : List (Nat × Nat) := []
  /-- Spilled: its stack, the lines of its cells in order, the cells in spill staging not yet written (R411, R412); and until the
  last one is written the bytes of all its cells and their places in the spill engine's order (R420). -/
  stack : Option Nat := none
  lines : List Nat := []
  staged : Nat := 0
  stageData : List (List Byte) := []
  stageSeq : List Nat := []
  /-- Host port of a punt or injection; injection ring. -/
  host : Nat := 0
  ring : Nat := 0
  /-- Steered to the array: it has been offered to its channel (R310); the thread that returned it (R315); the frame that
  takes the bytes still to come, when it was returned before its last cell (R316). -/
  steered : Bool := false
  outThr : Nat := 0
  fwd : Option Nat := none
  deriving DecidableEq, Repr

/-- Where a copy is. -/
inductive CopyPlace where
  /-- In its queue. -/
  | queued
  /-- Started: cells go to the egress slice. -/
  | started
  deriving DecidableEq, Repr

/-- What an egress pipeline has decided of a copy (R279). -/
inductive EgressVerdict where
  | none | forward | discard | recirc
  deriving DecidableEq, Repr

/-- One copy of a frame (R28). -/
structure Copy where
  fid : Nat := 0
  tag : Tag := {}
  queue : Nat := 0
  bin : Nat := 0
  place : CopyPlace := .queued
  /-- Cells read from the buffer and sent outbound, and whether the last one has been. -/
  sent : Nat := 0
  sentLast : Bool := false
  /-- Bad reason carried (R385). -/
  bad : Nat := 0
  /-- Egress: the head is in the pipeline before stage `n`; none before and after. -/
  stage : Option Nat := none
  verdict : EgressVerdict := .none
  ps : Pass := {}
  /-- Deparsed head and the number of input bytes it replaces, once deparsed. -/
  head : List Byte := []
  headIn : Nat := 0
  /-- Deparsing has been done. -/
  deparsed : Bool := false
  /-- The deparser has cut the copy at 16,383 bytes (R277). -/
  cut : Bool := false
  /-- Bytes the resequencer has released, and whether the last cell was among them. -/
  rel : List Byte := []
  relWhole : Bool := false
  /-- The head has been released to the egress MAC (R363). -/
  headOut : Bool := false
  /-- Spill state (R413): 0 never spilled, 1 SPILLING, 2 PARKED, 3 FILLING, 4 RESIDENT. -/
  spill : Nat := 0
  /-- When it became a fill candidate (R416); cells read back. -/
  candAt : Option Nat := none
  filled : Nat := 0
  /-- Place of its reads in the fill engine's order of issue (R420). -/
  readSeq : Nat := 0
  /-- Multicast copy (R391). -/
  mcast : Bool := false
  /-- The frame that it has become at the recirculation source (R279). -/
  recircTo : Option Nat := none
  /-- It has left the egress side: its tag is removed, and cells still to come are discarded. -/
  ended : Bool := false
  /-- Bytes on the wire for which BUSY of its port stands (R483, R484). -/
  wired : Nat := 0
  /-- The second part of a two-part charge is due (R445). -/
  owes : Bool := false
  /-- When it was first found oversize for its gate (R484). -/
  ovsSince : Option Nat := none
  /-- Byte counts of egress COUNT operations that wait for the length (R644). -/
  deferred : List Deferred := []
  deriving DecidableEq, Repr

/-- A cell on a link or in a resequencer (R352). `owner` is the frame inbound, the copy outbound. -/
structure Cell where
  outbound : Bool
  slice : Nat
  pipe : Nat
  seq : Nat
  ctx : Nat
  cidx : Nat
  first : Bool
  last : Bool
  bad : Nat
  owner : Nat
  /-- Epoch and version of its tag, which it holds until it is released (R85, R91). -/
  epoch : Nat
  version : Nat
  plane : Nat
  data : List Byte
  /-- A word of it is poisoned (R367). -/
  poison : Bool
  /-- A pending slot of R362 has become ready; inbound cells are ready on arrival. -/
  ready : Bool
  deriving DecidableEq, Repr

/-- States of a resequencer context (R361). -/
inductive CtxState where
  | idle
  | inFrame (k : Nat) (owner : Nat)
  | discard
  deriving DecidableEq, Repr

/-- A context with the time of its last cell. -/
structure Ctx where
  st : CtxState := .idle
  since : Nat := 0
  deriving DecidableEq, Repr

/-- One resequencer (R359): NEXT, its slots, its contexts, its gap timer. -/
structure Rsq where
  next : Nat := 0
  slots : SMap (Option Cell) := []
  ctx : SMap Ctx := []
  gapSince : Option Nat := none
  deriving DecidableEq, Repr

/-- One sender of a stream: its next sequence number, cells outstanding (R358), the plane it used last. -/
structure Sender where
  seq : Nat := 0
  outstanding : Nat := 0
  lastPlane : Nat := 3
  deriving DecidableEq, Repr

/-- One hopper (R147). -/
structure Hopper where
  /-- Segments held, reservations held, segments ever written. -/
  fill : Nat := 0
  resv : Nat := 0
  written : Nat := 0
  /-- Frames whose heads wait for a lane, oldest first. -/
  order : List Nat := []
  /-- The frame in progress of each sub-port, as fid + 1. -/
  inProg : SMap Nat := []
  deriving DecidableEq, Repr

/-- One ingress slot arbiter and the stamps of its pipeline. -/
structure Isa where
  /-- Whose turn it is: 0 recirculation, 1 slow-path returns, 2 host injection; lanes left in the turn, 0 before it
  begins (R31). -/
  turn : Nat := 0
  left : Nat := 0
  /-- The count F of R32. -/
  f : Nat := 0
  /-- Frames offered by each internal source, oldest first. -/
  recirc : List Nat := []
  aeRet : List Nat := []
  host : List Nat := []
  /-- Frames granted and not yet parsed, by lane order. -/
  granted : List Nat := []
  /-- Epoch and version that the pipeline stamps (R76, R88). -/
  epoch : Nat := 0
  version : Nat := 0
  deriving DecidableEq, Repr

/-- Cell state record (R374). -/
structure CellRec where
  alloc : Bool := false
  pool : Nat := 0
  ref : Nat := 0
  owner : Nat := 0
  /-- The model's own notes: PFC count raised by the cell plus 1 (R488); thread or array charged plus 1 (R314), slice *
  512 + thread, thread 256 for the common part. -/
  pfc : Nat := 0
  charge : Nat := 0
  deriving DecidableEq, Repr

/-- A link direction's CRC failures in its present 1 ms window (R356). -/
structure LinkErr where
  since : Nat := 0
  count : Nat := 0
  deriving DecidableEq, Repr

/-- The shared buffer (R368 to R381): cells 0 to `fresh - 1` have been allocated at least once, the free list is
`fresh` to 786,431 in order followed by `freed` (R375). -/
structure Buffer where
  recs : SMap CellRec := []
  /-- What each cell holds; a cell never written reads as no bytes. -/
  data : SMap (List Byte) := []
  fresh : Nat := 0
  freed : List Nat := []
  /-- Frees that wait for the pool manager: cell and party (R377). -/
  freeReq : List (Nat × Nat) := []
  /-- Pool used counts. -/
  used : SMap Nat := []
  /-- Raw cells held by each host port. -/
  hostCells : SMap Nat := []
  /-- Cells withheld from the free list (R380, R580). -/
  withheld : List Nat := []
  /-- Atomic attribute of replication lists (R393). -/
  atomicLists : List Nat := []
  deriving DecidableEq, Repr

/-- A cell released by an inbound resequencer towards admission: the cell and how its context took it. -/
structure AdmitCell where
  owner : Nat
  first : Bool
  last : Bool
  /-- Bad reason; 0 none. -/
  bad : Nat
  /-- False where only the frame's end is passed on, without a cell (R361). -/
  hasCell : Bool
  data : List Byte
  deriving DecidableEq, Repr

/-- An Amiler request in execution (R525 to R531). -/
structure AmlRun where
  host : Nat
  oob : Bool
  /-- STOP_ON_ERR and NO_REPLY; it ends without response after its present entry (R500). -/
  stop : Bool
  noReply : Bool
  abandon : Bool := false
  /-- Entries still to be run: bytes 0 to 3 and VALUE. -/
  todo : List (Nat × Nat)
  /-- Entries run: bytes 0 to 3, status, value read. -/
  done : List (Nat × Nat × Nat) := []
  /-- Since when the present WAIT entry has been tried. -/
  waitSince : Option Nat := none
  /-- The key of an in-band request, with which its response is made. -/
  key : List Byte
  /-- The 16 header bytes of the body; the Ethernet header of an in-band request and the tag of its frame. -/
  head : List Byte
  eth : List Byte
  tag : Tag
  deriving DecidableEq, Repr

/-- A frame as a transmit MAC sent it: logical port, bytes with their FCS, and whether it was stomped (R387). -/
structure WireFrame where
  lport : Nat
  bytes : List Byte
  stomped : Bool
  deriving DecidableEq, Repr

end Sys2Proof.Machine
end

