-- ==== Sys2Proof/Machine/StatePort.lean ====
section
/-! DEFINITION. The structures of State for logical ports, physical ports and optical engines (03_ports_optics). -/
namespace Sys2Proof.Machine

/-- States of a logical port (R117). -/
inductive LpState where
  | disabled | light | acquire | verify | up | fault
  deriving DecidableEq, Repr

/-- An entry of a timestamp FIFO (R139): capture ID and full transmit timestamp. -/
structure TsEntry where
  id : Nat
  secs : Nat
  ns : Nat
  frac : Nat
  deriving DecidableEq, Repr

/-- One logical port. -/
structure LPort where
  st : LpState := .disabled
  /-- Start of the UP_DELAY or DOWN_DELAY timer that runs in VERIFY or FAULT. -/
  timer : Nat := 0
  aligned : Bool := false
  rfRx : Bool := false
  /-- R125: degraded, the corrected symbols of the present window and its start. -/
  fecDegraded : Bool := false
  fecSyms : Nat := 0
  fecStart : Nat := 0
  /-- Timestamp FIFO, oldest first (at most 64, R139). -/
  tsFifo : List TsEntry := []
  /-- The transmit MAC starts no new frame (R130). -/
  txQuiet : Bool := false
  deriving DecidableEq, Repr

/-- One physical port: the sampled lane maps (R113), their verdict and what the lanes receive. -/
structure PPort where
  mapTx : Nat := 0xFAC688
  mapRx : Nat := 0xFAC688
  lmapBad : Bool := false
  lmapPending : Bool := false
  signal : Nat := 0
  cdrLock : Nat := 0
  deriving DecidableEq, Repr

/-- Phases of a planned failover (R130). -/
inductive FailoverPhase where
  | started | quiet
  deriving DecidableEq, Repr

/-- A planned failover in progress: its source, its direction and its trigger time. -/
structure Failover where
  src : Nat
  toSpare : Bool
  phase : FailoverPhase
  since : Nat
  deriving DecidableEq, Repr

/-- One optical engine. Source masks hold bit j for source j. -/
structure Engine where
  /-- Primary and spare sources that are lit. -/
  litPri : Nat := 0
  litSpr : Nat := 0
  /-- The time at which a source with no user goes dark (R128), by source. -/
  darkAt : SMap Nat := []
  /-- The four groups of OE_SRC_SEL, in the engine's non-volatile memory (R144). -/
  spare : Nat := 0
  failed : Nat := 0
  degraded : Nat := 0
  spareDeg : Nat := 0
  /-- Consecutive bad samples of each selected primary (R129): of its bias at j, of its power at 8 + j. -/
  badSamples : SMap Nat := []
  failover : Option Failover := none
  /-- Failover requests that wait, oldest first: source and direction (R132). -/
  requests : List (Nat × Bool) := []
  overtemp : Bool := false
  /-- Lane maps of the four ports in non-volatile memory, key 2q for TX and 2q + 1 for RX (R115); a map that was
  never saved is the identity. -/
  nvMaps : SMap Nat := []
  /-- An LMAP save in progress: the eight register values being written. -/
  saving : Option (List Nat) := none
  saveFailed : Bool := false
  /-- Lit-second counts saved in non-volatile memory, source j at j and spare j at 8 + j (R134). -/
  savedSecs : SMap Nat := []
  lastSave : Nat := 0
  /-- Time up to which lit time has been counted, and the nanoseconds short of a second of each source. -/
  litMark : Nat := 0
  litNs : SMap Nat := []
  deriving DecidableEq, Repr

end Sys2Proof.Machine
end

