-- ==== Sys2Proof/Machine/StateTbl.lean ====
section
/-! DEFINITION. The structures of State for the tables: bolter, exact-match, LPM and learning (chapters 05 and 06). -/
namespace Sys2Proof.Machine

/-- Version state of an entry (R191). -/
structure EntVer where
  v : Bool := false
  settled : Bool := false
  init : Bool := false
  dp : Bool := false
  addVer : Nat := 0
  delVer : Nat := 0
  deriving DecidableEq, Repr

/-- A TCAM entry of one copy (R175): the row's key and care mask over all its columns, as the shadow records hold it. -/
structure TcamEnt where
  key : Nat := 0
  mask : Nat := 0
  prio : Nat := 0
  result : Nat := 0
  ver : EntVer := {}
  /-- The bits in which the priority that the resolver holds differs from the shadow's PRIO (R187). -/
  resX : Nat := 0
  deriving DecidableEq, Repr

/-- An exact-match entry (R213). -/
structure EmEnt where
  key : Nat := 0
  result : Nat := 0
  ver : EntVer := {}
  learned : Bool := false
  hit : Bool := false
  age : Nat := 0
  alt : Bool := false
  table : Nat := 0
  deriving DecidableEq, Repr

/-- An LPM prefix, at the first of the slots it occupies (R233). -/
structure LpmEnt where
  vrf : Nat := 0
  addr : Nat := 0
  plen : Nat := 0
  result : Nat := 0
  v6 : Bool := false
  ver : EntVer := {}
  deriving DecidableEq, Repr

/-- What a table header record sets of one placed copy (R199, R249). -/
structure TblCfg where
  firstMatch : Bool := false
  missOnly : Bool := false
  learnEn : Bool := false
  miss : Nat := 0
  ovfMax : Nat := 0
  ageLimit : Nat := 0
  learnMax : Nat := 0
  v6 : Bool := false
  /-- Number of the placement that these settings belong to: units that stay shared keep it (R240). -/
  born : Nat := 0
  /-- Layouts of the LPM index so far: a split makes a new one (R239). -/
  layout : Nat := 0
  deriving DecidableEq, Repr

/-- A learn request (R240) with the units that its table occupied when it was queued, and their placement. -/
structure LearnReq where
  table : Nat
  key : Nat
  result : Nat
  first : Nat
  count : Nat
  born : Nat := 0
  deriving DecidableEq, Repr

/-- An open step-through of a bolter command set (R209): its search and the last entry returned. -/
structure StepThrough where
  table : Nat
  vsel : Nat
  key : Nat
  prio : Nat
  addr : Nat
  deriving DecidableEq, Repr

/-- Table engine, walker, sweeps and scrubber of one slice. -/
structure TblSlice where
  /-- Bolter sweep (R196, R197): the next entry and how many are left. -/
  sweepPos : Nat := 0
  sweepLeft : Nat := 0
  bltSweep : Bool := false
  /-- Walker sweep (R227). -/
  tblSweep : Bool := false
  /-- An ageing pass waits for a sweep (R246); time of the last pass. -/
  ageWait : Bool := false
  ageLast : Nat := 0
  /-- The kind taken last (R247): 0 none, 1 learn, 2 command; start of the last learn. -/
  lastKind : Nat := 0
  learnAt : Option Nat := none
  learnQ : List LearnReq := []
  /-- Time of the last NO_ROOM and LIMIT event of a table, plus 1 (R244). -/
  noRoomAt : SMap Nat := []
  limitAt : SMap Nat := []
  /-- Scrubber (R190): next entry and the time of the last check. -/
  scrubPos : Nat := 0
  scrubAt : Nat := 0
  deriving DecidableEq, Repr

/-- The tables of the device. -/
structure Tables where
  /-- TCAM rows by ((slice * 4 + pipe) * 12 + block of column 0) * 2048 + entry. -/
  tcam : SMap TcamEnt := []
  /-- Exact-match entries by slice * 2^22 + location of R602. -/
  em : SMap EmEnt := []
  /-- LPM prefixes by slice * 2^21 + store slot. -/
  lpm : SMap LpmEnt := []
  /-- Settings by slice * 1024 + kind * 256 + first unit of the copy. -/
  cfg : SMap TblCfg := []
  /-- Placements whose settings have been written so far. -/
  placed : Nat := 0
  slices : SMap TblSlice := []
  /-- Step-throughs by slice * 4 + host port. -/
  steps : SMap (Option StepThrough) := []
  deriving DecidableEq, Repr

end Sys2Proof.Machine
end

