-- ==== Sys2Proof/Machine/StateTm.lean ====
section
/-! DEFINITION. The structures of State for the traffic manager and the HBM controllers (chapters 10 and 11). -/
namespace Sys2Proof.Machine

/-- A policer (R471, R476). Buckets count in units of 2^-16 byte; CBS and PBS in bytes. -/
structure Policer where
  cir : Nat := 0
  pir : Nat := 0
  cbs : Nat := 0
  pbs : Nat := 0
  /-- Bit 0 CA, bit 1 DROP_RED, bit 2 EN. -/
  flags : Nat := 0
  tc : Int := 0
  tp : Int := 0
  /-- Statistics, in the order of R475: green, yellow and red frames and bytes, drops. -/
  greenFr : Nat := 0
  greenBy : Nat := 0
  yelFr : Nat := 0
  yelBy : Nat := 0
  redFr : Nat := 0
  redBy : Nat := 0
  drops : Nat := 0
  /-- A WRITE that waits for the next refill: CIR, PIR, CBS, PBS, FLAGS; a RESET_BUCKETS that waits. -/
  pending : Option (Nat × Nat × Nat × Nat × Nat) := none
  resetDue : Bool := false
  deriving DecidableEq, Repr

/-- A shaper (R466 to R469): tokens in units of 2^-16 byte, and the RATE and BURST in force. -/
structure Shaper where
  t : Int := 0
  rate : Nat := 0
  burst : Nat := 0x4000
  deriving DecidableEq, Repr

/-- Deficit round robin of one set (R464): whose turn it is, whether the turn has begun, the time of its last start, the deficits. -/
structure Drr where
  ptr : Nat := 0
  turn : Bool := false
  since : Nat := 0
  deficit : SMap Int := []
  deriving DecidableEq, Repr

/-- A gate control list (R479): gate masks and intervals, base, cycle time, extension. -/
structure GateList where
  base : Nat := 0
  cycle : Nat := 0
  ext : Nat := 0
  ents : List (Nat × Nat) := []
  deriving DecidableEq, Repr

/-- What the traffic manager keeps of one logical port. -/
structure TmPort where
  /-- When its egress MAC began to send without a pause, and the bits on the wire of what it has taken since (R483). -/
  busyFrom : Nat := 0
  busyBits : Nat := 0
  /-- End of the pause of each priority, and the time from which it holds (R486, R487). -/
  pauseEnd : SMap Nat := []
  pauseFrom : SMap Nat := []
  /-- Time up to which TMP_PAUSED_NS has been counted, by priority. -/
  pauseMark : SMap Nat := []
  /-- Priorities in XOFF, and when the last PFC frame of each was sent (R488). -/
  xoff : Nat := 0
  xoffSent : SMap Nat := []
  /-- PFC frames that wait for the end of a quiet interval (R130, R488): priority and TIME of each that one carries. -/
  pfcDue : List (List (Nat × Nat)) := []
  oper : Option GateList := none
  /-- Pending list, its change time, and the time at which it was configured (R480, R481). -/
  pend : Option (GateList × Nat × Nat) := none
  /-- Gates that the oper list holds in force (R482). -/
  gates : Nat := 0
  deriving DecidableEq, Repr

/-- The traffic manager. -/
structure Tm where
  policers : SMap Policer := []
  portShapers : SMap Shaper := []
  queueShapers : SMap Shaper := []
  groups : SMap Drr := []
  bins : SMap Drr := []
  ports : SMap TmPort := []
  /-- Cells of the copies of each queue (R454). -/
  depth : SMap Nat := []
  /-- Logical port that each egress pipeline served last, plus 1 (R463). -/
  served : SMap Nat := []
  /-- TMP_PFC_ING by logical port * 8 + priority (R488). -/
  pfcIng : SMap Nat := []
  /-- ECN shift register (R458), loaded from TM_ECN_SEED at cold reset. -/
  lfsr : Nat := 0xACE1
  /-- Epoch whose plan is in force (R81, R451), and a switch that waits for a refill. -/
  plan : Option Nat := none
  planDue : Bool := false
  /-- Time of the last refill (R466). -/
  lastRefill : Nat := 0
  deriving DecidableEq, Repr

/-- States of an HBM controller (R442). -/
inductive HbmState where
  | off | init | train | run | sleep | frozen | offline | trainFail
  deriving DecidableEq, Repr

/-- States of a page (R407). -/
inductive PageState where
  | free | open_ | closed | retired
  deriving DecidableEq, Repr

/-- A page table entry (R407), with the model's marks: the spill engine that fills it plus 1, retirement asked for, and
frames still being written into it. -/
structure Page where
  st : PageState := .free
  live : Nat := 0
  high : Nat := 0
  next : Nat := 0
  engine : Nat := 0
  retiring : Bool := false
  writing : Nat := 0
  /-- Lines given out since it was allocated. -/
  given : Nat := 0
  deriving DecidableEq, Repr

/-- A command that a controller has issued, as its retry buffer keeps it (R427): a line read, a line write with its data, or a
refresh. -/
inductive HbmCommand where
  | read (line : Nat)
  | write (line : Nat) (data : List Byte)
  | refresh
  deriving DecidableEq, Repr

/-- One HBM stack and its controller. -/
structure Hbm where
  st : HbmState := .off
  since : Nat := 0
  pages : SMap Page := []
  /-- What each line holds; a line never written reads as no bytes. -/
  lines : SMap (List Byte) := []
  /-- A write phase runs (R422), and since when. -/
  writing : Bool := false
  phaseSince : Nat := 0
  /-- Refreshes postponed, by pseudo channel. -/
  postponed : SMap Nat := []
  /-- Next line of the scrubber, and the time of its last read. -/
  scrubPos : Nat := 0
  scrubAt : Nat := 0
  /-- Time of the last request. -/
  lastReq : Nat := 0
  /-- Training results are held; the last training used them (R440). -/
  trained : Bool := false
  reused : Bool := false
  /-- A sleep or wake request of the fantail, or a request of a source, waits. -/
  sleepReq : Bool := false
  wakeReq : Bool := false
  /-- Replays or rereads since the last error that passed (R428). -/
  fails : Nat := 0
  /-- Retry buffers (R427), by pseudo channel: the last 64 commands, the latest last. -/
  retry : SMap (List HbmCommand) := []
  /-- Slices whose fill engine and spill engine were served last (R422). -/
  lastRead : Nat := 7
  lastWrite : Nat := 7
  /-- Line that the scrubber has read and still has to write back corrected (R421). -/
  repair : Option Nat := none
  /-- A diagnostic command waits: operation 1 READ_LINE, 2 TEST_PAGES. -/
  diag : Nat := 0
  /-- Statistics boundaries that passed while the domain was stopped (R585). -/
  missed : Nat := 0
  deriving DecidableEq, Repr

/-- One slice's spill and fill engines (R411 to R418). -/
structure SpillFill where
  /-- Stack chosen last. -/
  lastStack : Nat := 3
  panic : Bool := false
  /-- Time of the last evaluation of candidates (R416). -/
  evalAt : Nat := 0
  /-- Cells that the spill engine has staged and copies whose reads the fill engine has issued: their orders of issue (R420). -/
  cells : Nat := 0
  reads : Nat := 0
  deriving DecidableEq, Repr

end Sys2Proof.Machine
end

