-- ==== Sys2Proof/Machine/Dev.lean ====
section
/-! DEFINITION. The device: everything of State but the queue of waiting commands. -/
namespace Sys2Proof.Machine

/-- The QZ1024, as plain data. -/
structure Dev where
  /-- Nanoseconds of elapsed time: the model's own clock, from which every domain clock is derived (R38). -/
  now : Nat := 0
  /-- The model's own counter of free values drawn (`Config.freeValue`, log 2). -/
  freeCount : Nat := 0
  regs : Regs := {}
  time : TimeUnit := {}
  hosts : SMap HostPort := []
  /-- Ring state by ring * 4 + host (R516). -/
  rings : SMap RingState := []
  ringQ : List RingRecord := []
  leases : SMap Lease := []
  /-- Accesses that the register bridge holds until their domain runs (R40). -/
  bridge : List Access := []
  fan : Fan := {}
  slices : SMap SliceSt := []
  loader : Loader := {}
  banks : SMap ImgBank := []
  epochs : Epochs := {}
  vers : Versions := {}
  fuses : Fuses := {}
  errs : Errs := {}
  stats : Stats := {}
  lports : SMap LPort := []
  pports : SMap PPort := []
  engines : SMap Engine := []
  /-- Frames by frame number, and the next number. -/
  frames : SMap (Option Frame) := []
  nextFid : Nat := 0
  /-- First segments admitted so far: the order of arrival of R149. -/
  arrivals : Nat := 0
  /-- Lanes granted so far: the order in which frames stand in their pipelines (R30). -/
  grants : Nat := 0
  copies : SMap (Option Copy) := []
  nextCid : Nat := 0
  /-- Received PFC frames handed to the traffic manager (R108): logical port, bytes, and when the last byte came (R487). -/
  pfcRx : List (Nat × List Byte × Nat) := []
  hoppers : SMap Hopper := []
  isas : SMap Isa := []
  tbl : Tables := {}
  /-- Diverted frames that the Amiler engine holds, oldest first (R524). -/
  amlQ : List Nat := []
  aml : Option AmlRun := none
  /-- Queued commands of the command sets (R206, R207), oldest first: host port and the value written, by engine * 8 +
  slice (0 bolter, 1 tables, 2 stages, 3 replication, 4 patches, 5 pool, 6 governor). -/
  cmdqs : SMap (List (Nat × Nat)) := []
  /-- Stage counters and registers (R284), by their place. -/
  stageFrames : SMap DWord := []
  stageBytes : SMap DWord := []
  stageRegs : SMap Word := []
  /-- Replication list heads and member records (R281). -/
  lists : SMap Word := []
  members : SMap Word := []
  /-- Cells on links, oldest first. -/
  links : List Cell := []
  linkErrs : SMap LinkErr := []
  /-- Senders by stream: inbound slice * 4 + pipe, outbound 32 + slice * 4 + pipe; resequencers likewise. -/
  senders : SMap Sender := []
  rsqs : SMap Rsq := []
  /-- Cells released by inbound resequencers, oldest first (R370, R372). -/
  admitQ : List AdmitCell := []
  buf : Buffer := {}
  tm : Tm := {}
  /-- HBM stacks 0 to 3, and the spill and fill engines of the slices. -/
  hbm : SMap Hbm := []
  spill : SMap SpillFill := []
  /-- Frames that have left the device, newest first: the model's record of what the transmit MACs sent. -/
  wire : List WireFrame := []
  ae : Array8 := {}
  deriving DecidableEq, Repr

end Sys2Proof.Machine
end

