-- ==== Sys2Proof/Machine/RegMap.lean ====
section
/-! DEFINITION. The register map: every register of the spec's register tables, with its BAR0 place, its access
type, its writable bits and its reset value (R2 to R9 and the register tables of every chapter).
A register of an array is one `RegInfo` whose `dims` give, for each index, its count, its address stride and its
multiplier in the flat index. The host-port-local range of host h stands at 0x1000_0000 x (h + 1) above its BAR0 offset
(R497: no host port can reach another's), so every register of the device has one address. -/
namespace Sys2Proof.Machine

/-- Access types of R9, with the counters of R12 to R15 and the 64-bit registers. `cmdrw` is IMG_OWNER, whose write is R63. -/
inductive RegKind where
  | rw | ro | w1c | rc | wo | rwf | cmdrw | counter | ro64 | rw64
  deriving DecidableEq, Repr

/-- One register (or array of registers) of the map. -/
structure RegInfo where
  /-- Its number: the home of its value in `Regs`. -/
  id : Nat
  /-- BAR0 offset of its first element. -/
  base : Nat
  /-- (count, address stride, multiplier in the flat index), widest stride first unless the strides do not nest. -/
  dims : List (Nat × Nat × Nat)
  /-- Flat index of the first element (ring blocks, R516). -/
  ioff : Nat
  kind : RegKind
  /-- Bits a write reaches; of a W1C register the bits that exist. -/
  mask : Nat
  /-- Value after reset. -/
  reset : Nat
  deriving DecidableEq, Repr

namespace R

def ISA_CTRL : RegInfo := ⟨0, 0x100f000, [(8, 1048576, 4), (4, 64, 1)], 0, .rw, 0x10fff, 0x10111⟩
def ISA_STATUS : RegInfo := ⟨1, 0x100f004, [(8, 1048576, 4), (4, 64, 1)], 0, .ro, 0x0, 0x0⟩
def ISA_PORT_SLOTS : RegInfo := ⟨2, 0x100f008, [(8, 1048576, 4), (4, 64, 1)], 0, .counter, 0xffffffff, 0x0⟩
def ISA_RECIRC_SLOTS : RegInfo := ⟨3, 0x100f010, [(8, 1048576, 4), (4, 64, 1)], 0, .counter, 0xffffffff, 0x0⟩
def ISA_AERET_SLOTS : RegInfo := ⟨4, 0x100f018, [(8, 1048576, 4), (4, 64, 1)], 0, .counter, 0xffffffff, 0x0⟩
def ISA_HOST_SLOTS : RegInfo := ⟨5, 0x100f020, [(8, 1048576, 4), (4, 64, 1)], 0, .counter, 0xffffffff, 0x0⟩
def ISA_IDLE_SLOTS : RegInfo := ⟨6, 0x100f028, [(8, 1048576, 4), (4, 64, 1)], 0, .counter, 0xffffffff, 0x0⟩
def ISA_FORCED_SLOTS : RegInfo := ⟨7, 0x100f030, [(8, 1048576, 4), (4, 64, 1)], 0, .counter, 0xffffffff, 0x0⟩
/-- Block `isa` (R34). -/
def table_isa : List RegInfo := [ISA_CTRL, ISA_STATUS, ISA_PORT_SLOTS, ISA_RECIRC_SLOTS, ISA_AERET_SLOTS, ISA_HOST_SLOTS, ISA_IDLE_SLOTS, ISA_FORCED_SLOTS]

def IMG_OWNER : RegInfo := ⟨8, 0x1000, [], 0, .cmdrw, 0x3, 0x0⟩
def IMG_CMD : RegInfo := ⟨9, 0x1004, [], 0, .wo, 0x0, 0x0⟩
def IMG_STATUS : RegInfo := ⟨10, 0x1008, [], 0, .ro, 0x0, 0x0⟩
def IMG_WIN : RegInfo := ⟨11, 0x100c, [], 0, .rw, 0x3, 0x0⟩
def IMG_NEXT_OFFSET : RegInfo := ⟨12, 0x1010, [], 0, .ro, 0xffffffff, 0x0⟩
def IMG_FAIL_OFFSET : RegInfo := ⟨13, 0x1014, [], 0, .ro, 0xffffffff, 0x0⟩
def IMG_ACT_TIME : RegInfo := ⟨14, 0x1018, [], 0, .rw64, 0xffffffff, 0x0⟩
def IMG_DRAIN_LIMIT : RegInfo := ⟨15, 0x1020, [], 0, .rw, 0xffffff, 0x2710⟩
def IMG_EVENTS : RegInfo := ⟨16, 0x1024, [], 0, .w1c, 0x3f, 0x0⟩
def IMG_INFLIGHT_OLD : RegInfo := ⟨17, 0x1028, [], 0, .ro, 0xffffffff, 0x0⟩
def IMG_INFLIGHT_RUN : RegInfo := ⟨18, 0x102c, [], 0, .ro, 0xffffffff, 0x0⟩
def IMG_RUN_ID : RegInfo := ⟨19, 0x1030, [], 0, .ro64, 0xffffffff, 0x0⟩
def IMG_RUN_DIGEST : RegInfo := ⟨20, 0x1038, [], 0, .ro64, 0xffffffff, 0x0⟩
def IMG_RUN_INFO : RegInfo := ⟨21, 0x1040, [], 0, .ro, 0x0, 0x0⟩
def IMG_STG_INFO : RegInfo := ⟨22, 0x1044, [], 0, .ro, 0x0, 0x0⟩
def IMG_STG_ID : RegInfo := ⟨23, 0x1048, [], 0, .ro64, 0xffffffff, 0x0⟩
def IMG_STG_DIGEST : RegInfo := ⟨24, 0x1050, [], 0, .ro64, 0xffffffff, 0x0⟩
def IMG_FORCED_DISCARDS : RegInfo := ⟨25, 0x1058, [], 0, .counter, 0xffffffff, 0x0⟩
def IMG_NOSTRUCT_DROPS : RegInfo := ⟨26, 0x1060, [], 0, .counter, 0xffffffff, 0x0⟩
def IMG_SVN : RegInfo := ⟨27, 0x1068, [], 0, .ro, 0xffffffff, 0x0⟩
/-- Block `img` (R93). -/
def table_img : List RegInfo := [IMG_OWNER, IMG_CMD, IMG_STATUS, IMG_WIN, IMG_NEXT_OFFSET, IMG_FAIL_OFFSET, IMG_ACT_TIME, IMG_DRAIN_LIMIT, IMG_EVENTS, IMG_INFLIGHT_OLD, IMG_INFLIGHT_RUN, IMG_RUN_ID, IMG_RUN_DIGEST, IMG_RUN_INFO, IMG_STG_INFO, IMG_STG_ID, IMG_STG_DIGEST, IMG_FORCED_DISCARDS, IMG_NOSTRUCT_DROPS, IMG_SVN]

def VER_CMD : RegInfo := ⟨28, 0x2000, [], 0, .wo, 0x3, 0x0⟩
def VER_STATUS : RegInfo := ⟨29, 0x2004, [], 0, .ro, 0x1ffff, 0x0⟩
def VER_OLD : RegInfo := ⟨30, 0x2008, [], 0, .ro, 0x1ffff, 0x0⟩
def VER_INFLIGHT_CUR : RegInfo := ⟨31, 0x200c, [], 0, .ro, 0xffffffff, 0x0⟩
def VER_INFLIGHT_OLD : RegInfo := ⟨32, 0x2010, [], 0, .ro, 0xffffffff, 0x0⟩
def VER_DRAIN_LIMIT : RegInfo := ⟨33, 0x2014, [], 0, .rw, 0xffffff, 0x2710⟩
def VER_EVENTS : RegInfo := ⟨34, 0x2018, [], 0, .w1c, 0x7, 0x0⟩
def VER_COMMITS : RegInfo := ⟨35, 0x2020, [], 0, .counter, 0xffffffff, 0x0⟩
def VER_FORCED_DISCARDS : RegInfo := ⟨36, 0x2028, [], 0, .counter, 0xffffffff, 0x0⟩
/-- Block `ver` (R95). -/
def table_ver : List RegInfo := [VER_CMD, VER_STATUS, VER_OLD, VER_INFLIGHT_CUR, VER_INFLIGHT_OLD, VER_DRAIN_LIMIT, VER_EVENTS, VER_COMMITS, VER_FORCED_DISCARDS]

def FUSE_ARB : RegInfo := ⟨37, 0x4000, [], 0, .rwf, 0xff, 0x0⟩
def FUSE_LANE_MAP : RegInfo := ⟨38, 0x4004, [], 0, .rwf, 0xffff, 0x0⟩
def FUSE_BOOT_POLICY : RegInfo := ⟨39, 0x4008, [], 0, .rwf, 0x7, 0x0⟩
def FUSE_STEPS : RegInfo := ⟨40, 0x400c, [], 0, .ro, 0x0, 0x0⟩
def FUSE_KEY_CTRL : RegInfo := ⟨41, 0x4010, [], 0, .ro, 0xff, 0x0⟩
def FUSE_KEY_CMD : RegInfo := ⟨42, 0x4014, [], 0, .wo, 0x303, 0x0⟩
def FUSE_STATUS : RegInfo := ⟨43, 0x4018, [], 0, .ro, 0xf01, 0x0⟩
def FUSE_LOG_COUNT : RegInfo := ⟨44, 0x401c, [], 0, .ro, 0x1ff, 0x0⟩
def FUSE_KEY_STAGE : RegInfo := ⟨45, 0x4020, [(12, 4, 1)], 0, .rw, 0xffffffff, 0x0⟩
def FUSE_KEY_HASH : RegInfo := ⟨46, 0x4100, [(4, 64, 12), (12, 4, 1)], 0, .ro, 0xffffffff, 0x0⟩
/-- Block `fuse` (R103). -/
def table_fuse : List RegInfo := [FUSE_ARB, FUSE_LANE_MAP, FUSE_BOOT_POLICY, FUSE_STEPS, FUSE_KEY_CTRL, FUSE_KEY_CMD, FUSE_STATUS, FUSE_LOG_COUNT, FUSE_KEY_STAGE, FUSE_KEY_HASH]

def OE_STATUS : RegInfo := ⟨47, 0x4000000, [(16, 1048576, 1)], 0, .ro, 0xf, 0x0⟩
def OE_EVENTS : RegInfo := ⟨48, 0x4000004, [(16, 1048576, 1)], 0, .w1c, 0x7f, 0x0⟩
def OE_FAILOVER_CTRL : RegInfo := ⟨49, 0x4000008, [(16, 1048576, 1)], 0, .rw, 0x1, 0x1⟩
def OE_FAILOVER_CMD : RegInfo := ⟨50, 0x400000c, [(16, 1048576, 1)], 0, .wo, 0x307, 0x0⟩
def OE_SRC_SEL : RegInfo := ⟨51, 0x4000010, [(16, 1048576, 1)], 0, .ro, 0xffffffff, 0x0⟩
def OE_BIAS_LIMIT : RegInfo := ⟨52, 0x4000014, [(16, 1048576, 1)], 0, .rw, 0xffff, 0x2710⟩
def OE_POWER_MIN : RegInfo := ⟨53, 0x4000018, [(16, 1048576, 1)], 0, .rw, 0xffffffff, 0x3e80bb8⟩
def OE_TEMP : RegInfo := ⟨54, 0x400001c, [(16, 1048576, 1)], 0, .ro, 0xfff, 0x0⟩
def OE_LMAP_CMD : RegInfo := ⟨55, 0x4000020, [(16, 1048576, 1)], 0, .wo, 0x1, 0x0⟩
def OE_LMAP_STATUS : RegInfo := ⟨56, 0x4000024, [(16, 1048576, 1)], 0, .ro, 0x3, 0x0⟩
def OE_SRC_MON : RegInfo := ⟨57, 0x4000040, [(16, 1048576, 8), (8, 4, 1)], 0, .ro, 0xffff0000, 0x0⟩
def OE_PRI_SECS : RegInfo := ⟨58, 0x4000100, [(16, 1048576, 8), (8, 8, 1)], 0, .counter, 0xffffffff, 0x0⟩
def OE_SPR_SECS : RegInfo := ⟨59, 0x4000140, [(16, 1048576, 8), (8, 8, 1)], 0, .counter, 0xffffffff, 0x0⟩
def OE_FAILOVERS : RegInfo := ⟨60, 0x4000180, [(16, 1048576, 1)], 0, .counter, 0xffffffff, 0x0⟩
def OE_ABRUPT_FAILOVERS : RegInfo := ⟨61, 0x4000188, [(16, 1048576, 1)], 0, .counter, 0xffffffff, 0x0⟩
/-- Block `oe` (R144). -/
def table_oe : List RegInfo := [OE_STATUS, OE_EVENTS, OE_FAILOVER_CTRL, OE_FAILOVER_CMD, OE_SRC_SEL, OE_BIAS_LIMIT, OE_POWER_MIN, OE_TEMP, OE_LMAP_CMD, OE_LMAP_STATUS, OE_SRC_MON, OE_PRI_SECS, OE_SPR_SECS, OE_FAILOVERS, OE_ABRUPT_FAILOVERS]

def PP_STATUS : RegInfo := ⟨62, 0x4010000, [(16, 1048576, 4), (4, 65536, 1)], 0, .ro, 0x0, 0x0⟩
def PP_LMAP_TX : RegInfo := ⟨63, 0x4010004, [(16, 1048576, 4), (4, 65536, 1)], 0, .rw, 0xffffff, 0xfac688⟩
def PP_LMAP_RX : RegInfo := ⟨64, 0x4010008, [(16, 1048576, 4), (4, 65536, 1)], 0, .rw, 0xffffff, 0xfac688⟩
def PP_LANE_SYMERR : RegInfo := ⟨65, 0x4010010, [(16, 1048576, 32), (4, 65536, 8), (8, 8, 1)], 0, .counter, 0xffffffff, 0x0⟩
/-- Block `pp` (R145). -/
def table_pp : List RegInfo := [PP_STATUS, PP_LMAP_TX, PP_LMAP_RX, PP_LANE_SYMERR]

def LP_CTRL : RegInfo := ⟨66, 0x4011000, [(16, 1048576, 32), (4, 65536, 8), (8, 1024, 1)], 0, .rw, 0x3fff0007, 0x24000003⟩
def LP_STATUS : RegInfo := ⟨67, 0x4011004, [(16, 1048576, 32), (4, 65536, 8), (8, 1024, 1)], 0, .ro, 0x0, 0x0⟩
def LP_EVENTS : RegInfo := ⟨68, 0x4011008, [(16, 1048576, 32), (4, 65536, 8), (8, 1024, 1)], 0, .w1c, 0x3f, 0x0⟩
def LP_TIMERS : RegInfo := ⟨69, 0x401100c, [(16, 1048576, 32), (4, 65536, 8), (8, 1024, 1)], 0, .rw, 0xffff00ff, 0xa⟩
def LP_FEC_DEG : RegInfo := ⟨70, 0x4011010, [(16, 1048576, 32), (4, 65536, 8), (8, 1024, 1)], 0, .rw, 0xffffffff, 0x401000a⟩
def LP_TS_RX_ADJ : RegInfo := ⟨71, 0x4011014, [(16, 1048576, 32), (4, 65536, 8), (8, 1024, 1)], 0, .rw, 0xffffffff, 0x0⟩
def LP_TS_TX_ADJ : RegInfo := ⟨72, 0x4011018, [(16, 1048576, 32), (4, 65536, 8), (8, 1024, 1)], 0, .rw, 0xffffffff, 0x0⟩
def LP_TS_CTRL : RegInfo := ⟨73, 0x401101c, [(16, 1048576, 32), (4, 65536, 8), (8, 1024, 1)], 0, .rw, 0x1, 0x0⟩
def LP_TSFIFO_W0 : RegInfo := ⟨74, 0x4011020, [(16, 1048576, 32), (4, 65536, 8), (8, 1024, 1)], 0, .rc, 0x8000ffff, 0x0⟩
def LP_TSFIFO_W1 : RegInfo := ⟨75, 0x4011024, [(16, 1048576, 32), (4, 65536, 8), (8, 1024, 1)], 0, .ro, 0xffffffff, 0x0⟩
def LP_TSFIFO_W2 : RegInfo := ⟨76, 0x4011028, [(16, 1048576, 32), (4, 65536, 8), (8, 1024, 1)], 0, .ro, 0xffffffff, 0x0⟩
def LP_TSFIFO_W3 : RegInfo := ⟨77, 0x401102c, [(16, 1048576, 32), (4, 65536, 8), (8, 1024, 1)], 0, .ro, 0xffffffff, 0x0⟩
def LP_RX_FRAMES : RegInfo := ⟨78, 0x4011100, [(16, 1048576, 32), (4, 65536, 8), (8, 1024, 1)], 0, .counter, 0xffffffff, 0x0⟩
def LP_RX_BYTES : RegInfo := ⟨79, 0x4011108, [(16, 1048576, 32), (4, 65536, 8), (8, 1024, 1)], 0, .counter, 0xffffffff, 0x0⟩
def LP_RX_FCS_ERR : RegInfo := ⟨80, 0x4011110, [(16, 1048576, 32), (4, 65536, 8), (8, 1024, 1)], 0, .counter, 0xffffffff, 0x0⟩
def LP_RX_RUNT : RegInfo := ⟨81, 0x4011118, [(16, 1048576, 32), (4, 65536, 8), (8, 1024, 1)], 0, .counter, 0xffffffff, 0x0⟩
def LP_RX_OVERSIZE : RegInfo := ⟨82, 0x4011120, [(16, 1048576, 32), (4, 65536, 8), (8, 1024, 1)], 0, .counter, 0xffffffff, 0x0⟩
def LP_RX_TRUNC : RegInfo := ⟨83, 0x4011128, [(16, 1048576, 32), (4, 65536, 8), (8, 1024, 1)], 0, .counter, 0xffffffff, 0x0⟩
def LP_RX_CTRL_DROPS : RegInfo := ⟨84, 0x4011130, [(16, 1048576, 32), (4, 65536, 8), (8, 1024, 1)], 0, .counter, 0xffffffff, 0x0⟩
def LP_TX_FRAMES : RegInfo := ⟨85, 0x4011138, [(16, 1048576, 32), (4, 65536, 8), (8, 1024, 1)], 0, .counter, 0xffffffff, 0x0⟩
def LP_TX_BYTES : RegInfo := ⟨86, 0x4011140, [(16, 1048576, 32), (4, 65536, 8), (8, 1024, 1)], 0, .counter, 0xffffffff, 0x0⟩
def LP_TX_DOWN_DROPS : RegInfo := ⟨87, 0x4011148, [(16, 1048576, 32), (4, 65536, 8), (8, 1024, 1)], 0, .counter, 0xffffffff, 0x0⟩
def LP_TX_STOMPED : RegInfo := ⟨88, 0x4011150, [(16, 1048576, 32), (4, 65536, 8), (8, 1024, 1)], 0, .counter, 0xffffffff, 0x0⟩
def LP_FEC_CW : RegInfo := ⟨89, 0x4011158, [(16, 1048576, 32), (4, 65536, 8), (8, 1024, 1)], 0, .counter, 0xffffffff, 0x0⟩
def LP_FEC_CORR_CW : RegInfo := ⟨90, 0x4011160, [(16, 1048576, 32), (4, 65536, 8), (8, 1024, 1)], 0, .counter, 0xffffffff, 0x0⟩
def LP_FEC_UNCORR_CW : RegInfo := ⟨91, 0x4011168, [(16, 1048576, 32), (4, 65536, 8), (8, 1024, 1)], 0, .counter, 0xffffffff, 0x0⟩
def LP_FEC_CORR_SYM : RegInfo := ⟨92, 0x4011170, [(16, 1048576, 32), (4, 65536, 8), (8, 1024, 1)], 0, .counter, 0xffffffff, 0x0⟩
def LP_LINK_DOWNS : RegInfo := ⟨93, 0x4011178, [(16, 1048576, 32), (4, 65536, 8), (8, 1024, 1)], 0, .counter, 0xffffffff, 0x0⟩
def LP_GLITCHES : RegInfo := ⟨94, 0x4011180, [(16, 1048576, 32), (4, 65536, 8), (8, 1024, 1)], 0, .counter, 0xffffffff, 0x0⟩
def LP_TS_LOST : RegInfo := ⟨95, 0x4011188, [(16, 1048576, 32), (4, 65536, 8), (8, 1024, 1)], 0, .counter, 0xffffffff, 0x0⟩
/-- Block `lp` (R146). -/
def table_lp : List RegInfo := [LP_CTRL, LP_STATUS, LP_EVENTS, LP_TIMERS, LP_FEC_DEG, LP_TS_RX_ADJ, LP_TS_TX_ADJ, LP_TS_CTRL, LP_TSFIFO_W0, LP_TSFIFO_W1, LP_TSFIFO_W2, LP_TSFIFO_W3, LP_RX_FRAMES, LP_RX_BYTES, LP_RX_FCS_ERR, LP_RX_RUNT, LP_RX_OVERSIZE, LP_RX_TRUNC, LP_RX_CTRL_DROPS, LP_TX_FRAMES, LP_TX_BYTES, LP_TX_DOWN_DROPS, LP_TX_STOMPED, LP_FEC_CW, LP_FEC_CORR_CW, LP_FEC_UNCORR_CW, LP_FEC_CORR_SYM, LP_LINK_DOWNS, LP_GLITCHES, LP_TS_LOST]

def HOP_STATUS : RegInfo := ⟨96, 0x100c000, [(8, 1048576, 8), (8, 256, 1)], 0, .ro, 0x0, 0x0⟩
def HOP_EVENTS : RegInfo := ⟨97, 0x100c004, [(8, 1048576, 8), (8, 256, 1)], 0, .w1c, 0xf, 0x0⟩
def HOP_HIGH_MARK : RegInfo := ⟨98, 0x100c008, [(8, 1048576, 8), (8, 256, 1)], 0, .rw, 0x3fff, 0x1800⟩
def HOP_CMD : RegInfo := ⟨99, 0x100c00c, [(8, 1048576, 8), (8, 256, 1)], 0, .wo, 0x0, 0x0⟩
def HOP_FRAMES : RegInfo := ⟨100, 0x100c010, [(8, 1048576, 8), (8, 256, 1)], 0, .counter, 0xffffffff, 0x0⟩
def HOP_FULL_DROPS : RegInfo := ⟨101, 0x100c018, [(8, 1048576, 8), (8, 256, 1)], 0, .counter, 0xffffffff, 0x0⟩
def HOP_DROPREM_FRAMES : RegInfo := ⟨102, 0x100c020, [(8, 1048576, 8), (8, 256, 1)], 0, .counter, 0xffffffff, 0x0⟩
def HOP_BAD_DISCARDS : RegInfo := ⟨103, 0x100c028, [(8, 1048576, 8), (8, 256, 1)], 0, .counter, 0xffffffff, 0x0⟩
def HOP_PARITY_EVENTS : RegInfo := ⟨104, 0x100c030, [(8, 1048576, 8), (8, 256, 1)], 0, .counter, 0xffffffff, 0x0⟩
def HOP_PEAK_FILL : RegInfo := ⟨105, 0x100c038, [(8, 1048576, 8), (8, 256, 1)], 0, .rc, 0x3fff, 0x0⟩
/-- Block `hop` (R173). -/
def table_hop : List RegInfo := [HOP_STATUS, HOP_EVENTS, HOP_HIGH_MARK, HOP_CMD, HOP_FRAMES, HOP_FULL_DROPS, HOP_DROPREM_FRAMES, HOP_BAD_DISCARDS, HOP_PARITY_EVENTS, HOP_PEAK_FILL]

def PAR_CTRL : RegInfo := ⟨106, 0x100d000, [(8, 1048576, 4), (4, 256, 1)], 0, .rw, 0x7, 0x4⟩
def PAR_STATUS : RegInfo := ⟨107, 0x100d004, [(8, 1048576, 4), (4, 256, 1)], 0, .ro, 0x0, 0x100⟩
def PAR_FRAMES : RegInfo := ⟨108, 0x100d010, [(8, 1048576, 4), (4, 256, 1)], 0, .counter, 0xffffffff, 0x0⟩
def PAR_REENTRIES : RegInfo := ⟨109, 0x100d018, [(8, 1048576, 4), (4, 256, 1)], 0, .counter, 0xffffffff, 0x0⟩
def PAR_PASS_DROPS : RegInfo := ⟨110, 0x100d020, [(8, 1048576, 4), (4, 256, 1)], 0, .counter, 0xffffffff, 0x0⟩
def PAR_MEM_DROPS : RegInfo := ⟨111, 0x100d028, [(8, 1048576, 4), (4, 256, 1)], 0, .counter, 0xffffffff, 0x0⟩
def PAR_IMG_EXC : RegInfo := ⟨112, 0x100d030, [(8, 1048576, 4), (4, 256, 1)], 0, .counter, 0xffffffff, 0x0⟩
def PAR_EXC : RegInfo := ⟨113, 0x100d040, [(8, 1048576, 32), (4, 256, 8), (8, 8, 1)], 1, .counter, 0xffffffff, 0x0⟩
/-- Block `par` (R174). -/
def table_par : List RegInfo := [PAR_CTRL, PAR_STATUS, PAR_FRAMES, PAR_REENTRIES, PAR_PASS_DROPS, PAR_MEM_DROPS, PAR_IMG_EXC, PAR_EXC]

def BLT_CMD : RegInfo := ⟨114, 0x8000000, [(8, 4096, 4), (4, 1024, 1)], 0, .wo, 0x0, 0x0⟩
def BLT_CMD_STATUS : RegInfo := ⟨115, 0x8000004, [(8, 4096, 4), (4, 1024, 1)], 0, .ro, 0x0, 0x0⟩
def BLT_CMD_TABLE : RegInfo := ⟨116, 0x8000008, [(8, 4096, 4), (4, 1024, 1)], 0, .rw, 0xfff, 0x0⟩
def BLT_CMD_ADDR : RegInfo := ⟨117, 0x800000c, [(8, 4096, 4), (4, 1024, 1)], 0, .rw, 0x7fff, 0x0⟩
def BLT_CMD_PRIO : RegInfo := ⟨118, 0x8000010, [(8, 4096, 4), (4, 1024, 1)], 0, .rw, 0xffff, 0x0⟩
def BLT_CMD_RESULT : RegInfo := ⟨119, 0x8000014, [(8, 4096, 4), (4, 1024, 1)], 0, .rw, 0xffffffff, 0x0⟩
def BLT_RD_ADDR : RegInfo := ⟨120, 0x8000018, [(8, 4096, 4), (4, 1024, 1)], 0, .ro, 0x7fff, 0x0⟩
def BLT_RD_STATE : RegInfo := ⟨121, 0x800001c, [(8, 4096, 4), (4, 1024, 1)], 0, .ro, 0xf, 0x0⟩
def BLT_RD_VERS : RegInfo := ⟨122, 0x8000020, [(8, 4096, 4), (4, 1024, 1)], 0, .ro, 0xffffffff, 0x0⟩
def BLT_KEY : RegInfo := ⟨123, 0x8000040, [(8, 4096, 80), (4, 1024, 20), (20, 4, 1)], 0, .rw, 0xffffffff, 0x0⟩
def BLT_MASK : RegInfo := ⟨124, 0x8000090, [(8, 4096, 80), (4, 1024, 20), (20, 4, 1)], 0, .rw, 0xffffffff, 0x0⟩
def BLT_CMD_DONE : RegInfo := ⟨125, 0x80000e0, [(8, 4096, 4), (4, 1024, 1)], 0, .counter, 0xffffffff, 0x0⟩
def BLT_CMD_REJECTS : RegInfo := ⟨126, 0x80000e8, [(8, 4096, 4), (4, 1024, 1)], 0, .counter, 0xffffffff, 0x0⟩
def BLT_CMD_IGNORED : RegInfo := ⟨127, 0x80000f0, [(8, 4096, 4), (4, 1024, 1)], 0, .counter, 0xffffffff, 0x0⟩
/-- Block `bltSet` (R203). -/
def table_bltSet : List RegInfo := [BLT_CMD, BLT_CMD_STATUS, BLT_CMD_TABLE, BLT_CMD_ADDR, BLT_CMD_PRIO, BLT_CMD_RESULT, BLT_RD_ADDR, BLT_RD_STATE, BLT_RD_VERS, BLT_KEY, BLT_MASK, BLT_CMD_DONE, BLT_CMD_REJECTS, BLT_CMD_IGNORED]

def BLT_STATUS : RegInfo := ⟨128, 0x1008000, [(8, 1048576, 1)], 0, .ro, 0x1, 0x0⟩
def BLT_EVENTS : RegInfo := ⟨129, 0x1008004, [(8, 1048576, 1)], 0, .w1c, 0x1f, 0x0⟩
def BLT_SCRUB : RegInfo := ⟨130, 0x1008008, [(8, 1048576, 1)], 0, .rw, 0x800000ff, 0x80000040⟩
def BLT_LAST_LOST : RegInfo := ⟨131, 0x100800c, [(8, 1048576, 1)], 0, .ro, 0x0, 0x0⟩
def BLT_SEARCHES : RegInfo := ⟨132, 0x1008100, [(8, 1048576, 4), (4, 128, 1)], 0, .counter, 0xffffffff, 0x0⟩
def BLT_HITS : RegInfo := ⟨133, 0x1008108, [(8, 1048576, 4), (4, 128, 1)], 0, .counter, 0xffffffff, 0x0⟩
def BLT_MULTI : RegInfo := ⟨134, 0x1008110, [(8, 1048576, 4), (4, 128, 1)], 0, .counter, 0xffffffff, 0x0⟩
def BLT_TIES : RegInfo := ⟨135, 0x1008118, [(8, 1048576, 4), (4, 128, 1)], 0, .counter, 0xffffffff, 0x0⟩
def BLT_VERIFY_FAILS : RegInfo := ⟨136, 0x1008120, [(8, 1048576, 4), (4, 128, 1)], 0, .counter, 0xffffffff, 0x0⟩
def BLT_SCRUB_REPAIRS : RegInfo := ⟨137, 0x1008128, [(8, 1048576, 4), (4, 128, 1)], 0, .counter, 0xffffffff, 0x0⟩
def BLT_ENTRIES_LOST : RegInfo := ⟨138, 0x1008130, [(8, 1048576, 4), (4, 128, 1)], 0, .counter, 0xffffffff, 0x0⟩
def BLT_NOCOPY : RegInfo := ⟨139, 0x1008138, [(8, 1048576, 4), (4, 128, 1)], 0, .counter, 0xffffffff, 0x0⟩
def BLT_CASC : RegInfo := ⟨140, 0x1008400, [(8, 1048576, 48), (4, 64, 12), (12, 4, 1)], 0, .ro, 0xffffffff, 0x0⟩
/-- Block `blt` (R211). -/
def table_blt : List RegInfo := [BLT_STATUS, BLT_EVENTS, BLT_SCRUB, BLT_LAST_LOST, BLT_SEARCHES, BLT_HITS, BLT_MULTI, BLT_TIES, BLT_VERIFY_FAILS, BLT_SCRUB_REPAIRS, BLT_ENTRIES_LOST, BLT_NOCOPY, BLT_CASC]

def TBL_CMD : RegInfo := ⟨141, 0x8010000, [(8, 4096, 4), (4, 1024, 1)], 0, .wo, 0x3f, 0x0⟩
def TBL_CMD_STATUS : RegInfo := ⟨142, 0x8010004, [(8, 4096, 4), (4, 1024, 1)], 0, .ro, 0x0, 0x0⟩
def TBL_CMD_TABLE : RegInfo := ⟨143, 0x8010008, [(8, 4096, 4), (4, 1024, 1)], 0, .rw, 0xfff, 0x0⟩
def TBL_CMD_FLAGS : RegInfo := ⟨144, 0x801000c, [(8, 4096, 4), (4, 1024, 1)], 0, .rw, 0x1ff, 0x0⟩
def TBL_KEY : RegInfo := ⟨145, 0x8010010, [(8, 4096, 20), (4, 1024, 5), (5, 4, 1)], 0, .rw, 0xffffffff, 0x0⟩
def TBL_CMD_RESULT : RegInfo := ⟨146, 0x8010024, [(8, 4096, 4), (4, 1024, 1)], 0, .rw, 0xffffffff, 0x0⟩
def TBL_CMD_LOC : RegInfo := ⟨147, 0x8010028, [(8, 4096, 4), (4, 1024, 1)], 0, .rw, 0x801fffff, 0x0⟩
def TBL_RD_STATE : RegInfo := ⟨148, 0x801002c, [(8, 4096, 4), (4, 1024, 1)], 0, .ro, 0x7ff, 0x0⟩
def TBL_RD_VERS : RegInfo := ⟨149, 0x8010030, [(8, 4096, 4), (4, 1024, 1)], 0, .ro, 0xffffffff, 0x0⟩
def TBL_RD_LOC : RegInfo := ⟨150, 0x8010034, [(8, 4096, 4), (4, 1024, 1)], 0, .ro, 0x801fffff, 0x0⟩
def TBL_RD_USED : RegInfo := ⟨151, 0x8010038, [(8, 4096, 4), (4, 1024, 1)], 0, .ro, 0xffffffff, 0x0⟩
def TBL_RD_LEARNED : RegInfo := ⟨152, 0x801003c, [(8, 4096, 4), (4, 1024, 1)], 0, .ro, 0xffffffff, 0x0⟩
def TBL_RD_OVF : RegInfo := ⟨153, 0x8010040, [(8, 4096, 4), (4, 1024, 1)], 0, .ro, 0xffffffff, 0x0⟩
def TBL_CMD_DONE : RegInfo := ⟨154, 0x8010080, [(8, 4096, 4), (4, 1024, 1)], 0, .counter, 0xffffffff, 0x0⟩
def TBL_CMD_REJECTS : RegInfo := ⟨155, 0x8010088, [(8, 4096, 4), (4, 1024, 1)], 0, .counter, 0xffffffff, 0x0⟩
def TBL_CMD_IGNORED : RegInfo := ⟨156, 0x8010090, [(8, 4096, 4), (4, 1024, 1)], 0, .counter, 0xffffffff, 0x0⟩
/-- Block `tblSet` (R251). -/
def table_tblSet : List RegInfo := [TBL_CMD, TBL_CMD_STATUS, TBL_CMD_TABLE, TBL_CMD_FLAGS, TBL_KEY, TBL_CMD_RESULT, TBL_CMD_LOC, TBL_RD_STATE, TBL_RD_VERS, TBL_RD_LOC, TBL_RD_USED, TBL_RD_LEARNED, TBL_RD_OVF, TBL_CMD_DONE, TBL_CMD_REJECTS, TBL_CMD_IGNORED]

def TBL_STATUS : RegInfo := ⟨157, 0x1009000, [(8, 1048576, 1)], 0, .ro, 0x1fff0007, 0x0⟩
def TBL_EVENTS : RegInfo := ⟨158, 0x1009004, [(8, 1048576, 1)], 0, .w1c, 0x3f, 0x0⟩
def TBL_EM_CTRL : RegInfo := ⟨159, 0x1009008, [(8, 1048576, 1)], 0, .rw, 0x3f07, 0x1003⟩
def TBL_LEARN_CTRL : RegInfo := ⟨160, 0x100900c, [(8, 1048576, 1)], 0, .rw, 0xffc01, 0x2a001⟩
def TBL_AGE_CTRL : RegInfo := ⟨161, 0x1009010, [(8, 1048576, 1)], 0, .rw, 0x8000ffff, 0x800000c8⟩
def TBL_OVF_STATUS : RegInfo := ⟨162, 0x1009014, [(8, 1048576, 1)], 0, .ro, 0x3fff, 0x0⟩
def TBL_OVF_HIGH : RegInfo := ⟨163, 0x1009018, [(8, 1048576, 1)], 0, .rw, 0x3fff, 0x1c00⟩
def TBL_LAST_LOST : RegInfo := ⟨164, 0x100901c, [(8, 1048576, 1)], 0, .ro, 0xc0000fff, 0x0⟩
def TBL_LAST_LOST_LOC : RegInfo := ⟨165, 0x1009020, [(8, 1048576, 1)], 0, .ro, 0x3fffff, 0x0⟩
def TBL_LEARN_EV : RegInfo := ⟨166, 0x1009030, [(8, 1048576, 4), (4, 4, 1)], 0, .rw, 0x3f, 0x0⟩
def TBL_EM_LOOKUPS : RegInfo := ⟨167, 0x1009100, [(8, 1048576, 1)], 0, .counter, 0xffffffff, 0x0⟩
def TBL_EM_HITS : RegInfo := ⟨168, 0x1009108, [(8, 1048576, 1)], 0, .counter, 0xffffffff, 0x0⟩
def TBL_LPM_LOOKUPS : RegInfo := ⟨169, 0x1009110, [(8, 1048576, 1)], 0, .counter, 0xffffffff, 0x0⟩
def TBL_LPM_HITS : RegInfo := ⟨170, 0x1009118, [(8, 1048576, 1)], 0, .counter, 0xffffffff, 0x0⟩
def TBL_NOTABLE : RegInfo := ⟨171, 0x1009120, [(8, 1048576, 1)], 0, .counter, 0xffffffff, 0x0⟩
def TBL_MEM_MISSES : RegInfo := ⟨172, 0x1009128, [(8, 1048576, 1)], 0, .counter, 0xffffffff, 0x0⟩
def TBL_LEARNS : RegInfo := ⟨173, 0x1009130, [(8, 1048576, 1)], 0, .counter, 0xffffffff, 0x0⟩
def TBL_LEARN_REFRESH : RegInfo := ⟨174, 0x1009138, [(8, 1048576, 1)], 0, .counter, 0xffffffff, 0x0⟩
def TBL_LEARN_MOVES : RegInfo := ⟨175, 0x1009140, [(8, 1048576, 1)], 0, .counter, 0xffffffff, 0x0⟩
def TBL_LEARN_STATIC : RegInfo := ⟨176, 0x1009148, [(8, 1048576, 1)], 0, .counter, 0xffffffff, 0x0⟩
def TBL_LEARN_LIMIT : RegInfo := ⟨177, 0x1009150, [(8, 1048576, 1)], 0, .counter, 0xffffffff, 0x0⟩
def TBL_LEARN_NOROOM : RegInfo := ⟨178, 0x1009158, [(8, 1048576, 1)], 0, .counter, 0xffffffff, 0x0⟩
def TBL_LEARN_QFULL : RegInfo := ⟨179, 0x1009160, [(8, 1048576, 1)], 0, .counter, 0xffffffff, 0x0⟩
def TBL_LEARN_BADTAB : RegInfo := ⟨180, 0x1009168, [(8, 1048576, 1)], 0, .counter, 0xffffffff, 0x0⟩
def TBL_AGED : RegInfo := ⟨181, 0x1009170, [(8, 1048576, 1)], 0, .counter, 0xffffffff, 0x0⟩
def TBL_AGE_LATE : RegInfo := ⟨182, 0x1009178, [(8, 1048576, 1)], 0, .counter, 0xffffffff, 0x0⟩
def TBL_RELOCATIONS : RegInfo := ⟨183, 0x1009180, [(8, 1048576, 1)], 0, .counter, 0xffffffff, 0x0⟩
def TBL_OVF_INSERTS : RegInfo := ⟨184, 0x1009188, [(8, 1048576, 1)], 0, .counter, 0xffffffff, 0x0⟩
def TBL_ENTRIES_LOST : RegInfo := ⟨185, 0x1009190, [(8, 1048576, 1)], 0, .counter, 0xffffffff, 0x0⟩
/-- Block `tbl` (R255). -/
def table_tbl : List RegInfo := [TBL_STATUS, TBL_EVENTS, TBL_EM_CTRL, TBL_LEARN_CTRL, TBL_AGE_CTRL, TBL_OVF_STATUS, TBL_OVF_HIGH, TBL_LAST_LOST, TBL_LAST_LOST_LOC, TBL_LEARN_EV, TBL_EM_LOOKUPS, TBL_EM_HITS, TBL_LPM_LOOKUPS, TBL_LPM_HITS, TBL_NOTABLE, TBL_MEM_MISSES, TBL_LEARNS, TBL_LEARN_REFRESH, TBL_LEARN_MOVES, TBL_LEARN_STATIC, TBL_LEARN_LIMIT, TBL_LEARN_NOROOM, TBL_LEARN_QFULL, TBL_LEARN_BADTAB, TBL_AGED, TBL_AGE_LATE, TBL_RELOCATIONS, TBL_OVF_INSERTS, TBL_ENTRIES_LOST]

def STG_CTRL : RegInfo := ⟨186, 0x100a000, [(8, 1048576, 1)], 0, .rw, 0xff, 0x0⟩
def STG_EVENTS : RegInfo := ⟨187, 0x100a004, [(8, 1048576, 1)], 0, .w1c, 0xf, 0x0⟩
def STG_LAST_ERR : RegInfo := ⟨188, 0x100a008, [(8, 1048576, 1)], 0, .ro, 0xfff003ff, 0x0⟩
def STG_I_DISCARDS : RegInfo := ⟨189, 0x100a100, [(8, 1048576, 4), (4, 64, 1)], 0, .counter, 0xffffffff, 0x0⟩
def STG_I_TO_AE : RegInfo := ⟨190, 0x100a108, [(8, 1048576, 4), (4, 64, 1)], 0, .counter, 0xffffffff, 0x0⟩
def STG_I_REASON_AE : RegInfo := ⟨191, 0x100a110, [(8, 1048576, 4), (4, 64, 1)], 0, .counter, 0xffffffff, 0x0⟩
def STG_I_PUNTS : RegInfo := ⟨192, 0x100a118, [(8, 1048576, 4), (4, 64, 1)], 0, .counter, 0xffffffff, 0x0⟩
def STG_I_BAD_ADDR : RegInfo := ⟨193, 0x100a120, [(8, 1048576, 4), (4, 64, 1)], 0, .counter, 0xffffffff, 0x0⟩
def STG_I_EDIT_ERRS : RegInfo := ⟨194, 0x100a128, [(8, 1048576, 4), (4, 64, 1)], 0, .counter, 0xffffffff, 0x0⟩
def STG_I_MEM_ERRS : RegInfo := ⟨195, 0x100a130, [(8, 1048576, 4), (4, 64, 1)], 0, .counter, 0xffffffff, 0x0⟩
def STG_I_BAD_OPS : RegInfo := ⟨196, 0x100a138, [(8, 1048576, 4), (4, 64, 1)], 0, .counter, 0xffffffff, 0x0⟩
def STG_E_DISCARDS : RegInfo := ⟨197, 0x100a200, [(8, 1048576, 4), (4, 64, 1)], 0, .counter, 0xffffffff, 0x0⟩
def STG_E_RECIRCS : RegInfo := ⟨198, 0x100a208, [(8, 1048576, 4), (4, 64, 1)], 0, .counter, 0xffffffff, 0x0⟩
def STG_E_BAD_ADDR : RegInfo := ⟨199, 0x100a210, [(8, 1048576, 4), (4, 64, 1)], 0, .counter, 0xffffffff, 0x0⟩
def STG_E_EDIT_ERRS : RegInfo := ⟨200, 0x100a218, [(8, 1048576, 4), (4, 64, 1)], 0, .counter, 0xffffffff, 0x0⟩
def STG_E_MEM_ERRS : RegInfo := ⟨201, 0x100a220, [(8, 1048576, 4), (4, 64, 1)], 0, .counter, 0xffffffff, 0x0⟩
def STG_E_BAD_OPS : RegInfo := ⟨202, 0x100a228, [(8, 1048576, 4), (4, 64, 1)], 0, .counter, 0xffffffff, 0x0⟩
/-- Block `stg` (R288). -/
def table_stg : List RegInfo := [STG_CTRL, STG_EVENTS, STG_LAST_ERR, STG_I_DISCARDS, STG_I_TO_AE, STG_I_REASON_AE, STG_I_PUNTS, STG_I_BAD_ADDR, STG_I_EDIT_ERRS, STG_I_MEM_ERRS, STG_I_BAD_OPS, STG_E_DISCARDS, STG_E_RECIRCS, STG_E_BAD_ADDR, STG_E_EDIT_ERRS, STG_E_MEM_ERRS, STG_E_BAD_OPS]

def STG_CMD : RegInfo := ⟨203, 0x8030000, [(8, 4096, 4), (4, 1024, 1)], 0, .wo, 0x3ff1f7f, 0x0⟩
def STG_CMD_STATUS : RegInfo := ⟨204, 0x8030004, [(8, 4096, 4), (4, 1024, 1)], 0, .ro, 0x8000000f, 0x0⟩
def STG_CMD_REGVAL : RegInfo := ⟨205, 0x8030008, [(8, 4096, 4), (4, 1024, 1)], 0, .rw, 0xffffffff, 0x0⟩
def STG_CMD_FRAMES : RegInfo := ⟨206, 0x8030010, [(8, 4096, 4), (4, 1024, 1)], 0, .ro64, 0xffffffff, 0x0⟩
def STG_CMD_BYTES : RegInfo := ⟨207, 0x8030018, [(8, 4096, 4), (4, 1024, 1)], 0, .ro64, 0xffffffff, 0x0⟩
def STG_CMD_DONE : RegInfo := ⟨208, 0x8030020, [(8, 4096, 4), (4, 1024, 1)], 0, .counter, 0xffffffff, 0x0⟩
def STG_CMD_REJECTS : RegInfo := ⟨209, 0x8030028, [(8, 4096, 4), (4, 1024, 1)], 0, .counter, 0xffffffff, 0x0⟩
def STG_CMD_IGNORED : RegInfo := ⟨210, 0x8030030, [(8, 4096, 4), (4, 1024, 1)], 0, .counter, 0xffffffff, 0x0⟩
/-- Block `stgSet` (R289). -/
def table_stgSet : List RegInfo := [STG_CMD, STG_CMD_STATUS, STG_CMD_REGVAL, STG_CMD_FRAMES, STG_CMD_BYTES, STG_CMD_DONE, STG_CMD_REJECTS, STG_CMD_IGNORED]

def RPL_CMD : RegInfo := ⟨211, 0x8020000, [(4, 1024, 1)], 0, .wo, 0xf, 0x0⟩
def RPL_CMD_STATUS : RegInfo := ⟨212, 0x8020004, [(4, 1024, 1)], 0, .ro, 0x8000000f, 0x0⟩
def RPL_CMD_LIST : RegInfo := ⟨213, 0x8020008, [(4, 1024, 1)], 0, .rw, 0xffff, 0x0⟩
def RPL_CMD_INDEX : RegInfo := ⟨214, 0x802000c, [(4, 1024, 1)], 0, .rw, 0x3ffff, 0x0⟩
def RPL_CMD_MEMBER : RegInfo := ⟨215, 0x8020010, [(4, 1024, 1)], 0, .rw, 0x80001fff, 0x0⟩
def RPL_CMD_HEAD : RegInfo := ⟨216, 0x8020014, [(4, 1024, 1)], 0, .rw, 0xfffffff, 0x0⟩
def RPL_CMD_DONE : RegInfo := ⟨217, 0x8020080, [(4, 1024, 1)], 0, .counter, 0xffffffff, 0x0⟩
def RPL_CMD_REJECTS : RegInfo := ⟨218, 0x8020088, [(4, 1024, 1)], 0, .counter, 0xffffffff, 0x0⟩
def RPL_CMD_IGNORED : RegInfo := ⟨219, 0x8020090, [(4, 1024, 1)], 0, .counter, 0xffffffff, 0x0⟩
/-- Block `rplSet` (R290). -/
def table_rplSet : List RegInfo := [RPL_CMD, RPL_CMD_STATUS, RPL_CMD_LIST, RPL_CMD_INDEX, RPL_CMD_MEMBER, RPL_CMD_HEAD, RPL_CMD_DONE, RPL_CMD_REJECTS, RPL_CMD_IGNORED]

def AE_PCH_CMD : RegInfo := ⟨220, 0x8040000, [(8, 4096, 4), (4, 1024, 1)], 0, .wo, 0xf, 0x0⟩
def AE_PCH_STATUS : RegInfo := ⟨221, 0x8040004, [(8, 4096, 4), (4, 1024, 1)], 0, .ro, 0x80007f0f, 0x0⟩
def AE_PCH_ADDR : RegInfo := ⟨222, 0x8040008, [(8, 4096, 4), (4, 1024, 1)], 0, .rw, 0xffff, 0x0⟩
def AE_PCH_GUARD : RegInfo := ⟨223, 0x804000c, [(8, 4096, 4), (4, 1024, 1)], 0, .rw, 0xffffffff, 0x0⟩
def AE_PCH_CTRL : RegInfo := ⟨224, 0x8040010, [(8, 4096, 4), (4, 1024, 1)], 0, .rw, 0xffff0001, 0x1⟩
def AE_PCH_WORD : RegInfo := ⟨225, 0x8040020, [(8, 4096, 16), (4, 1024, 4), (4, 4, 1)], 0, .rw, 0xffffffff, 0x0⟩
def AE_PCH_DONE : RegInfo := ⟨226, 0x8040080, [(8, 4096, 4), (4, 1024, 1)], 0, .counter, 0xffffffff, 0x0⟩
def AE_PCH_REJECTS : RegInfo := ⟨227, 0x8040088, [(8, 4096, 4), (4, 1024, 1)], 0, .counter, 0xffffffff, 0x0⟩
def AE_PCH_IGNORED : RegInfo := ⟨228, 0x8040090, [(8, 4096, 4), (4, 1024, 1)], 0, .counter, 0xffffffff, 0x0⟩
/-- Block `pchSet` (R342). -/
def table_pchSet : List RegInfo := [AE_PCH_CMD, AE_PCH_STATUS, AE_PCH_ADDR, AE_PCH_GUARD, AE_PCH_CTRL, AE_PCH_WORD, AE_PCH_DONE, AE_PCH_REJECTS, AE_PCH_IGNORED]

def AE_EVENTS : RegInfo := ⟨229, 0x1020000, [(8, 1048576, 1)], 0, .w1c, 0x7ff, 0x0⟩
def AE_WD_CTRL : RegInfo := ⟨230, 0x1020004, [(8, 1048576, 1)], 0, .rw, 0xfffff, 0x3e8⟩
def AE_DBG_CTRL : RegInfo := ⟨231, 0x1020008, [(8, 1048576, 1)], 0, .rw, 0xfffff, 0x64⟩
def AE_MILLER_CTRL : RegInfo := ⟨232, 0x102000c, [(8, 1048576, 1)], 0, .rw, 0xfffff, 0x3e8⟩
def AE_UCODE_ID : RegInfo := ⟨233, 0x1020010, [(8, 1048576, 1)], 0, .ro, 0xffffffff, 0x0⟩
def AE_UCODE_VER : RegInfo := ⟨234, 0x1020014, [(8, 1048576, 1)], 0, .ro, 0xffffffff, 0x0⟩
def AE_PATCH_STATUS : RegInfo := ⟨235, 0x1020018, [(8, 1048576, 1)], 0, .ro, 0x7fffff, 0x0⟩
def AE_CELLS_USED : RegInfo := ⟨236, 0x102001c, [(8, 1048576, 1)], 0, .ro, 0xfffff, 0x0⟩
def AE_OUT_USED : RegInfo := ⟨237, 0x1020020, [(8, 1048576, 1)], 0, .ro, 0x7ff, 0x0⟩
def AE_FAULTS : RegInfo := ⟨238, 0x1020040, [(8, 1048576, 1)], 0, .counter, 0xffffffff, 0x0⟩
def AE_WD_FIRES : RegInfo := ⟨239, 0x1020048, [(8, 1048576, 1)], 0, .counter, 0xffffffff, 0x0⟩
def AE_STALLED_WRITERS : RegInfo := ⟨240, 0x1020050, [(8, 1048576, 1)], 0, .counter, 0xffffffff, 0x0⟩
def AE_EV_LOST : RegInfo := ⟨241, 0x1020058, [(8, 1048576, 1)], 0, .counter, 0xffffffff, 0x0⟩
def AE_STEER_BAD_DROPS : RegInfo := ⟨242, 0x1020060, [(8, 1048576, 1)], 0, .counter, 0xffffffff, 0x0⟩
def AE_RESTART_DROPS : RegInfo := ⟨243, 0x1020068, [(8, 1048576, 1)], 0, .counter, 0xffffffff, 0x0⟩
def AE_STAGED_DISCARDS : RegInfo := ⟨244, 0x1020070, [(8, 1048576, 1)], 0, .counter, 0xffffffff, 0x0⟩
def AE_SINK_BAD : RegInfo := ⟨245, 0x1020078, [(8, 1048576, 1)], 0, .counter, 0xffffffff, 0x0⟩
def AE_MEM_ERRS : RegInfo := ⟨246, 0x1020080, [(8, 1048576, 1)], 0, .counter, 0xffffffff, 0x0⟩
def AE_FORCED_MOVES : RegInfo := ⟨247, 0x1020088, [(8, 1048576, 1)], 0, .counter, 0xffffffff, 0x0⟩
/-- Block `ae` (R346). -/
def table_ae : List RegInfo := [AE_EVENTS, AE_WD_CTRL, AE_DBG_CTRL, AE_MILLER_CTRL, AE_UCODE_ID, AE_UCODE_VER, AE_PATCH_STATUS, AE_CELLS_USED, AE_OUT_USED, AE_FAULTS, AE_WD_FIRES, AE_STALLED_WRITERS, AE_EV_LOST, AE_STEER_BAD_DROPS, AE_RESTART_DROPS, AE_STAGED_DISCARDS, AE_SINK_BAD, AE_MEM_ERRS, AE_FORCED_MOVES]

def AE_ENG_STATUS : RegInfo := ⟨248, 0x1021000, [(8, 1048576, 32), (32, 32, 1)], 0, .ro, 0xffffff00, 0x0⟩
def AE_ENG_WD : RegInfo := ⟨249, 0x1021004, [(8, 1048576, 32), (32, 32, 1)], 0, .ro, 0x3, 0x0⟩
def AE_ENG_ISSUED : RegInfo := ⟨250, 0x1021008, [(8, 1048576, 32), (32, 32, 1)], 0, .counter, 0xffffffff, 0x0⟩
def AE_ENG_EMPTY : RegInfo := ⟨251, 0x1021010, [(8, 1048576, 32), (32, 32, 1)], 0, .counter, 0xffffffff, 0x0⟩
/-- Block `aeEng` (R347). -/
def table_aeEng : List RegInfo := [AE_ENG_STATUS, AE_ENG_WD, AE_ENG_ISSUED, AE_ENG_EMPTY]

def AE_THR_STATUS : RegInfo := ⟨252, 0x1028000, [(8, 1048576, 256), (256, 32, 1)], 0, .ro, 0x0, 0x0⟩
def AE_THR_PC : RegInfo := ⟨253, 0x1028004, [(8, 1048576, 256), (256, 32, 1)], 0, .ro, 0xffff, 0x0⟩
def AE_THR_CMD : RegInfo := ⟨254, 0x1028008, [(8, 1048576, 256), (256, 32, 1)], 0, .wo, 0x0, 0x0⟩
def AE_THR_FAULT : RegInfo := ⟨255, 0x102800c, [(8, 1048576, 256), (256, 32, 1)], 0, .ro, 0xffff0040, 0x0⟩
def AE_THR_USE : RegInfo := ⟨256, 0x1028010, [(8, 1048576, 256), (256, 32, 1)], 0, .ro, 0x7ffffff, 0x0⟩
def AE_THR_FAULTS : RegInfo := ⟨257, 0x1028018, [(8, 1048576, 256), (256, 32, 1)], 0, .counter, 0xffffffff, 0x0⟩
/-- Block `aeThr` (R348). -/
def table_aeThr : List RegInfo := [AE_THR_STATUS, AE_THR_PC, AE_THR_CMD, AE_THR_FAULT, AE_THR_USE, AE_THR_FAULTS]

def AE_CHAN_STATUS : RegInfo := ⟨258, 0x102a000, [(8, 1048576, 256), (256, 16, 1)], 0, .ro, 0x1ffffff, 0x0⟩
def AE_CHAN_DROPS : RegInfo := ⟨259, 0x102a008, [(8, 1048576, 256), (256, 16, 1)], 0, .counter, 0xffffffff, 0x0⟩
/-- Block `aeChan` (R349). -/
def table_aeChan : List RegInfo := [AE_CHAN_STATUS, AE_CHAN_DROPS]

def AE_DBG_SEL : RegInfo := ⟨260, 0x102c000, [(8, 1048576, 1)], 0, .rw, 0xffff, 0x0⟩
def AE_DBG_STATUS : RegInfo := ⟨261, 0x102c004, [(8, 1048576, 1)], 0, .ro, 0x3, 0x0⟩
def AE_DBG_DATA_LO : RegInfo := ⟨262, 0x102c008, [(8, 1048576, 1)], 0, .rw, 0xffffffff, 0x0⟩
def AE_DBG_DATA_HI : RegInfo := ⟨263, 0x102c00c, [(8, 1048576, 1)], 0, .rw, 0xffffffff, 0x0⟩
def AE_DBG_BP : RegInfo := ⟨264, 0x102c010, [(8, 1048576, 4), (4, 4, 1)], 0, .rw, 0x81ffffff, 0x0⟩
/-- Block `aeDbg` (R350). -/
def table_aeDbg : List RegInfo := [AE_DBG_SEL, AE_DBG_STATUS, AE_DBG_DATA_LO, AE_DBG_DATA_HI, AE_DBG_BP]

def MRC_CTRL : RegInfo := ⟨265, 0x2000000, [], 0, .rw, 0xff0f, 0x100f⟩
def MRC_STATUS : RegInfo := ⟨266, 0x2000004, [], 0, .ro, 0xf, 0x0⟩
def MRC_EVENTS : RegInfo := ⟨267, 0x2000008, [], 0, .w1c, 0x3f, 0x0⟩
def MRC_RSQ_CTRL : RegInfo := ⟨268, 0x200000c, [], 0, .rw, 0xffff, 0xfa0⟩
def MRC_LINK : RegInfo := ⟨269, 0x2000100, [(32, 4, 1)], 0, .rw, 0x3, 0x3⟩
def MRC_CRC_IN : RegInfo := ⟨270, 0x2000200, [(32, 16, 1)], 0, .counter, 0xffffffff, 0x0⟩
def MRC_CRC_OUT : RegInfo := ⟨271, 0x2000208, [(32, 16, 1)], 0, .counter, 0xffffffff, 0x0⟩
def MRC_LOST : RegInfo := ⟨272, 0x2000400, [(32, 32, 1)], 0, .counter, 0xffffffff, 0x0⟩
def MRC_ORPHAN : RegInfo := ⟨273, 0x2000408, [(32, 32, 1)], 0, .counter, 0xffffffff, 0x0⟩
def MRC_LATE : RegInfo := ⟨274, 0x2000410, [(32, 32, 1)], 0, .counter, 0xffffffff, 0x0⟩
def MRC_WINDOW : RegInfo := ⟨275, 0x2000418, [(32, 32, 1)], 0, .counter, 0xffffffff, 0x0⟩
/-- Block `mrc` (R398). -/
def table_mrc : List RegInfo := [MRC_CTRL, MRC_STATUS, MRC_EVENTS, MRC_RSQ_CTRL, MRC_LINK, MRC_CRC_IN, MRC_CRC_OUT, MRC_LOST, MRC_ORPHAN, MRC_LATE, MRC_WINDOW]

def MRS_CTRL : RegInfo := ⟨276, 0x100b000, [(8, 1048576, 1)], 0, .rw, 0x7ffff, 0x20fa0⟩
def MRS_EVENTS : RegInfo := ⟨277, 0x100b004, [(8, 1048576, 1)], 0, .w1c, 0x3f, 0x0⟩
def MRS_STATUS : RegInfo := ⟨278, 0x100b008, [(8, 1048576, 1)], 0, .ro, 0xf, 0x0⟩
def MRS_LOST : RegInfo := ⟨279, 0x100b100, [(8, 1048576, 4), (4, 64, 1)], 0, .counter, 0xffffffff, 0x0⟩
def MRS_ORPHAN : RegInfo := ⟨280, 0x100b108, [(8, 1048576, 4), (4, 64, 1)], 0, .counter, 0xffffffff, 0x0⟩
def MRS_LATE : RegInfo := ⟨281, 0x100b110, [(8, 1048576, 4), (4, 64, 1)], 0, .counter, 0xffffffff, 0x0⟩
def MRS_WINDOW : RegInfo := ⟨282, 0x100b118, [(8, 1048576, 4), (4, 64, 1)], 0, .counter, 0xffffffff, 0x0⟩
def MRS_UNDERRUN : RegInfo := ⟨283, 0x100b120, [(8, 1048576, 4), (4, 64, 1)], 0, .counter, 0xffffffff, 0x0⟩
def MRS_STOMP : RegInfo := ⟨284, 0x100b200, [(8, 1048576, 10), (10, 8, 1)], 1, .counter, 0xffffffff, 0x0⟩
/-- Block `mrs` (R399). -/
def table_mrs : List RegInfo := [MRS_CTRL, MRS_EVENTS, MRS_STATUS, MRS_LOST, MRS_ORPHAN, MRS_LATE, MRS_WINDOW, MRS_UNDERRUN, MRS_STOMP]

def BPM_STATUS : RegInfo := ⟨285, 0x2010000, [], 0, .ro, 0x1, 0x0⟩
def BPM_EVENTS : RegInfo := ⟨286, 0x2010004, [], 0, .w1c, 0x3f, 0x0⟩
def BPM_FREE_CELLS : RegInfo := ⟨287, 0x2010008, [], 0, .ro, 0xfffff, 0x0⟩
def BPM_GUARD : RegInfo := ⟨288, 0x201000c, [], 0, .rw, 0xfffff, 0x8000⟩
def BPM_CT_CTRL : RegInfo := ⟨289, 0x2010010, [], 0, .rw, 0x1, 0x1⟩
def BPM_MC_CTRL : RegInfo := ⟨290, 0x2010014, [], 0, .rw, 0xf, 0xd⟩
def BPM_HOST_CTRL : RegInfo := ⟨291, 0x2010018, [], 0, .rw, 0xfffff, 0x0⟩
def BPM_LAST_BAD_FREE0 : RegInfo := ⟨292, 0x201001c, [], 0, .ro, 0xf80fffff, 0x0⟩
def BPM_LAST_BAD_FREE1 : RegInfo := ⟨293, 0x2010020, [], 0, .ro, 0xffffffff, 0x0⟩
def BPM_AGE_CTRL : RegInfo := ⟨294, 0x2010024, [], 0, .rw, 0x1, 0x1⟩
def BPM_MIN_FREE : RegInfo := ⟨295, 0x2010028, [], 0, .rc, 0xfffff, 0xc0000⟩
def BPM_BAD_FREE_DOUBLE : RegInfo := ⟨296, 0x2010800, [], 0, .counter, 0xffffffff, 0x0⟩
def BPM_BAD_FREE_OWNER : RegInfo := ⟨297, 0x2010808, [], 0, .counter, 0xffffffff, 0x0⟩
def BPM_BAD_FREE_RANGE : RegInfo := ⟨298, 0x2010810, [], 0, .counter, 0xffffffff, 0x0⟩
def BPM_EXHAUST_CELLS : RegInfo := ⟨299, 0x2010818, [], 0, .counter, 0xffffffff, 0x0⟩
def BPM_UNUSED_LPORT : RegInfo := ⟨300, 0x2010820, [], 0, .counter, 0xffffffff, 0x0⟩
def BPM_MC_NOCOPY : RegInfo := ⟨301, 0x2010828, [], 0, .counter, 0xffffffff, 0x0⟩
def BPM_MC_ATOMIC_DROPS : RegInfo := ⟨302, 0x2010830, [], 0, .counter, 0xffffffff, 0x0⟩
def BPM_MC_COPY_QUEUE : RegInfo := ⟨303, 0x2010838, [], 0, .counter, 0xffffffff, 0x0⟩
def BPM_MC_COPY_UNUSED : RegInfo := ⟨304, 0x2010840, [], 0, .counter, 0xffffffff, 0x0⟩
def BPM_MC_COPY_BAD : RegInfo := ⟨305, 0x2010848, [], 0, .counter, 0xffffffff, 0x0⟩
def BPM_MC_COPY_AGED : RegInfo := ⟨306, 0x2010850, [], 0, .counter, 0xffffffff, 0x0⟩
def BPM_ORPHAN_FREES : RegInfo := ⟨307, 0x2010858, [], 0, .counter, 0xffffffff, 0x0⟩
def BPM_CT_STARTS : RegInfo := ⟨308, 0x2010860, [], 0, .counter, 0xffffffff, 0x0⟩
def BPM_STATE_MEM_ERRS : RegInfo := ⟨309, 0x2010868, [], 0, .counter, 0xffffffff, 0x0⟩
/-- Block `bpm` (R400). -/
def table_bpm : List RegInfo := [BPM_STATUS, BPM_EVENTS, BPM_FREE_CELLS, BPM_GUARD, BPM_CT_CTRL, BPM_MC_CTRL, BPM_HOST_CTRL, BPM_LAST_BAD_FREE0, BPM_LAST_BAD_FREE1, BPM_AGE_CTRL, BPM_MIN_FREE, BPM_BAD_FREE_DOUBLE, BPM_BAD_FREE_OWNER, BPM_BAD_FREE_RANGE, BPM_EXHAUST_CELLS, BPM_UNUSED_LPORT, BPM_MC_NOCOPY, BPM_MC_ATOMIC_DROPS, BPM_MC_COPY_QUEUE, BPM_MC_COPY_UNUSED, BPM_MC_COPY_BAD, BPM_MC_COPY_AGED, BPM_ORPHAN_FREES, BPM_CT_STARTS, BPM_STATE_MEM_ERRS]

def BPM_POOL_RSV : RegInfo := ⟨310, 0x2010100, [(16, 32, 1)], 0, .rw, 0xfffff, 0x0⟩
def BPM_POOL_MAX : RegInfo := ⟨311, 0x2010104, [(16, 32, 1)], 0, .rw, 0xfffff, 0xc0000⟩
def BPM_POOL_CLR : RegInfo := ⟨312, 0x2010108, [(16, 32, 1)], 0, .rw, 0xffff, 0x80c0⟩
def BPM_POOL_AGE : RegInfo := ⟨313, 0x201010c, [(16, 32, 1)], 0, .rw, 0xffff, 0x1388⟩
def BPM_POOL_USED : RegInfo := ⟨314, 0x2010110, [(16, 32, 1)], 0, .ro, 0xfffff, 0x0⟩
def BPM_POOL_PEAK : RegInfo := ⟨315, 0x2010114, [(16, 32, 1)], 0, .rc, 0xfffff, 0x0⟩
/-- Block `bpmPool` (R401). -/
def table_bpmPool : List RegInfo := [BPM_POOL_RSV, BPM_POOL_MAX, BPM_POOL_CLR, BPM_POOL_AGE, BPM_POOL_USED, BPM_POOL_PEAK]

def BPM_P_FRAMES : RegInfo := ⟨316, 0x2010400, [(16, 64, 1)], 0, .counter, 0xffffffff, 0x0⟩
def BPM_P_CELLS : RegInfo := ⟨317, 0x2010408, [(16, 64, 1)], 0, .counter, 0xffffffff, 0x0⟩
def BPM_P_DROP_LIMIT : RegInfo := ⟨318, 0x2010410, [(16, 64, 1)], 0, .counter, 0xffffffff, 0x0⟩
def BPM_P_DROP_SHARED : RegInfo := ⟨319, 0x2010418, [(16, 64, 1)], 0, .counter, 0xffffffff, 0x0⟩
def BPM_P_DROP_GUARD : RegInfo := ⟨320, 0x2010420, [(16, 64, 1)], 0, .counter, 0xffffffff, 0x0⟩
def BPM_P_DROP_BAD : RegInfo := ⟨321, 0x2010428, [(16, 64, 1)], 0, .counter, 0xffffffff, 0x0⟩
def BPM_P_AGED : RegInfo := ⟨322, 0x2010430, [(16, 64, 1)], 0, .counter, 0xffffffff, 0x0⟩
/-- Block `bpmPoolCtr` (R402). -/
def table_bpmPoolCtr : List RegInfo := [BPM_P_FRAMES, BPM_P_CELLS, BPM_P_DROP_LIMIT, BPM_P_DROP_SHARED, BPM_P_DROP_GUARD, BPM_P_DROP_BAD, BPM_P_AGED]

def BPM_CMD : RegInfo := ⟨323, 0x8050000, [(4, 1024, 1)], 0, .wo, 0xf, 0x0⟩
def BPM_FREE_CMD : RegInfo := ⟨324, 0x8050004, [(4, 1024, 1)], 0, .wo, 0xfffff, 0x0⟩
def BPM_CMD_STATUS : RegInfo := ⟨325, 0x8050008, [(4, 1024, 1)], 0, .ro, 0x8000000f, 0x0⟩
def BPM_CMD_CELL : RegInfo := ⟨326, 0x805000c, [(4, 1024, 1)], 0, .rw, 0xfffff, 0x0⟩
def BPM_CMD_LIST : RegInfo := ⟨327, 0x8050010, [(4, 1024, 1)], 0, .rw, 0xffff, 0x0⟩
def BPM_RD_STATE : RegInfo := ⟨328, 0x8050014, [(4, 1024, 1)], 0, .ro, 0xfbffffff, 0x0⟩
def BPM_RD_ATOMIC : RegInfo := ⟨329, 0x8050018, [(4, 1024, 1)], 0, .ro, 0x1, 0x0⟩
def BPM_CMD_DONE : RegInfo := ⟨330, 0x8050080, [(4, 1024, 1)], 0, .counter, 0xffffffff, 0x0⟩
def BPM_CMD_REJECTS : RegInfo := ⟨331, 0x8050088, [(4, 1024, 1)], 0, .counter, 0xffffffff, 0x0⟩
def BPM_CMD_IGNORED : RegInfo := ⟨332, 0x8050090, [(4, 1024, 1)], 0, .counter, 0xffffffff, 0x0⟩
/-- Block `bpmSet` (R403). -/
def table_bpmSet : List RegInfo := [BPM_CMD, BPM_FREE_CMD, BPM_CMD_STATUS, BPM_CMD_CELL, BPM_CMD_LIST, BPM_RD_STATE, BPM_RD_ATOMIC, BPM_CMD_DONE, BPM_CMD_REJECTS, BPM_CMD_IGNORED]

def HBM_CTRL : RegInfo := ⟨333, 0x3000000, [(4, 1048576, 1)], 0, .rw, 0x3ff01, 0x30301⟩
def HBM_STATUS : RegInfo := ⟨334, 0x3000004, [(4, 1048576, 1)], 0, .ro, 0x0, 0x0⟩
def HBM_EVENTS : RegInfo := ⟨335, 0x3000008, [(4, 1048576, 1)], 0, .w1c, 0x3ff, 0x0⟩
def HBM_CMD : RegInfo := ⟨336, 0x300000c, [(4, 1048576, 1)], 0, .wo, 0xf, 0x0⟩
def HBM_SCHED : RegInfo := ⟨337, 0x3000010, [(4, 1048576, 1)], 0, .rw, 0xffff, 0x190⟩
def HBM_REF_CTRL : RegInfo := ⟨338, 0x3000014, [(4, 1048576, 1)], 0, .rw, 0xf, 0x8⟩
def HBM_SR_CTRL : RegInfo := ⟨339, 0x3000018, [(4, 1048576, 1)], 0, .rw, 0xfffff, 0x64⟩
def HBM_SCRUB_CTRL : RegInfo := ⟨340, 0x300001c, [(4, 1048576, 1)], 0, .rw, 0xffff, 0x600⟩
def HBM_FRZ_INFO : RegInfo := ⟨341, 0x3000020, [(4, 1048576, 1)], 0, .ro, 0xfbffffff, 0x0⟩
def HBM_FRZ_TIME : RegInfo := ⟨342, 0x3000024, [(4, 1048576, 1)], 0, .ro, 0xffffffff, 0x0⟩
def HBM_PAGES_FREE : RegInfo := ⟨343, 0x3000028, [(4, 1048576, 1)], 0, .ro, 0x1fffff, 0x0⟩
def HBM_PAGES_RETIRED : RegInfo := ⟨344, 0x300002c, [(4, 1048576, 1)], 0, .ro, 0x1fffff, 0x0⟩
def HBM_RETIRE_CMD : RegInfo := ⟨345, 0x3000030, [(4, 1048576, 1)], 0, .wo, 0x800fffff, 0x0⟩
def HBM_TEMP : RegInfo := ⟨346, 0x3000034, [(4, 1048576, 1)], 0, .ro, 0xfff, 0x0⟩
def HBM_TRAIN_STATUS : RegInfo := ⟨347, 0x3000038, [(4, 1048576, 1)], 0, .ro, 0xffffffff, 0x0⟩
def HBM_DIAG_ADDR : RegInfo := ⟨348, 0x3000040, [(4, 1048576, 1)], 0, .rw, 0x3ffffff, 0x0⟩
def HBM_DIAG_COUNT : RegInfo := ⟨349, 0x3000044, [(4, 1048576, 1)], 0, .rw, 0x1fffff, 0x0⟩
def HBM_DIAG_CMD : RegInfo := ⟨350, 0x3000048, [(4, 1048576, 1)], 0, .wo, 0xf, 0x0⟩
def HBM_DIAG_STATUS : RegInfo := ⟨351, 0x300004c, [(4, 1048576, 1)], 0, .ro, 0x8000000f, 0x0⟩
def HBM_DIAG_DATA : RegInfo := ⟨352, 0x3000100, [(4, 1048576, 64), (64, 4, 1)], 0, .ro, 0xffffffff, 0x0⟩
def HBM_READS : RegInfo := ⟨353, 0x3000200, [(4, 1048576, 1)], 0, .counter, 0xffffffff, 0x0⟩
def HBM_WRITES : RegInfo := ⟨354, 0x3000208, [(4, 1048576, 1)], 0, .counter, 0xffffffff, 0x0⟩
def HBM_CORR : RegInfo := ⟨355, 0x3000210, [(4, 1048576, 1)], 0, .counter, 0xffffffff, 0x0⟩
def HBM_UNCORR : RegInfo := ⟨356, 0x3000218, [(4, 1048576, 1)], 0, .counter, 0xffffffff, 0x0⟩
def HBM_REPLAYS : RegInfo := ⟨357, 0x3000220, [(4, 1048576, 1)], 0, .counter, 0xffffffff, 0x0⟩
def HBM_REREADS : RegInfo := ⟨358, 0x3000228, [(4, 1048576, 1)], 0, .counter, 0xffffffff, 0x0⟩
def HBM_REPLAY_FAILS : RegInfo := ⟨359, 0x3000230, [(4, 1048576, 1)], 0, .counter, 0xffffffff, 0x0⟩
def HBM_REF_POSTPONED : RegInfo := ⟨360, 0x3000238, [(4, 1048576, 1)], 0, .counter, 0xffffffff, 0x0⟩
def HBM_REF_FORCED : RegInfo := ⟨361, 0x3000240, [(4, 1048576, 1)], 0, .counter, 0xffffffff, 0x0⟩
def HBM_SCRUB_REPAIRS : RegInfo := ⟨362, 0x3000248, [(4, 1048576, 1)], 0, .counter, 0xffffffff, 0x0⟩
def HBM_FREEZES : RegInfo := ⟨363, 0x3000250, [(4, 1048576, 1)], 0, .counter, 0xffffffff, 0x0⟩
def HBM_DIAG_FAILS : RegInfo := ⟨364, 0x3000258, [(4, 1048576, 1)], 0, .counter, 0xffffffff, 0x0⟩
/-- Block `hbm` (R442). -/
def table_hbm : List RegInfo := [HBM_CTRL, HBM_STATUS, HBM_EVENTS, HBM_CMD, HBM_SCHED, HBM_REF_CTRL, HBM_SR_CTRL, HBM_SCRUB_CTRL, HBM_FRZ_INFO, HBM_FRZ_TIME, HBM_PAGES_FREE, HBM_PAGES_RETIRED, HBM_RETIRE_CMD, HBM_TEMP, HBM_TRAIN_STATUS, HBM_DIAG_ADDR, HBM_DIAG_COUNT, HBM_DIAG_CMD, HBM_DIAG_STATUS, HBM_DIAG_DATA, HBM_READS, HBM_WRITES, HBM_CORR, HBM_UNCORR, HBM_REPLAYS, HBM_REREADS, HBM_REPLAY_FAILS, HBM_REF_POSTPONED, HBM_REF_FORCED, HBM_SCRUB_REPAIRS, HBM_FREEZES, HBM_DIAG_FAILS]

def HBM_SPILL_CTRL : RegInfo := ⟨365, 0x20c0000, [], 0, .rw, 0x3fff0003, 0x3fff0000⟩
def HBM_PAGE_GUARD : RegInfo := ⟨366, 0x20c0004, [], 0, .rw, 0x1fffff, 0x400⟩
def HBM_POOL_PARK_MAX : RegInfo := ⟨367, 0x20c0100, [(14, 16, 1)], 0, .rw, 0x1fffffff, 0x10000000⟩
def HBM_POOL_PARKED : RegInfo := ⟨368, 0x20c0104, [(14, 16, 1)], 0, .ro, 0x1fffffff, 0x0⟩
/-- Block `spill` (R443). -/
def table_spill : List RegInfo := [HBM_SPILL_CTRL, HBM_PAGE_GUARD, HBM_POOL_PARK_MAX, HBM_POOL_PARKED]

def SPE_STG_STATUS : RegInfo := ⟨369, 0x20c1000, [(8, 256, 1)], 0, .ro, 0x3fff, 0x0⟩
def SPE_STG_MARK : RegInfo := ⟨370, 0x20c1004, [(8, 256, 1)], 0, .rw, 0x3fff, 0x1000⟩
def FLE_PF_CTRL : RegInfo := ⟨371, 0x20c1008, [(8, 256, 1)], 0, .rw, 0xf, 0x4⟩
def FLE_PF_CELLS : RegInfo := ⟨372, 0x20c100c, [(8, 256, 1)], 0, .rw, 0xffff, 0x2000⟩
def FLE_PANIC : RegInfo := ⟨373, 0x20c1010, [(8, 256, 1)], 0, .rw, 0xffffffff, 0x10000800⟩
def FLE_STATUS : RegInfo := ⟨374, 0x20c1014, [(8, 256, 1)], 0, .ro, 0x1ffff, 0x0⟩
def SPE_FRAMES : RegInfo := ⟨375, 0x20c1020, [(8, 256, 1)], 0, .counter, 0xffffffff, 0x0⟩
def SPE_CELLS : RegInfo := ⟨376, 0x20c1028, [(8, 256, 1)], 0, .counter, 0xffffffff, 0x0⟩
def SPE_NOT_ELIGIBLE : RegInfo := ⟨377, 0x20c1030, [(8, 256, 1)], 0, .counter, 0xffffffff, 0x0⟩
def SPE_PARK_LIMIT : RegInfo := ⟨378, 0x20c1038, [(8, 256, 1)], 0, .counter, 0xffffffff, 0x0⟩
def SPE_NO_STACK : RegInfo := ⟨379, 0x20c1040, [(8, 256, 1)], 0, .counter, 0xffffffff, 0x0⟩
def SPE_STAGING : RegInfo := ⟨380, 0x20c1048, [(8, 256, 1)], 0, .counter, 0xffffffff, 0x0⟩
def SPE_RESPILLS : RegInfo := ⟨381, 0x20c1050, [(8, 256, 1)], 0, .counter, 0xffffffff, 0x0⟩
def FLE_COPIES : RegInfo := ⟨382, 0x20c1058, [(8, 256, 1)], 0, .counter, 0xffffffff, 0x0⟩
def FLE_CELLS : RegInfo := ⟨383, 0x20c1060, [(8, 256, 1)], 0, .counter, 0xffffffff, 0x0⟩
def FLE_PANICS : RegInfo := ⟨384, 0x20c1068, [(8, 256, 1)], 0, .counter, 0xffffffff, 0x0⟩
def FLE_FROZEN_DISCARDS : RegInfo := ⟨385, 0x20c1070, [(8, 256, 1)], 0, .counter, 0xffffffff, 0x0⟩
/-- Block `spillSlice` (R443). -/
def table_spillSlice : List RegInfo := [SPE_STG_STATUS, SPE_STG_MARK, FLE_PF_CTRL, FLE_PF_CELLS, FLE_PANIC, FLE_STATUS, SPE_FRAMES, SPE_CELLS, SPE_NOT_ELIGIBLE, SPE_PARK_LIMIT, SPE_NO_STACK, SPE_STAGING, SPE_RESPILLS, FLE_COPIES, FLE_CELLS, FLE_PANICS, FLE_FROZEN_DISCARDS]

def GOV_CMD : RegInfo := ⟨386, 0x8060000, [(8, 4096, 4), (4, 1024, 1)], 0, .wo, 0xf, 0x0⟩
def GOV_CMD_STATUS : RegInfo := ⟨387, 0x8060004, [(8, 4096, 4), (4, 1024, 1)], 0, .ro, 0x8000000f, 0x0⟩
def GOV_CMD_INDEX : RegInfo := ⟨388, 0x8060008, [(8, 4096, 4), (4, 1024, 1)], 0, .rw, 0x7fff, 0x0⟩
def GOV_CIR : RegInfo := ⟨389, 0x806000c, [(8, 4096, 4), (4, 1024, 1)], 0, .rw, 0xffffffff, 0x0⟩
def GOV_PIR : RegInfo := ⟨390, 0x8060010, [(8, 4096, 4), (4, 1024, 1)], 0, .rw, 0xffffffff, 0x0⟩
def GOV_CBS : RegInfo := ⟨391, 0x8060014, [(8, 4096, 4), (4, 1024, 1)], 0, .rw, 0xffffff, 0x0⟩
def GOV_PBS : RegInfo := ⟨392, 0x8060018, [(8, 4096, 4), (4, 1024, 1)], 0, .rw, 0xffffff, 0x0⟩
def GOV_FLAGS : RegInfo := ⟨393, 0x806001c, [(8, 4096, 4), (4, 1024, 1)], 0, .rw, 0x7, 0x0⟩
def GOV_TC : RegInfo := ⟨394, 0x8060020, [(8, 4096, 4), (4, 1024, 1)], 0, .ro, 0xffffffff, 0x0⟩
def GOV_TP : RegInfo := ⟨395, 0x8060024, [(8, 4096, 4), (4, 1024, 1)], 0, .ro, 0xffffffff, 0x0⟩
def GOV_ST_GREEN_FR : RegInfo := ⟨396, 0x8060040, [(8, 4096, 4), (4, 1024, 1)], 0, .ro64, 0xffffffff, 0x0⟩
def GOV_ST_GREEN_BY : RegInfo := ⟨397, 0x8060048, [(8, 4096, 4), (4, 1024, 1)], 0, .ro64, 0xffffffff, 0x0⟩
def GOV_ST_YEL_FR : RegInfo := ⟨398, 0x8060050, [(8, 4096, 4), (4, 1024, 1)], 0, .ro64, 0xffffffff, 0x0⟩
def GOV_ST_YEL_BY : RegInfo := ⟨399, 0x8060058, [(8, 4096, 4), (4, 1024, 1)], 0, .ro64, 0xffffffff, 0x0⟩
def GOV_ST_RED_FR : RegInfo := ⟨400, 0x8060060, [(8, 4096, 4), (4, 1024, 1)], 0, .ro64, 0xffffffff, 0x0⟩
def GOV_ST_RED_BY : RegInfo := ⟨401, 0x8060068, [(8, 4096, 4), (4, 1024, 1)], 0, .ro64, 0xffffffff, 0x0⟩
def GOV_ST_DROPS : RegInfo := ⟨402, 0x8060070, [(8, 4096, 4), (4, 1024, 1)], 0, .ro64, 0xffffffff, 0x0⟩
def GOV_CMD_DONE : RegInfo := ⟨403, 0x8060080, [(8, 4096, 4), (4, 1024, 1)], 0, .counter, 0xffffffff, 0x0⟩
def GOV_CMD_REJECTS : RegInfo := ⟨404, 0x8060088, [(8, 4096, 4), (4, 1024, 1)], 0, .counter, 0xffffffff, 0x0⟩
def GOV_CMD_IGNORED : RegInfo := ⟨405, 0x8060090, [(8, 4096, 4), (4, 1024, 1)], 0, .counter, 0xffffffff, 0x0⟩
/-- Block `govSet` (R475). -/
def table_govSet : List RegInfo := [GOV_CMD, GOV_CMD_STATUS, GOV_CMD_INDEX, GOV_CIR, GOV_PIR, GOV_CBS, GOV_PBS, GOV_FLAGS, GOV_TC, GOV_TP, GOV_ST_GREEN_FR, GOV_ST_GREEN_BY, GOV_ST_YEL_FR, GOV_ST_YEL_BY, GOV_ST_RED_FR, GOV_ST_RED_BY, GOV_ST_DROPS, GOV_CMD_DONE, GOV_CMD_REJECTS, GOV_CMD_IGNORED]

def TM_STATUS : RegInfo := ⟨406, 0x2200000, [], 0, .ro, 0xf1, 0x0⟩
def TM_EVENTS : RegInfo := ⟨407, 0x2200004, [], 0, .w1c, 0x7f, 0x0⟩
def TM_ECN_SEED : RegInfo := ⟨408, 0x2200008, [], 0, .rw, 0xffff, 0xace1⟩
def TM_REFILLS : RegInfo := ⟨409, 0x2200010, [], 0, .counter, 0xffffffff, 0x0⟩
def TM_CMD_CLASS_STARTS : RegInfo := ⟨410, 0x2200018, [], 0, .counter, 0xffffffff, 0x0⟩
def TM_PLAN_MEM_ERRS : RegInfo := ⟨411, 0x2200020, [], 0, .counter, 0xffffffff, 0x0⟩
/-- Block `tm` (R492). -/
def table_tm : List RegInfo := [TM_STATUS, TM_EVENTS, TM_ECN_SEED, TM_REFILLS, TM_CMD_CLASS_STARTS, TM_PLAN_MEM_ERRS]

def TMP_CTRL : RegInfo := ⟨412, 0x2220000, [(512, 256, 1)], 0, .rw, 0xffffffff, 0x0⟩
def TMP_STATUS : RegInfo := ⟨413, 0x2220004, [(512, 256, 1)], 0, .ro, 0x1ffff, 0x0⟩
def TMP_SHAPE_RATE : RegInfo := ⟨414, 0x2220008, [(512, 256, 1)], 0, .rw, 0xffffffff, 0x0⟩
def TMP_SHAPE_BURST : RegInfo := ⟨415, 0x222000c, [(512, 256, 1)], 0, .rw, 0xffffff, 0x4000⟩
def TMP_PFC_XOFF : RegInfo := ⟨416, 0x2220010, [(512, 256, 1)], 0, .rw, 0xfffffff, 0x2000⟩
def TMP_PFC_XON : RegInfo := ⟨417, 0x2220014, [(512, 256, 1)], 0, .rw, 0xfffffff, 0x1000⟩
def TMP_PFC_TIME : RegInfo := ⟨418, 0x2220018, [(512, 256, 1)], 0, .rw, 0xffffffff, 0x8000ffff⟩
def TMP_PFC_SA_LO : RegInfo := ⟨419, 0x222001c, [(512, 256, 1)], 0, .rw, 0xffffffff, 0x0⟩
def TMP_PFC_SA_HI : RegInfo := ⟨420, 0x2220020, [(512, 256, 1)], 0, .rw, 0xffff, 0x0⟩
def TMP_EVENTS : RegInfo := ⟨421, 0x2220024, [(512, 256, 1)], 0, .w1c, 0x7, 0x0⟩
def TMP_DEQ_FRAMES : RegInfo := ⟨422, 0x2220040, [(512, 256, 1)], 0, .counter, 0xffffffff, 0x0⟩
def TMP_DEQ_BYTES : RegInfo := ⟨423, 0x2220048, [(512, 256, 1)], 0, .counter, 0xffffffff, 0x0⟩
def TMP_PFC_RX_FRAMES : RegInfo := ⟨424, 0x2220050, [(512, 256, 1)], 0, .counter, 0xffffffff, 0x0⟩
def TMP_PFC_TX_FRAMES : RegInfo := ⟨425, 0x2220058, [(512, 256, 1)], 0, .counter, 0xffffffff, 0x0⟩
def TMP_PFC_ING : RegInfo := ⟨426, 0x2220060, [(512, 256, 8), (8, 4, 1)], 0, .ro, 0xfffffff, 0x0⟩
def TMP_PAUSED_NS : RegInfo := ⟨427, 0x2220080, [(512, 256, 8), (8, 8, 1)], 0, .counter, 0xffffffff, 0x0⟩
def TMP_PFC_RX_BAD : RegInfo := ⟨428, 0x22200c0, [(512, 256, 1)], 0, .counter, 0xffffffff, 0x0⟩
/-- Block `tmp` (R493). -/
def table_tmp : List RegInfo := [TMP_CTRL, TMP_STATUS, TMP_SHAPE_RATE, TMP_SHAPE_BURST, TMP_PFC_XOFF, TMP_PFC_XON, TMP_PFC_TIME, TMP_PFC_SA_LO, TMP_PFC_SA_HI, TMP_EVENTS, TMP_DEQ_FRAMES, TMP_DEQ_BYTES, TMP_PFC_RX_FRAMES, TMP_PFC_TX_FRAMES, TMP_PFC_ING, TMP_PAUSED_NS, TMP_PFC_RX_BAD]

def TMQ_LIMIT : RegInfo := ⟨429, 0x2300000, [(8192, 128, 1)], 0, .rw, 0xfffffff, 0xc0000⟩
def TMQ_CLR : RegInfo := ⟨430, 0x2300004, [(8192, 128, 1)], 0, .rw, 0xffff, 0x80c0⟩
def TMQ_ECN_MIN : RegInfo := ⟨431, 0x2300008, [(8192, 128, 1)], 0, .rw, 0xfffffff, 0xfffffff⟩
def TMQ_ECN_MAX : RegInfo := ⟨432, 0x230000c, [(8192, 128, 1)], 0, .rw, 0xfffffff, 0xfffffff⟩
def TMQ_ECN_CTRL : RegInfo := ⟨433, 0x2300010, [(8192, 128, 1)], 0, .rw, 0xff03, 0x2000⟩
def TMQ_SHAPE_RATE : RegInfo := ⟨434, 0x2300014, [(8192, 128, 1)], 0, .rw, 0xffffffff, 0x0⟩
def TMQ_SHAPE_BURST : RegInfo := ⟨435, 0x2300018, [(8192, 128, 1)], 0, .rw, 0xffffff, 0x4000⟩
def TMQ_DEPTH : RegInfo := ⟨436, 0x230001c, [(8192, 128, 1)], 0, .ro, 0xfffffff, 0x0⟩
def TMQ_STATUS : RegInfo := ⟨437, 0x2300020, [(8192, 128, 1)], 0, .ro, 0x1f, 0x0⟩
def TMQ_PEAK : RegInfo := ⟨438, 0x2300024, [(8192, 128, 1)], 0, .rc, 0xfffffff, 0x0⟩
def TMQ_ENQ_FRAMES : RegInfo := ⟨439, 0x2300040, [(8192, 128, 1)], 0, .counter, 0xffffffff, 0x0⟩
def TMQ_DEQ_FRAMES : RegInfo := ⟨440, 0x2300048, [(8192, 128, 1)], 0, .counter, 0xffffffff, 0x0⟩
def TMQ_DEQ_BYTES : RegInfo := ⟨441, 0x2300050, [(8192, 128, 1)], 0, .counter, 0xffffffff, 0x0⟩
def TMQ_DROP_LIMIT : RegInfo := ⟨442, 0x2300058, [(8192, 128, 1)], 0, .counter, 0xffffffff, 0x0⟩
def TMQ_ECN_MARKS : RegInfo := ⟨443, 0x2300060, [(8192, 128, 1)], 0, .counter, 0xffffffff, 0x0⟩
def TMQ_ECN_DROPS : RegInfo := ⟨444, 0x2300068, [(8192, 128, 1)], 0, .counter, 0xffffffff, 0x0⟩
def TMQ_OVERSIZE : RegInfo := ⟨445, 0x2300070, [(8192, 128, 1)], 0, .counter, 0xffffffff, 0x0⟩
/-- Block `tmq` (R494). -/
def table_tmq : List RegInfo := [TMQ_LIMIT, TMQ_CLR, TMQ_ECN_MIN, TMQ_ECN_MAX, TMQ_ECN_CTRL, TMQ_SHAPE_RATE, TMQ_SHAPE_BURST, TMQ_DEPTH, TMQ_STATUS, TMQ_PEAK, TMQ_ENQ_FRAMES, TMQ_DEQ_FRAMES, TMQ_DEQ_BYTES, TMQ_DROP_LIMIT, TMQ_ECN_MARKS, TMQ_ECN_DROPS, TMQ_OVERSIZE]

def SLU_CTRL : RegInfo := ⟨446, 0x2100000, [(512, 2048, 1)], 0, .rw, 0xff01, 0x200⟩
def SLU_STATUS : RegInfo := ⟨447, 0x2100004, [(512, 2048, 1)], 0, .ro, 0x7fff0003, 0x0⟩
def SLU_CMD : RegInfo := ⟨448, 0x2100008, [(512, 2048, 1)], 0, .wo, 0x3, 0x0⟩
def SLU_EVENTS : RegInfo := ⟨449, 0x210000c, [(512, 2048, 1)], 0, .w1c, 0xf, 0x0⟩
def SLU_ADMIN_BASE : RegInfo := ⟨450, 0x2100010, [(512, 2048, 1)], 0, .rw64, 0xffffffff, 0x0⟩
def SLU_ADMIN_CYCLE : RegInfo := ⟨451, 0x2100018, [(512, 2048, 1)], 0, .rw, 0xffffffff, 0x0⟩
def SLU_ADMIN_EXT : RegInfo := ⟨452, 0x210001c, [(512, 2048, 1)], 0, .rw, 0xffffffff, 0x0⟩
def SLU_ADMIN_LEN : RegInfo := ⟨453, 0x2100020, [(512, 2048, 1)], 0, .rw, 0x7f, 0x0⟩
def SLU_ADMIN_GATES : RegInfo := ⟨454, 0x2100024, [(512, 2048, 1)], 0, .rw, 0x7fff, 0x7fff⟩
def SLU_LEAD : RegInfo := ⟨455, 0x2100028, [(512, 2048, 1)], 0, .rw, 0xffff, 0xc8⟩
def SLU_OPER_BASE : RegInfo := ⟨456, 0x2100030, [(512, 2048, 1)], 0, .ro64, 0xffffffff, 0x0⟩
def SLU_OPER_CYCLE : RegInfo := ⟨457, 0x2100038, [(512, 2048, 1)], 0, .ro, 0xffffffff, 0x0⟩
def SLU_OPER_EXT : RegInfo := ⟨458, 0x210003c, [(512, 2048, 1)], 0, .ro, 0xffffffff, 0x0⟩
def SLU_OPER_LEN : RegInfo := ⟨459, 0x2100040, [(512, 2048, 1)], 0, .ro, 0x7f, 0x0⟩
def SLU_CHANGE_TIME : RegInfo := ⟨460, 0x2100048, [(512, 2048, 1)], 0, .ro64, 0xffffffff, 0x0⟩
def SLU_ADMIN_ENT_GATES : RegInfo := ⟨461, 0x2100100, [(512, 2048, 64), (64, 8, 1)], 0, .rw, 0x7fff, 0x0⟩
def SLU_ADMIN_ENT_INTERVAL : RegInfo := ⟨462, 0x2100104, [(512, 2048, 64), (64, 8, 1)], 0, .rw, 0xffffffff, 0x0⟩
def SLU_OPER_ENT_GATES : RegInfo := ⟨463, 0x2100400, [(512, 2048, 64), (64, 8, 1)], 0, .ro, 0x7fff, 0x0⟩
def SLU_OPER_ENT_INTERVAL : RegInfo := ⟨464, 0x2100404, [(512, 2048, 64), (64, 8, 1)], 0, .ro, 0xffffffff, 0x0⟩
def SLU_CHANGES : RegInfo := ⟨465, 0x2100600, [(512, 2048, 1)], 0, .counter, 0xffffffff, 0x0⟩
def SLU_GUARD_HOLDS : RegInfo := ⟨466, 0x2100608, [(512, 2048, 1)], 0, .counter, 0xffffffff, 0x0⟩
/-- Block `slu` (R495). -/
def table_slu : List RegInfo := [SLU_CTRL, SLU_STATUS, SLU_CMD, SLU_EVENTS, SLU_ADMIN_BASE, SLU_ADMIN_CYCLE, SLU_ADMIN_EXT, SLU_ADMIN_LEN, SLU_ADMIN_GATES, SLU_LEAD, SLU_OPER_BASE, SLU_OPER_CYCLE, SLU_OPER_EXT, SLU_OPER_LEN, SLU_CHANGE_TIME, SLU_ADMIN_ENT_GATES, SLU_ADMIN_ENT_INTERVAL, SLU_OPER_ENT_GATES, SLU_OPER_ENT_INTERVAL, SLU_CHANGES, SLU_GUARD_HOLDS]

def RING_BASE_LO : RegInfo := ⟨467, 0x10202000, [(4, 268435456, 1), (5, 64, 4)], 0, .rw, 0xfffff000, 0x0⟩
def RING_BASE_LO_PUNT : RegInfo := ⟨467, 0x10203000, [(4, 268435456, 1), (1, 64, 4)], 20, .rw, 0xfffff000, 0x0⟩
def RING_BASE_LO_INJ : RegInfo := ⟨467, 0x10203040, [(4, 268435456, 1), (4, 64, 4)], 24, .rw, 0xfffff000, 0x0⟩
def RING_BASE_LO_DMA : RegInfo := ⟨467, 0x10204000, [(4, 268435456, 1), (1, 64, 4)], 40, .rw, 0xfffff000, 0x0⟩
def RING_BASE_HI : RegInfo := ⟨468, 0x10202004, [(4, 268435456, 1), (5, 64, 4)], 0, .rw, 0xffffffff, 0x0⟩
def RING_BASE_HI_PUNT : RegInfo := ⟨468, 0x10203004, [(4, 268435456, 1), (1, 64, 4)], 20, .rw, 0xffffffff, 0x0⟩
def RING_BASE_HI_INJ : RegInfo := ⟨468, 0x10203044, [(4, 268435456, 1), (4, 64, 4)], 24, .rw, 0xffffffff, 0x0⟩
def RING_BASE_HI_DMA : RegInfo := ⟨468, 0x10204004, [(4, 268435456, 1), (1, 64, 4)], 40, .rw, 0xffffffff, 0x0⟩
def RING_CTRL : RegInfo := ⟨469, 0x10202008, [(4, 268435456, 1), (5, 64, 4)], 0, .rw, 0x1f011f, 0x0⟩
def RING_CTRL_PUNT : RegInfo := ⟨469, 0x10203008, [(4, 268435456, 1), (1, 64, 4)], 20, .rw, 0x1f011f, 0x0⟩
def RING_CTRL_INJ : RegInfo := ⟨469, 0x10203048, [(4, 268435456, 1), (4, 64, 4)], 24, .rw, 0x1f011f, 0x0⟩
def RING_CTRL_DMA : RegInfo := ⟨469, 0x10204008, [(4, 268435456, 1), (1, 64, 4)], 40, .rw, 0x1f011f, 0x0⟩
def RING_MOD : RegInfo := ⟨470, 0x1020200c, [(4, 268435456, 1), (5, 64, 4)], 0, .rw, 0xffffffff, 0x1⟩
def RING_MOD_PUNT : RegInfo := ⟨470, 0x1020300c, [(4, 268435456, 1), (1, 64, 4)], 20, .rw, 0xffffffff, 0x1⟩
def RING_MOD_INJ : RegInfo := ⟨470, 0x1020304c, [(4, 268435456, 1), (4, 64, 4)], 24, .rw, 0xffffffff, 0x1⟩
def RING_MOD_DMA : RegInfo := ⟨470, 0x1020400c, [(4, 268435456, 1), (1, 64, 4)], 40, .rw, 0xffffffff, 0x1⟩
def RING_PROD : RegInfo := ⟨471, 0x10202010, [(4, 268435456, 1), (5, 64, 4)], 0, .ro, 0xffffffff, 0x0⟩
def RING_PROD_PUNT : RegInfo := ⟨471, 0x10203010, [(4, 268435456, 1), (1, 64, 4)], 20, .ro, 0xffffffff, 0x0⟩
def RING_PROD_INJ : RegInfo := ⟨471, 0x10203050, [(4, 268435456, 1), (4, 64, 4)], 24, .rw, 0xffffffff, 0x0⟩
def RING_PROD_DMA : RegInfo := ⟨471, 0x10204010, [(4, 268435456, 1), (1, 64, 4)], 40, .rw, 0xffffffff, 0x0⟩
def RING_CONS : RegInfo := ⟨472, 0x10202014, [(4, 268435456, 1), (5, 64, 4)], 0, .rw, 0xffffffff, 0x0⟩
def RING_CONS_PUNT : RegInfo := ⟨472, 0x10203014, [(4, 268435456, 1), (1, 64, 4)], 20, .rw, 0xffffffff, 0x0⟩
def RING_CONS_INJ : RegInfo := ⟨472, 0x10203054, [(4, 268435456, 1), (4, 64, 4)], 24, .ro, 0xffffffff, 0x0⟩
def RING_CONS_DMA : RegInfo := ⟨472, 0x10204014, [(4, 268435456, 1), (1, 64, 4)], 40, .ro, 0xffffffff, 0x0⟩
def RING_WB_LO : RegInfo := ⟨473, 0x10202018, [(4, 268435456, 1), (5, 64, 4)], 0, .rw, 0xfffffff8, 0x0⟩
def RING_WB_LO_PUNT : RegInfo := ⟨473, 0x10203018, [(4, 268435456, 1), (1, 64, 4)], 20, .rw, 0xfffffff8, 0x0⟩
def RING_WB_LO_INJ : RegInfo := ⟨473, 0x10203058, [(4, 268435456, 1), (4, 64, 4)], 24, .rw, 0xfffffff8, 0x0⟩
def RING_WB_LO_DMA : RegInfo := ⟨473, 0x10204018, [(4, 268435456, 1), (1, 64, 4)], 40, .rw, 0xfffffff8, 0x0⟩
def RING_WB_HI : RegInfo := ⟨474, 0x1020201c, [(4, 268435456, 1), (5, 64, 4)], 0, .rw, 0xffffffff, 0x0⟩
def RING_WB_HI_PUNT : RegInfo := ⟨474, 0x1020301c, [(4, 268435456, 1), (1, 64, 4)], 20, .rw, 0xffffffff, 0x0⟩
def RING_WB_HI_INJ : RegInfo := ⟨474, 0x1020305c, [(4, 268435456, 1), (4, 64, 4)], 24, .rw, 0xffffffff, 0x0⟩
def RING_WB_HI_DMA : RegInfo := ⟨474, 0x1020401c, [(4, 268435456, 1), (1, 64, 4)], 40, .rw, 0xffffffff, 0x0⟩
def RING_STATUS : RegInfo := ⟨475, 0x10202020, [(4, 268435456, 1), (5, 64, 4)], 0, .ro, 0x7, 0x0⟩
def RING_STATUS_PUNT : RegInfo := ⟨475, 0x10203020, [(4, 268435456, 1), (1, 64, 4)], 20, .ro, 0x7, 0x0⟩
def RING_STATUS_INJ : RegInfo := ⟨475, 0x10203060, [(4, 268435456, 1), (4, 64, 4)], 24, .ro, 0x7, 0x0⟩
def RING_STATUS_DMA : RegInfo := ⟨475, 0x10204020, [(4, 268435456, 1), (1, 64, 4)], 40, .ro, 0x7, 0x0⟩
def RING_LOST : RegInfo := ⟨476, 0x10202028, [(4, 268435456, 1), (5, 64, 4)], 0, .counter, 0xffffffff, 0x0⟩
def RING_LOST_PUNT : RegInfo := ⟨476, 0x10203028, [(4, 268435456, 1), (1, 64, 4)], 20, .counter, 0xffffffff, 0x0⟩
def RING_LOST_INJ : RegInfo := ⟨476, 0x10203068, [(4, 268435456, 1), (4, 64, 4)], 24, .counter, 0xffffffff, 0x0⟩
def RING_LOST_DMA : RegInfo := ⟨476, 0x10204028, [(4, 268435456, 1), (1, 64, 4)], 40, .counter, 0xffffffff, 0x0⟩
def RING_DONE : RegInfo := ⟨477, 0x10202030, [(4, 268435456, 1), (5, 64, 4)], 0, .counter, 0xffffffff, 0x0⟩
def RING_DONE_PUNT : RegInfo := ⟨477, 0x10203030, [(4, 268435456, 1), (1, 64, 4)], 20, .counter, 0xffffffff, 0x0⟩
def RING_DONE_INJ : RegInfo := ⟨477, 0x10203070, [(4, 268435456, 1), (4, 64, 4)], 24, .counter, 0xffffffff, 0x0⟩
def RING_DONE_DMA : RegInfo := ⟨477, 0x10204030, [(4, 268435456, 1), (1, 64, 4)], 40, .counter, 0xffffffff, 0x0⟩
/-- Block `ring` (R516). -/
def table_ring : List RegInfo := [RING_BASE_LO, RING_BASE_LO_PUNT, RING_BASE_LO_INJ, RING_BASE_LO_DMA, RING_BASE_HI, RING_BASE_HI_PUNT, RING_BASE_HI_INJ, RING_BASE_HI_DMA, RING_CTRL, RING_CTRL_PUNT, RING_CTRL_INJ, RING_CTRL_DMA, RING_MOD, RING_MOD_PUNT, RING_MOD_INJ, RING_MOD_DMA, RING_PROD, RING_PROD_PUNT, RING_PROD_INJ, RING_PROD_DMA, RING_CONS, RING_CONS_PUNT, RING_CONS_INJ, RING_CONS_DMA, RING_WB_LO, RING_WB_LO_PUNT, RING_WB_LO_INJ, RING_WB_LO_DMA, RING_WB_HI, RING_WB_HI_PUNT, RING_WB_HI_INJ, RING_WB_HI_DMA, RING_STATUS, RING_STATUS_PUNT, RING_STATUS_INJ, RING_STATUS_DMA, RING_LOST, RING_LOST_PUNT, RING_LOST_INJ, RING_LOST_DMA, RING_DONE, RING_DONE_PUNT, RING_DONE_INJ, RING_DONE_DMA]

def HPL_INFO : RegInfo := ⟨478, 0x10200000, [(4, 268435456, 1)], 0, .ro, 0x10ff3, 0x0⟩
def HPL_EVENTS : RegInfo := ⟨479, 0x10200004, [(4, 268435456, 1)], 0, .w1c, 0x3f, 0x0⟩
def HPL_FLAG_EN_LO : RegInfo := ⟨480, 0x10200008, [(4, 268435456, 1)], 0, .rw, 0xffffffff, 0x0⟩
def HPL_FLAG_EN_HI : RegInfo := ⟨481, 0x1020000c, [(4, 268435456, 1)], 0, .rw, 0xffffffff, 0x0⟩
def HPL_CMP_ADDR : RegInfo := ⟨482, 0x10200010, [(4, 268435456, 1)], 0, .rw, 0xffffffc, 0x0⟩
def HPL_CMP_BIT : RegInfo := ⟨483, 0x10200014, [(4, 268435456, 1)], 0, .rw, 0x1f, 0x0⟩
def HPL_CMP_COUNT : RegInfo := ⟨484, 0x10200018, [(4, 268435456, 1)], 0, .ro, 0xffffffff, 0x0⟩
def HPL_PUNT_CTRL : RegInfo := ⟨485, 0x1020001c, [(4, 268435456, 1)], 0, .rw, 0xffffff0f, 0x40000e⟩
def HPL_BAD_ACCESSES : RegInfo := ⟨486, 0x10200040, [(4, 268435456, 1)], 0, .counter, 0xffffffff, 0x0⟩
def HPL_W1C_COLLISIONS : RegInfo := ⟨487, 0x10200048, [(4, 268435456, 1)], 0, .counter, 0xffffffff, 0x0⟩
def HPL_PUNT_FRAMES : RegInfo := ⟨488, 0x10200050, [(4, 268435456, 1)], 0, .counter, 0xffffffff, 0x0⟩
def HPL_PUNT_DROPS : RegInfo := ⟨489, 0x10200058, [(4, 268435456, 1)], 0, .counter, 0xffffffff, 0x0⟩
def HPL_INJ_FRAMES : RegInfo := ⟨490, 0x10200060, [(4, 268435456, 1)], 0, .counter, 0xffffffff, 0x0⟩
def HPL_INJ_BAD : RegInfo := ⟨491, 0x10200068, [(4, 268435456, 1)], 0, .counter, 0xffffffff, 0x0⟩
def HPL_INJ_ABANDONED : RegInfo := ⟨492, 0x10200070, [(4, 268435456, 1)], 0, .counter, 0xffffffff, 0x0⟩
def HPL_LEASE_CMD : RegInfo := ⟨493, 0x10201000, [(4, 268435456, 1)], 0, .wo, 0xffff033f, 0x0⟩
def HPL_LEASE_RESULT : RegInfo := ⟨494, 0x10201004, [(4, 268435456, 1)], 0, .ro, 0xffff007f, 0x0⟩
def HPL_LEASE_STATE : RegInfo := ⟨495, 0x10201100, [(4, 268435456, 64), (64, 4, 1)], 0, .ro, 0xbfffffff, 0x0⟩
def HPL_AML_KEY : RegInfo := ⟨496, 0x10205000, [(4, 268435456, 8), (8, 4, 1)], 0, .wo, 0xffffffff, 0x0⟩
def HPL_AML_KEY_CTRL : RegInfo := ⟨497, 0x10205020, [(4, 268435456, 1)], 0, .wo, 0x3, 0x0⟩
def HPL_AML_OOB_CMD : RegInfo := ⟨498, 0x10205024, [(4, 268435456, 1)], 0, .wo, 0x1, 0x0⟩
def HPL_AML_OOB_STATUS : RegInfo := ⟨499, 0x10205028, [(4, 268435456, 1)], 0, .ro, 0x8000ffff, 0x0⟩
def HPL_AML_REQ : RegInfo := ⟨500, 0x10205400, [(4, 268435456, 256), (256, 4, 1)], 0, .rw, 0xffffffff, 0x0⟩
def HPL_AML_RSP : RegInfo := ⟨501, 0x10205800, [(4, 268435456, 512), (512, 4, 1)], 0, .ro, 0xffffffff, 0x0⟩
def MSIX_TABLE : RegInfo := ⟨502, 0x10208000, [(4, 268435456, 128), (128, 4, 1)], 0, .rw, 0xffffffff, 0x0⟩
def MSIX_PBA : RegInfo := ⟨503, 0x10209000, [(4, 268435456, 2), (2, 4, 1)], 0, .ro, 0xffffffff, 0x0⟩
/-- Block `hpl` (R532). -/
def table_hpl : List RegInfo := [HPL_INFO, HPL_EVENTS, HPL_FLAG_EN_LO, HPL_FLAG_EN_HI, HPL_CMP_ADDR, HPL_CMP_BIT, HPL_CMP_COUNT, HPL_PUNT_CTRL, HPL_BAD_ACCESSES, HPL_W1C_COLLISIONS, HPL_PUNT_FRAMES, HPL_PUNT_DROPS, HPL_INJ_FRAMES, HPL_INJ_BAD, HPL_INJ_ABANDONED, HPL_LEASE_CMD, HPL_LEASE_RESULT, HPL_LEASE_STATE, HPL_AML_KEY, HPL_AML_KEY_CTRL, HPL_AML_OOB_CMD, HPL_AML_OOB_STATUS, HPL_AML_REQ, HPL_AML_RSP, MSIX_TABLE, MSIX_PBA]

def AML_CTRL : RegInfo := ⟨504, 0x3000, [], 0, .rw, 0xffff0001, 0x640000⟩
def AML_STATUS : RegInfo := ⟨505, 0x3004, [], 0, .ro, 0x11f, 0x0⟩
def AML_EVENTS : RegInfo := ⟨506, 0x3008, [], 0, .w1c, 0x7, 0x0⟩
def AML_SEQ : RegInfo := ⟨507, 0x3010, [(4, 8, 1)], 0, .ro64, 0xffffffff, 0x0⟩
def AML_ACCEPTED : RegInfo := ⟨508, 0x3030, [], 0, .counter, 0xffffffff, 0x0⟩
def AML_ENTRIES : RegInfo := ⟨509, 0x3038, [], 0, .counter, 0xffffffff, 0x0⟩
def AML_REJ_FORMAT : RegInfo := ⟨510, 0x3040, [], 0, .counter, 0xffffffff, 0x0⟩
def AML_REJ_KEY : RegInfo := ⟨511, 0x3048, [], 0, .counter, 0xffffffff, 0x0⟩
def AML_REJ_MAC : RegInfo := ⟨512, 0x3050, [], 0, .counter, 0xffffffff, 0x0⟩
def AML_REJ_REPLAY : RegInfo := ⟨513, 0x3058, [], 0, .counter, 0xffffffff, 0x0⟩
def AML_QFULL : RegInfo := ⟨514, 0x3060, [], 0, .counter, 0xffffffff, 0x0⟩
def AML_OOB : RegInfo := ⟨515, 0x3068, [], 0, .counter, 0xffffffff, 0x0⟩
/-- Block `aml` (R533). -/
def table_aml : List RegInfo := [AML_CTRL, AML_STATUS, AML_EVENTS, AML_SEQ, AML_ACCEPTED, AML_ENTRIES, AML_REJ_FORMAT, AML_REJ_KEY, AML_REJ_MAC, AML_REJ_REPLAY, AML_QFULL, AML_OOB]

def RST_CMD : RegInfo := ⟨516, 0x9000, [], 0, .wo, 0xffff0003, 0x0⟩
def RST_CAUSE : RegInfo := ⟨517, 0x9004, [], 0, .ro, 0x70f, 0x0⟩
def RST_WARM_COUNT : RegInfo := ⟨518, 0x9008, [], 0, .counter, 0xffffffff, 0x0⟩
def RST_COLD_COUNT : RegInfo := ⟨519, 0x9010, [], 0, .counter, 0xffffffff, 0x0⟩
/-- Block `rst` (R566). -/
def table_rst : List RegInfo := [RST_CMD, RST_CAUSE, RST_WARM_COUNT, RST_COLD_COUNT]

def FAN_STATUS : RegInfo := ⟨520, 0x100000, [], 0, .ro, 0xf07, 0x0⟩
def FAN_EVENTS : RegInfo := ⟨521, 0x100004, [], 0, .w1c, 0xf, 0x0⟩
def FAN_CMD : RegInfo := ⟨522, 0x100008, [], 0, .wo, 0xffff0003, 0x0⟩
def FAN_SLEEP_EN : RegInfo := ⟨523, 0x10000c, [], 0, .rw, 0x1ff, 0x1ff⟩
def FAN_HOLD : RegInfo := ⟨524, 0x100010, [], 0, .rw, 0x1ff, 0x0⟩
def FAN_IDLE : RegInfo := ⟨525, 0x100014, [], 0, .rw, 0xffffffff, 0x640032⟩
def FAN_DOM_RUN : RegInfo := ⟨526, 0x100018, [], 0, .ro, 0x0, 0x0⟩
def FAN_SLICE_STATE : RegInfo := ⟨527, 0x10001c, [], 0, .ro, 0x10000, 0x0⟩
def FAN_INPUT : RegInfo := ⟨528, 0x100020, [], 0, .ro, 0xffffffff, 0x0⟩
def FAN_THERM : RegInfo := ⟨529, 0x100024, [], 0, .rw, 0xff, 0x69⟩
def FAN_TEMP : RegInfo := ⟨530, 0x100040, [(9, 4, 1)], 0, .ro, 0x0, 0x0⟩
def FAN_WAKES : RegInfo := ⟨531, 0x100100, [(8, 32, 1)], 0, .counter, 0xffffffff, 0x0⟩
def FAN_SLEEPS : RegInfo := ⟨532, 0x100108, [(8, 32, 1)], 0, .counter, 0xffffffff, 0x0⟩
def FAN_ASLEEP_US : RegInfo := ⟨533, 0x100110, [(8, 32, 1)], 0, .counter, 0xffffffff, 0x0⟩
def FAN_FABRIC_WAKES : RegInfo := ⟨534, 0x100200, [], 0, .counter, 0xffffffff, 0x0⟩
/-- Block `fan` (R568). -/
def table_fan : List RegInfo := [FAN_STATUS, FAN_EVENTS, FAN_CMD, FAN_SLEEP_EN, FAN_HOLD, FAN_IDLE, FAN_DOM_RUN, FAN_SLICE_STATE, FAN_INPUT, FAN_THERM, FAN_TEMP, FAN_WAKES, FAN_SLEEPS, FAN_ASLEEP_US, FAN_FABRIC_WAKES]

def TIME_CTRL : RegInfo := ⟨535, 0x180000, [], 0, .rw, 0x7, 0x0⟩
def TIME_STATUS : RegInfo := ⟨536, 0x180004, [], 0, .ro, 0x3, 0x0⟩
def TIME_EVENTS : RegInfo := ⟨537, 0x180008, [], 0, .w1c, 0x7, 0x0⟩
def TIME_CMD : RegInfo := ⟨538, 0x18000c, [], 0, .wo, 0x3, 0x0⟩
def TIME_NOW_NS : RegInfo := ⟨539, 0x180010, [], 0, .ro, 0xffffffff, 0x0⟩
def TIME_NOW_SL : RegInfo := ⟨540, 0x180014, [], 0, .ro, 0xffffffff, 0x0⟩
def TIME_NOW_SH : RegInfo := ⟨541, 0x180018, [], 0, .ro, 0xffffffff, 0x0⟩
def TIME_NS64 : RegInfo := ⟨542, 0x180020, [], 0, .ro64, 0xffffffff, 0x0⟩
def TIME_SET_NS : RegInfo := ⟨543, 0x180028, [], 0, .rw, 0xffffffff, 0x0⟩
def TIME_SET_SL : RegInfo := ⟨544, 0x18002c, [], 0, .rw, 0xffffffff, 0x0⟩
def TIME_SET_SH : RegInfo := ⟨545, 0x180030, [], 0, .rw, 0xffff, 0x0⟩
def TIME_STEP_NS : RegInfo := ⟨546, 0x180034, [], 0, .rw, 0xffffffff, 0x0⟩
def TIME_RATE : RegInfo := ⟨547, 0x180038, [], 0, .rw, 0xffffffff, 0x0⟩
def TIME_PPS_OUT : RegInfo := ⟨548, 0x18003c, [], 0, .rw, 0x3fffffff, 0x0⟩
def TIME_PPS_WIDTH : RegInfo := ⟨549, 0x180040, [], 0, .rw, 0x3ff, 0x64⟩
def TIME_PPS_IN_NS : RegInfo := ⟨550, 0x180044, [], 0, .ro, 0xffffffff, 0x0⟩
def TIME_PPS_IN_SL : RegInfo := ⟨551, 0x180048, [], 0, .ro, 0xffffffff, 0x0⟩
def TIME_PPS_IN_SH : RegInfo := ⟨552, 0x18004c, [], 0, .ro, 0xffff, 0x0⟩
/-- Block `time` (R569). -/
def table_time : List RegInfo := [TIME_CTRL, TIME_STATUS, TIME_EVENTS, TIME_CMD, TIME_NOW_NS, TIME_NOW_SL, TIME_NOW_SH, TIME_NS64, TIME_SET_NS, TIME_SET_SL, TIME_SET_SH, TIME_STEP_NS, TIME_RATE, TIME_PPS_OUT, TIME_PPS_WIDTH, TIME_PPS_IN_NS, TIME_PPS_IN_SL, TIME_PPS_IN_SH]

def AON_CTRL : RegInfo := ⟨553, 0x1c0000, [], 0, .rw, 0x1, 0x1⟩
def AON_I3C_STATUS : RegInfo := ⟨554, 0x1c0004, [], 0, .ro, 0xff, 0x0⟩
def AON_I3C_IBI_EN : RegInfo := ⟨555, 0x1c0008, [], 0, .rw, 0xf, 0x0⟩
def AON_JTAG_STATUS : RegInfo := ⟨556, 0x1c000c, [], 0, .ro, 0x1, 0x0⟩
def AON_I3C_BAD : RegInfo := ⟨557, 0x1c0010, [], 0, .counter, 0xffffffff, 0x0⟩
def AON_I3C_COLLISIONS : RegInfo := ⟨558, 0x1c0018, [], 0, .counter, 0xffffffff, 0x0⟩
/-- Block `aon` (R570). -/
def table_aon : List RegInfo := [AON_CTRL, AON_I3C_STATUS, AON_I3C_IBI_EN, AON_JTAG_STATUS, AON_I3C_BAD, AON_I3C_COLLISIONS]

def STAT_CTRL : RegInfo := ⟨559, 0x10000, [], 0, .rw, 0x1, 0x0⟩
def STAT_PERIOD_MS : RegInfo := ⟨560, 0x10004, [], 0, .rw, 0xffff, 0x3e8⟩
def STAT_GROUPS_LO : RegInfo := ⟨561, 0x10008, [], 0, .rw, 0xfffffffc, 0xfffffffc⟩
def STAT_GROUPS_HI : RegInfo := ⟨562, 0x1000c, [], 0, .rw, 0x1, 0x1⟩
def STAT_ALIGN : RegInfo := ⟨563, 0x10010, [], 0, .rw64, 0xffffffff, 0x0⟩
def STAT_STATUS : RegInfo := ⟨564, 0x10018, [], 0, .ro, 0x3, 0x0⟩
def STAT_EVENTS : RegInfo := ⟨565, 0x1001c, [], 0, .w1c, 0x1, 0x0⟩
def STAT_LAST_TIME : RegInfo := ⟨566, 0x10020, [], 0, .ro64, 0xffffffff, 0x0⟩
def STAT_NEXT_TIME : RegInfo := ⟨567, 0x10028, [], 0, .ro64, 0xffffffff, 0x0⟩
def STAT_SEQ : RegInfo := ⟨568, 0x10030, [], 0, .counter, 0xffffffff, 0x0⟩
def STAT_VIEW : RegInfo := ⟨569, 0x10040, [(4, 4, 1)], 0, .rw, 0x1, 0x0⟩
/-- Block `stat` (R600). -/
def table_stat : List RegInfo := [STAT_CTRL, STAT_PERIOD_MS, STAT_GROUPS_LO, STAT_GROUPS_HI, STAT_ALIGN, STAT_STATUS, STAT_EVENTS, STAT_LAST_TIME, STAT_NEXT_TIME, STAT_SEQ, STAT_VIEW]

def ERR_CTRL : RegInfo := ⟨570, 0x11000, [], 0, .rw, 0x10fff, 0x10318⟩
def ERR_EVENTS : RegInfo := ⟨571, 0x11004, [], 0, .w1c, 0x7f, 0x0⟩
def ERR_TRACK_USED : RegInfo := ⟨572, 0x11008, [], 0, .ro, 0x1fff, 0x0⟩
def ERR_LAST0 : RegInfo := ⟨573, 0x11010, [], 0, .ro, 0x60ffffff, 0x0⟩
def ERR_LAST1 : RegInfo := ⟨574, 0x11014, [], 0, .ro, 0xffffffff, 0x0⟩
def ERR_LAST2 : RegInfo := ⟨575, 0x11018, [], 0, .ro, 0xf, 0x0⟩
def ERR_LAST3 : RegInfo := ⟨576, 0x1101c, [], 0, .ro, 0xffffffff, 0x0⟩
def ERR_LOG_W0 : RegInfo := ⟨577, 0x11020, [], 0, .rc, 0x78ffffff, 0x0⟩
def ERR_LOG_W1 : RegInfo := ⟨578, 0x11024, [], 0, .ro, 0xffffffff, 0x0⟩
def ERR_LOG_W2 : RegInfo := ⟨579, 0x11028, [], 0, .ro, 0xffffffff, 0x0⟩
def ERR_INJ_SEL : RegInfo := ⟨580, 0x11030, [], 0, .rw, 0xffffff, 0x0⟩
def ERR_INJ_SYM : RegInfo := ⟨581, 0x11034, [], 0, .rw, 0xbfbf, 0x0⟩
def ERR_INJ_CMD : RegInfo := ⟨582, 0x11038, [], 0, .wo, 0x3, 0x0⟩
def ERR_INJ_STATUS : RegInfo := ⟨583, 0x1103c, [], 0, .ro, 0x1, 0x0⟩
def ERR_TRACK_EVICTS : RegInfo := ⟨584, 0x11040, [], 0, .counter, 0xffffffff, 0x0⟩
def ERR_LOG_LOST : RegInfo := ⟨585, 0x11048, [], 0, .counter, 0xffffffff, 0x0⟩
def ERR_SPARE_SEL : RegInfo := ⟨586, 0x11050, [], 0, .rw, 0xffffff, 0x0⟩
def ERR_SPARE_LOC : RegInfo := ⟨587, 0x11054, [], 0, .rw, 0xffffffff, 0x0⟩
def ERR_SPARE_CMD : RegInfo := ⟨588, 0x11058, [], 0, .wo, 0x1, 0x0⟩
def ERR_SPARE_STATUS : RegInfo := ⟨589, 0x1105c, [], 0, .ro, 0xf, 0x0⟩
def ERR_CE : RegInfo := ⟨590, 0x11140, [(20, 64, 1)], 1, .counter, 0xffffffff, 0x0⟩
def ERR_UE : RegInfo := ⟨591, 0x11148, [(20, 64, 1)], 1, .counter, 0xffffffff, 0x0⟩
def ERR_LASTING : RegInfo := ⟨592, 0x11150, [(20, 64, 1)], 1, .counter, 0xffffffff, 0x0⟩
def ERR_SPARED : RegInfo := ⟨593, 0x11158, [(20, 64, 1)], 1, .counter, 0xffffffff, 0x0⟩
def ERR_RETIRED : RegInfo := ⟨594, 0x11160, [(20, 64, 1)], 1, .counter, 0xffffffff, 0x0⟩
def ERR_NOSPARE : RegInfo := ⟨595, 0x11168, [(20, 64, 1)], 1, .counter, 0xffffffff, 0x0⟩
/-- Block `err` (R601). -/
def table_err : List RegInfo := [ERR_CTRL, ERR_EVENTS, ERR_TRACK_USED, ERR_LAST0, ERR_LAST1, ERR_LAST2, ERR_LAST3, ERR_LOG_W0, ERR_LOG_W1, ERR_LOG_W2, ERR_INJ_SEL, ERR_INJ_SYM, ERR_INJ_CMD, ERR_INJ_STATUS, ERR_TRACK_EVICTS, ERR_LOG_LOST, ERR_SPARE_SEL, ERR_SPARE_LOC, ERR_SPARE_CMD, ERR_SPARE_STATUS, ERR_CE, ERR_UE, ERR_LASTING, ERR_SPARED, ERR_RETIRED, ERR_NOSPARE]

def PERF_CMD : RegInfo := ⟨596, 0x14000, [], 0, .wo, 0x103, 0x0⟩
def PERF_STATUS : RegInfo := ⟨597, 0x14004, [], 0, .ro, 0xffff000f, 0x0⟩
def PERF_EVENTS : RegInfo := ⟨598, 0x14008, [], 0, .w1c, 0x3, 0x0⟩
def PERF_SCHED_TIME : RegInfo := ⟨599, 0x14010, [], 0, .rw64, 0xffffffff, 0x0⟩
def PERF_SNAP_TIME : RegInfo := ⟨600, 0x14018, [], 0, .ro64, 0xffffffff, 0x0⟩
/-- Block `perf` (R603). -/
def table_perf : List RegInfo := [PERF_CMD, PERF_STATUS, PERF_EVENTS, PERF_SCHED_TIME, PERF_SNAP_TIME]

def PMC_SEL : RegInfo := ⟨601, 0x1040000, [(8, 1048576, 32), (32, 32, 1)], 0, .rw, 0x803fffff, 0x0⟩
def FAB_PMC_SEL : RegInfo := ⟨602, 0x15000, [(32, 32, 1)], 0, .rw, 0x803fffff, 0x0⟩
def PMC : RegInfo := ⟨603, 0x1040008, [(8, 1048576, 32), (32, 32, 1)], 0, .rw64, 0xffffffff, 0x0⟩
def FAB_PMC : RegInfo := ⟨604, 0x15008, [(32, 32, 1)], 0, .rw64, 0xffffffff, 0x0⟩
def PMC_PERIOD : RegInfo := ⟨605, 0x1040010, [(8, 1048576, 32), (32, 32, 1)], 0, .rw64, 0xffffffff, 0x0⟩
def FAB_PMC_PERIOD : RegInfo := ⟨606, 0x15010, [(32, 32, 1)], 0, .rw64, 0xffffffff, 0x0⟩
def PMC_SNAP : RegInfo := ⟨607, 0x1040018, [(8, 1048576, 32), (32, 32, 1)], 0, .ro64, 0xffffffff, 0x0⟩
def FAB_PMC_SNAP : RegInfo := ⟨608, 0x15018, [(32, 32, 1)], 0, .ro64, 0xffffffff, 0x0⟩
/-- Block `pmc` (R604). -/
def table_pmc : List RegInfo := [PMC_SEL, FAB_PMC_SEL, PMC, FAB_PMC, PMC_PERIOD, FAB_PMC_PERIOD, PMC_SNAP, FAB_PMC_SNAP]

def PMS_W0 : RegInfo := ⟨609, 0x1041000, [(8, 1048576, 1)], 0, .rc, 0x9fff0fff, 0x0⟩
def PMS_W1 : RegInfo := ⟨610, 0x1041004, [(8, 1048576, 1)], 0, .ro, 0x1fffff, 0x0⟩
def PMS_W2 : RegInfo := ⟨611, 0x1041008, [(8, 1048576, 1)], 0, .ro, 0xffffffff, 0x0⟩
def PMS_W3 : RegInfo := ⟨612, 0x104100c, [(8, 1048576, 1)], 0, .ro, 0xffffffff, 0x0⟩
def PMS_LOST : RegInfo := ⟨613, 0x1041010, [(8, 1048576, 1)], 0, .counter, 0xffffffff, 0x0⟩
def PMS_STATUS : RegInfo := ⟨614, 0x1041018, [(8, 1048576, 1)], 0, .ro, 0x1ff, 0x0⟩
/-- Block `pms`. -/
def table_pms : List RegInfo := [PMS_W0, PMS_W1, PMS_W2, PMS_W3, PMS_LOST, PMS_STATUS]

def DEV_ID : RegInfo := ⟨615, 0x0, [], 0, .ro, 0x0, 0x51001024⟩
def DEV_REV : RegInfo := ⟨616, 0x4, [], 0, .ro, 0x0, 0x1⟩
def DEV_VARIANT : RegInfo := ⟨617, 0x8, [], 0, .ro, 0x0, 0x0⟩
/-- Block `dev`. -/
def table_dev : List RegInfo := [DEV_ID, DEV_REV, DEV_VARIANT]

def RPL_INVALID_MEMBERS : RegInfo := ⟨618, 0x8021000, [], 0, .counter, 0x0, 0x0⟩
/-- Block `rplGlobal`. -/
def table_rplGlobal : List RegInfo := [RPL_INVALID_MEMBERS]

def FUSE_LOG_WORD : RegInfo := ⟨619, 0x8000, [(1024, 4, 1)], 0, .ro, 0x0, 0x0⟩
/-- Block `log`. -/
def table_log : List RegInfo := [FUSE_LOG_WORD]
end R

/-- Every register of the device. -/
def regTable : List RegInfo :=
  R.table_isa ++ R.table_img ++ R.table_ver ++ R.table_fuse ++ R.table_oe ++ R.table_pp ++ R.table_lp ++ R.table_hop ++ R.table_par ++ R.table_bltSet ++ R.table_blt ++ R.table_tblSet ++ R.table_tbl ++ R.table_stg ++ R.table_stgSet ++ R.table_rplSet ++ R.table_pchSet ++ R.table_ae ++ R.table_aeEng ++ R.table_aeThr ++ R.table_aeChan ++ R.table_aeDbg ++ R.table_mrc ++ R.table_mrs ++ R.table_bpm ++ R.table_bpmPool ++ R.table_bpmPoolCtr ++ R.table_bpmSet ++ R.table_hbm ++ R.table_spill ++ R.table_spillSlice ++ R.table_govSet ++ R.table_tm ++ R.table_tmp ++ R.table_tmq ++ R.table_slu ++ R.table_ring ++ R.table_hpl ++ R.table_aml ++ R.table_rst ++ R.table_fan ++ R.table_time ++ R.table_aon ++ R.table_stat ++ R.table_err ++ R.table_perf ++ R.table_pmc ++ R.table_pms ++ R.table_dev ++ R.table_rplGlobal ++ R.table_log

/-- Width in bytes that a register occupies. -/
def RegInfo.bytes (r : RegInfo) : Nat :=
  match r.kind with
  | .counter | .ro64 | .rw64 => 8
  | _ => 4

/-- BAR0 offset of element `i`. -/
def RegInfo.addr (r : RegInfo) (i : Nat) : Nat :=
  r.dims.foldl (fun a d => a + ((i - r.ioff) / d.2.2 % d.1) * d.2.1) r.base

/-- The flat index of the element of `r` that holds offset `a`, and the byte within it. -/
def RegInfo.locate (r : RegInfo) (a : Nat) : Option (Nat × Nat) :=
  if a < r.base then none else
  let go := r.dims.foldl (fun (acc : Nat × Nat × Bool) d =>
    let q := acc.1 / d.2.1
    (acc.1 - q * d.2.1, acc.2.1 + q * d.2.2, acc.2.2 && decide (q < d.1))) (a - r.base, r.ioff, true)
  if go.2.2 && decide (go.1 < r.bytes) then some (go.2.1, go.1) else none

/-- The register that holds an offset, searched in map order. -/
def resolveIn : List RegInfo → Nat → Option (RegInfo × Nat × Nat)
  | [], _ => none
  | r :: rs, a =>
    match r.locate a with
    | some (i, o) => some (r, i, o)
    | none => resolveIn rs a

/-- The register, flat index and byte offset that a device address names; none is an unassigned offset (R7). -/
def resolve (a : Nat) : Option (RegInfo × Nat × Nat) := resolveIn regTable a

end Sys2Proof.Machine
end

