-- ==== Sys2Proof/Machine/Store.lean ====
section
/-! DEFINITION. The operations on sparse state: one read, one write, which keeps the canonical form. -/
namespace Sys2Proof.Machine

/-- The value at key `k`; `d` where nothing is listed. -/
def SMap.get {α : Type} (d : α) : SMap α → Nat → α
  | [], _ => d
  | (j, a) :: m, k => if j = k then a else SMap.get d m k

/-- The list without any entry of key `k`. -/
def SMap.erase {α : Type} : SMap α → Nat → SMap α
  | [], _ => []
  | (j, a) :: m, k => if j = k then SMap.erase m k else (j, a) :: SMap.erase m k

/-- The list with `a` at key `k`, keys rising. -/
def SMap.put {α : Type} : SMap α → Nat → α → SMap α
  | [], k, a => [(k, a)]
  | (j, b) :: m, k, a => if k < j then (k, a) :: (j, b) :: m else if j = k then (k, a) :: m else (j, b) :: SMap.put m k a

/-- Write `a` at key `k`; writing what an unlisted key reads as removes the entry. -/
def SMap.set {α : Type} [DecidableEq α] (d : α) (m : SMap α) (k : Nat) (a : α) : SMap α :=
  if a = d then SMap.erase m k else SMap.put m k a

/-- Change the value at key `k`. -/
def SMap.modify {α : Type} [DecidableEq α] (d : α) (m : SMap α) (k : Nat) (f : α → α) : SMap α :=
  SMap.set d m k (f (SMap.get d m k))

/-- Keep the entries that meet `p`. -/
def SMap.keep {α : Type} (p : Nat → α → Bool) (m : SMap α) : SMap α := m.filter (fun e => p e.1 e.2)

/-- Change every listed value; what becomes the unlisted value leaves the list. -/
def SMap.mapV {α : Type} [DecidableEq α] (d : α) (f : Nat → α → α) (m : SMap α) : SMap α :=
  (m.map (fun e => (e.1, f e.1 e.2))).filter (fun e => decide (e.2 ≠ d))

/-- Strictly rising keys, each above `lo`, and no entry equal to `d`. -/
def SMap.wfFrom {α : Type} [DecidableEq α] (d : α) : Nat → SMap α → Bool
  | _, [] => true
  | lo, (k, a) :: m => decide (lo ≤ k) && decide (a ≠ d) && SMap.wfFrom d (k + 1) m

/-- The canonical form of sparse state whose unlisted keys read as `d`. -/
def SMap.wf {α : Type} [DecidableEq α] (d : α) (m : SMap α) : Bool := SMap.wfFrom d 0 m

/-- Byte memory, in the host's cells: an unlisted address reads 0 (each memory's log entry says why). -/
def memGet (m : List Host.Cell) (a : Nat) : BitVec 8 := SMap.get 0 m a

/-- Write one byte of memory. -/
def memSet (m : List Host.Cell) (a : Nat) (b : BitVec 8) : List Host.Cell := SMap.set 0 m a b

/-- A byte memory in canonical form: addresses strictly rising, no entry that reads as an unlisted address does. -/
abbrev Memory.wf (m : List Host.Cell) : Bool := SMap.wf (0 : BitVec 8) m

/-- Read `len` bytes from `a` upward. -/
def memRead (m : List Host.Cell) (a : Nat) : Nat → List (BitVec 8)
  | 0 => []
  | n + 1 => memGet m a :: memRead m (a + 1) n

/-- Write bytes from `a` upward. -/
def memWrite (m : List Host.Cell) (a : Nat) : List (BitVec 8) → List Host.Cell
  | [] => m
  | b :: bs => memWrite (memSet m a b) (a + 1) bs

end Sys2Proof.Machine
end

