-- ==== Sys2Proof/Machine/Ops.lean ====
section
/-! DEFINITION. The named operations over the register bank, counters, events, rings and performance counters. -/
namespace Sys2Proof.Machine

/-! ## Registers -/

/-- The bank key of element `i` of a register. -/
def RegInfo.key (r : RegInfo) (i : Nat) : Nat := r.id * 2 ^ 20 + i

/-- Reset value of element `i`: BPM_POOL_RSV of pool 15 differs from its fellows (R401), and every MSI-X vector is masked at
reset (PRESUMED: PCI Express Base Specification, log 3). -/
def RegInfo.resetAt (r : RegInfo) (i : Nat) : Nat :=
  if r.id = R.BPM_POOL_RSV.id ∧ i = 15 then 0x1000 else if r.id = R.MSIX_TABLE.id ∧ i % 4 = 3 then 1 else r.reset

/-- Value of a 32-bit register. -/
def Dev.rd (d : Dev) (r : RegInfo) (i : Nat) : Nat :=
  (SMap.get 0 d.regs.words (r.key i) ^^^ BitVec.ofNat 32 (r.resetAt i)).toNat

/-- A 32-bit register takes a value (its low 32 bits). -/
def Dev.wr (d : Dev) (r : RegInfo) (i v : Nat) : Dev :=
  { d with regs := { d.regs with
      words := SMap.set 0 d.regs.words (r.key i) (BitVec.ofNat 32 v ^^^ BitVec.ofNat 32 (r.resetAt i)) } }

/-- Value of a 64-bit counter or register. -/
def Dev.rd64 (d : Dev) (r : RegInfo) (i : Nat) : Nat := (SMap.get 0 d.regs.wides (r.key i)).toNat

/-- A 64-bit register takes a value (its low 64 bits). -/
def Dev.wr64 (d : Dev) (r : RegInfo) (i v : Nat) : Dev :=
  { d with regs := { d.regs with wides := SMap.set 0 d.regs.wides (r.key i) (BitVec.ofNat 64 v) } }

/-- A counter gains `n`; it wraps at 2^64 (R15). -/
def Dev.inc (d : Dev) (r : RegInfo) (i n : Nat) : Dev := d.wr64 r i (d.rd64 r i + n)

/-- A field of a 32-bit register. -/
def Dev.fldOf (d : Dev) (r : RegInfo) (i lo w : Nat) : Nat := fld (d.rd r i) lo w

/-- A bit of a 32-bit register. -/
def Dev.bitOf (d : Dev) (r : RegInfo) (i k : Nat) : Bool := decide (fld (d.rd r i) k 1 = 1)

/-- A field of a 32-bit register takes a value. -/
def Dev.setFld (d : Dev) (r : RegInfo) (i lo w v : Nat) : Dev := d.wr r i (putFld (d.rd r i) lo w v)

/-! ## Free values -/

/-- A fresh free value of `w` bits: a value that the spec leaves open (log 2). -/
def Dev.free (d : Dev) (w : Nat) : Nat × Dev :=
  (Config.freeValue d.freeCount % 2 ^ w, { d with freeCount := d.freeCount + 1 })

/-! ## Parts by index -/

def Dev.host (d : Dev) (h : Nat) : HostPort := SMap.get {} d.hosts h
def Dev.setHost (d : Dev) (h : Nat) (p : HostPort) : Dev := { d with hosts := SMap.set {} d.hosts h p }
def Dev.slc (d : Dev) (s : Nat) : SliceSt := SMap.get {} d.slices s
def Dev.setSlc (d : Dev) (s : Nat) (x : SliceSt) : Dev := { d with slices := SMap.set {} d.slices s x }
/-- `n` slots of engine `k`, of egress pipeline `k - 32` or of ingress pipeline `k - 64` of slice `s` are accounted. -/
def Dev.slotsUsed (d : Dev) (s k n : Nat) : Dev := d.setSlc s { d.slc s with slots := SMap.modify 0 (d.slc s).slots k (· + n) }
/-- One slot is accounted. -/
def Dev.slotUsed (d : Dev) (s k : Nat) : Dev := d.slotsUsed s k 1
/-- AE_ENG_EMPTY of an engine: core clocks that have passed without a microword (R347, R591). -/
def Dev.engEmpty (d : Dev) (s e : Nat) : Nat := (d.slc s).runClk - SMap.get 0 (d.slc s).used e
def Dev.bank (d : Dev) (b : Nat) : ImgBank := SMap.get {} d.banks b
def Dev.setBank (d : Dev) (b : Nat) (x : ImgBank) : Dev := { d with banks := SMap.set {} d.banks b x }
def Dev.lp (d : Dev) (p : Nat) : LPort := SMap.get {} d.lports p
def Dev.setLp (d : Dev) (p : Nat) (x : LPort) : Dev := { d with lports := SMap.set {} d.lports p x }
def Dev.pp (d : Dev) (p : Nat) : PPort := SMap.get {} d.pports p
def Dev.setPp (d : Dev) (p : Nat) (x : PPort) : Dev := { d with pports := SMap.set {} d.pports p x }
def Dev.eng (d : Dev) (k : Nat) : Engine := SMap.get {} d.engines k
def Dev.setEng (d : Dev) (k : Nat) (x : Engine) : Dev := { d with engines := SMap.set {} d.engines k x }
def Dev.frame (d : Dev) (f : Nat) : Option Frame := SMap.get none d.frames f
def Dev.setFrame (d : Dev) (f : Nat) (x : Frame) : Dev := { d with frames := SMap.set none d.frames f (some x) }
def Dev.dropFrame (d : Dev) (f : Nat) : Dev := { d with frames := SMap.erase d.frames f }
def Dev.cpy (d : Dev) (c : Nat) : Option Copy := SMap.get none d.copies c
def Dev.setCpy (d : Dev) (c : Nat) (x : Copy) : Dev := { d with copies := SMap.set none d.copies c (some x) }
def Dev.dropCpy (d : Dev) (c : Nat) : Dev := { d with copies := SMap.erase d.copies c }
def Dev.hop (d : Dev) (q : Nat) : Hopper := SMap.get {} d.hoppers q
def Dev.setHop (d : Dev) (q : Nat) (x : Hopper) : Dev := { d with hoppers := SMap.set {} d.hoppers q x }
def Dev.isa (d : Dev) (p : Nat) : Isa := SMap.get {} d.isas p
def Dev.setIsa (d : Dev) (p : Nat) (x : Isa) : Dev := { d with isas := SMap.set {} d.isas p x }
def Dev.ring (d : Dev) (k : Nat) : RingState := SMap.get {} d.rings k
def Dev.setRing (d : Dev) (k : Nat) (x : RingState) : Dev := { d with rings := SMap.set {} d.rings k x }
def Dev.snd (d : Dev) (k : Nat) : Sender := SMap.get {} d.senders k
def Dev.setSnd (d : Dev) (k : Nat) (x : Sender) : Dev := { d with senders := SMap.set {} d.senders k x }
def Dev.rsq (d : Dev) (k : Nat) : Rsq := SMap.get {} d.rsqs k
def Dev.setRsq (d : Dev) (k : Nat) (x : Rsq) : Dev := { d with rsqs := SMap.set {} d.rsqs k x }

/-- Apply a step to the device for each number below `n`, in rising order. -/
def forN (n : Nat) (f : Nat → Dev → Dev) (d : Dev) : Dev := (List.range n).foldl (fun d k => f k d) d

/-! ## Time -/

/-- The 64-bit nanosecond value of the time unit (R559). -/
def Dev.ns64 (d : Dev) : Nat := d.time.secs * 10 ^ 9 + d.time.ns

/-- The arrival timestamp layout of R138. -/
def tsOf (secs ns frac16 : Nat) : Nat := (secs % 65536) * 2 ^ 32 + (ns % 2 ^ 30) * 4 + frac16 / 2 ^ 14

/-- The top 16 bits of the internal fraction: the fraction of R136. -/
def TimeUnit.frac16 (t : TimeUnit) : Nat := t.frac / 2 ^ 16

/-! ## Rings: queueing a record (R510) -/

/-- Queue a record for event ring `ring` of host port `h`, stamped with the time unit. -/
def Dev.post (d : Dev) (h ring typ aux : Nat) (payload : List Byte) : Dev :=
  { d with ringQ := d.ringQ ++
      [{ host := h, ring := ring, typ := typ, aux := aux, payload := payload, secs := d.time.secs, ns := d.time.ns }] }

/-! ## Flags (R505, R506, R512) -/

/-- The flag group of a device address (R512); a host-port-local address is group 33 of its own host port. -/
def flagGroup (a : Nat) : Option Nat :=
  if a < 0x100000 then some 0
  else if a < 0x200000 then some 1
  else if 0x1000000 ≤ a ∧ a < 0x1800000 then some (2 + (a - 0x1000000) / 0x100000)
  else if 0x2000000 ≤ a ∧ a < 0x20C0000 then some 10
  else if 0x20C0000 ≤ a ∧ a < 0x2100000 then some 11
  else if 0x2100000 ≤ a ∧ a < 0x2400000 then some 12
  else if 0x3000000 ≤ a ∧ a < 0x3400000 then some (13 + (a - 0x3000000) / 0x100000)
  else if 0x4000000 ≤ a ∧ a < 0x5000000 then some (17 + (a - 0x4000000) / 0x100000)
  else if 0x10000000 ≤ a then some 33
  else none

/-- The host-port-local window of a device address: host port and BAR0 offset. -/
def localOf (a : Nat) : Option (Nat × Nat) :=
  if 0x10000000 ≤ a then some (a / 0x10000000 - 1, a % 0x10000000) else none

/-- Group `g` is enabled for host port `h` (HPL_FLAG_EN). -/
def Dev.flagOn (d : Dev) (h g : Nat) : Bool :=
  if g < 32 then d.bitOf R.HPL_FLAG_EN_LO h g else d.bitOf R.HPL_FLAG_EN_HI h (g - 32)

/-- The payload of a FLAG record (R511). -/
def flagPayload (off bits value : Nat) (collision : Bool) : List Byte :=
  leBytes 4 off ++ leBytes 4 bits ++ leBytes 4 value ++ leBytes 4 (b2n collision)

/-- Queue a FLAG record for host port `h`: bits of one register set in one clock give one record (R512). DEDUCED (log 172): records
queued at the same nanosecond are of one clock. -/
def Dev.queueFlag (d : Dev) (h off bits value : Nat) (collision : Bool) : Dev :=
  let same := fun (q : RingRecord) => decide (q.host = h) && decide (q.ring = 0) && decide (q.typ = 1) && decide (q.secs = d.time.secs)
    && decide (q.ns = d.time.ns) && decide (leAt q.payload 0 4 = off)
  if d.ringQ.any same then
    { d with ringQ := d.ringQ.map (fun q => if same q then { q with
        payload := flagPayload off (leAt q.payload 4 4 ||| bits) value (collision || decide (leAt q.payload 12 4 ≠ 0)) } else q) }
  else d.post h 0 1 0 (flagPayload off bits value collision)

/-- Post the FLAG records of one register: bits that rose or won, its value afterwards, the collision mark (R511, R512). -/
def Dev.postFlag (d : Dev) (r : RegInfo) (i bits value : Nat) (collision : Bool) : Dev :=
  let a := r.addr i
  match flagGroup a with
  | none => d
  | some g =>
    let off := match localOf a with | some (_, o) => o | none => a
    forN 4 (fun h d =>
      let mine := match localOf a with | some (h', _) => decide (h' = h) | none => true
      if mine && d.flagOn h g then d.queueFlag h off bits value collision else d) d

/-- The companion count of one bit gains 1 (R506). -/
def Dev.bump (d : Dev) (r : RegInfo) (i bit : Nat) : Dev :=
  let k := r.key i * 32 + bit
  { d with regs := { d.regs with companions := SMap.set 0 d.regs.companions k (SMap.get 0 d.regs.companions k + 1) } }

/-- The companion counts of every bit of a mask gain 1. -/
def Dev.bumpAll (d : Dev) (r : RegInfo) (i bits : Nat) : Dev :=
  forN 32 (fun b d => if fld bits b 1 = 1 then d.bump r i b else d) d

/-- Hardware sets bits of a W1C register: the bits, their companion counts and the FLAG records. -/
def Dev.raise (d : Dev) (r : RegInfo) (i bits : Nat) : Dev :=
  let old := d.rd r i
  let new := old ||| bits
  let risen := bits &&& (old ^^^ 0xFFFFFFFF)
  let d := (d.wr r i new).bumpAll r i bits
  if risen = 0 then d else d.postFlag r i risen new false

/-- Hardware sets one bit of a W1C register. -/
def Dev.raiseBit (d : Dev) (r : RegInfo) (i bit : Nat) : Dev := d.raise r i (2 ^ bit)

/-! ## Performance counters (R588, R589) -/

/-- Advance the counters of one block whose PMC_SEL selects event `ev` of unit `unit`; `base` is the block's first index. -/
def Dev.pmcIn (d : Dev) (sel cnt : RegInfo) (base ev unit n : Nat) (anyUnit : Bool) : Dev :=
  if d.stats.frozen then d else
  forN 32 (fun k d =>
    let s := d.rd sel (base + k)
    if fld s 31 1 = 1 ∧ fld s 0 12 = ev ∧ (anyUnit = true ∨ fld s 12 8 = unit) then d.inc cnt (base + k) n else d) d

/-- A slice event of a unit. -/
def Dev.pmc (d : Dev) (s ev unit n : Nat) : Dev := d.pmcIn R.PMC_SEL R.PMC (s * 32) ev unit n false

/-- A slice event without a unit. -/
def Dev.pmcAny (d : Dev) (s ev n : Nat) : Dev := d.pmcIn R.PMC_SEL R.PMC (s * 32) ev 0 n true

/-- A fabric event of a unit. -/
def Dev.pmcFab (d : Dev) (ev unit n : Nat) : Dev := d.pmcIn R.FAB_PMC_SEL R.FAB_PMC 0 ev unit n false

/-- A fabric event without a unit. -/
def Dev.pmcFabAny (d : Dev) (ev n : Nat) : Dev := d.pmcIn R.FAB_PMC_SEL R.FAB_PMC 0 ev 0 n true

/-! ## Wake requests (R537) -/

/-- Raise a wake request for slice `s`, which also wakes a sleeping fabric (R537, R543); what raises one breaks the idle rule
of a running slice (R536). -/
def Dev.wake (d : Dev) (s : Nat) : Dev :=
  let x := d.slc s
  let d := d.setSlc s { x with wakeReq := x.wakeReq || decide (x.st ≠ .run), idleSince := none }
  if d.fan.fabricAsleep then { d with fan := { d.fan with fabricWakeReq := true } } else d

/-- Raise a wake request for the fabric alone (R543). -/
def Dev.wakeFabric (d : Dev) : Dev :=
  if d.fan.fabricAsleep then { d with fan := { d.fan with fabricWakeReq := true } } else d

/-! ## Live tags (R84, R91, R395) -/

/-- `n` more tags hold an epoch and a version. -/
def Dev.tagUp (d : Dev) (epoch version n : Nat) : Dev :=
  { d with
    epochs := { d.epochs with live := SMap.modify 0 d.epochs.live epoch (· + n) }
    vers := { d.vers with live := SMap.modify 0 d.vers.live version (· + n) } }

/-- A tag is removed (R27): its hold on its epoch and version ends. -/
def Dev.tagDown (d : Dev) (t : Tag) : Dev :=
  { d with
    epochs := { d.epochs with live := SMap.modify 0 d.epochs.live t.epoch (· - 1) }
    vers := { d.vers with live := SMap.modify 0 d.vers.live t.version (· - 1) } }

/-- A forced retire discards frames of this tag, with the counter that counts it: the epoch first (R86), else the
version (R91); DESIGN CHOICE: a frame whose epoch and version are both forced counts once, under the epoch (log 12). -/
def Dev.forced (d : Dev) (t : Tag) : Option RegInfo :=
  if d.loader.force && decide (d.epochs.old = some t.epoch) then some R.IMG_FORCED_DISCARDS
  else if d.vers.force && d.vers.oldLive && decide (d.vers.old = t.version) then some R.VER_FORCED_DISCARDS
  else none

/-! ## Indices (R16, R22, R23) -/

/-- Slice of a logical port. -/
def sliceOf (lport : Nat) : Nat := lport / 64
/-- Physical port of a logical port. -/
def physOf (lport : Nat) : Nat := lport / 8
/-- Pipeline (device-wide) that serves a logical port, in either direction. -/
def pipeOf (lport : Nat) : Nat := (lport / 64) * 4 + (lport / 16) % 4
/-- Optical engine of a logical port. -/
def engineOf (lport : Nat) : Nat := lport / 32

end Sys2Proof.Machine
end

