-- ==== Sys2Proof/Machine/Errors.lean ====
section
/-! DEFINITION. Memory errors: reports, the tracker, lasting faults, sparing and the injector (14_reliability_telemetry). -/
namespace Sys2Proof.Machine

/-- The UNIT of an error report (R602). -/
def unitOf (slice egress pipe stage bank stack : Nat) : Nat :=
  packFields [(13, 3, slice), (12, 1, egress), (10, 2, pipe), (5, 5, stage), (4, 1, bank), (0, 4, stack)]

/-- Spares of one unit of a class (R573); 0 for a class without spares. -/
def spareCount (cls : Nat) : Nat :=
  match cls with
  | 0x02 => 64 | 0x04 => 16 | 0x05 => 8 | 0x06 => 8 | 0x07 => 2048 | 0x08 => 1024 | 0x09 => 256 | 0x0A => 4
  | 0x0B => 64 | 0x0C => 64 | 0x0D => 4 | 0x0E => 16 | 0x0F => 8 | 0x10 => 64 | 0x11 => 64 | 0x12 => 256 | 0x13 => 16
  | _ => 0

/-- Locations of one unit of a class (R602). -/
def locCount (cls : Nat) : Nat :=
  match cls with
  | 0x01 => 786432 | 0x02 => 786432 | 0x03 => 67108864 | 0x04 => 1048576 | 0x05 => 2048 | 0x06 => 2048
  | 0x07 => 2097152 + 8192 | 0x08 => 4194304 | 0x09 => 1048576 | 0x0A => 1024 | 0x0B => 65536 | 0x0C => 65536
  | 0x0D => 512 | 0x0E => 4096 | 0x0F => 4096 + 32 | 0x10 => 81920 | 0x11 => 65536 | 0x12 => 65536 + 262144 | 0x13 => 2048
  | 0x14 => 6291456
  | _ => 0

/-- What shares one set of spares with (class, unit, loc): classes 0x05 and 0x06 share a block's, and a cell state
record's unit is its 65,536 records (R573). -/
def spareSet (cls unit loc : Nat) : Nat × Nat × Nat :=
  if cls = 6 then (5, unit, 0) else if cls = 2 then (2, unit, loc / 65536) else (cls, unit, 0)

/-- Spares of a set that are in use or being filled. -/
def Dev.sparesUsed (d : Dev) (cls unit loc : Nat) : Nat :=
  let k := spareSet cls unit loc
  (d.errs.remaps.filter (fun r => spareSet r.cls r.unit r.loc = k)).length
  + (d.errs.spareJobs.filter (fun r => spareSet r.cls r.unit r.loc = k)).length

/-- A banked structure memory's class (R582). -/
def bankedClass (cls : Nat) : Bool := cls == 0x0A || cls == 0x0B || cls == 0x0F || cls == 0x10

/-- Write a lasting-fault log entry; a full log loses it (R578). -/
def Dev.logLasting (d : Dev) (cls unit loc : Nat) (ue inj : Bool) (action : Nat) : Dev :=
  if 64 ≤ d.errs.log.length then (d.inc R.ERR_LOG_LOST 0 1).raiseBit R.ERR_EVENTS 0 6
  else { d with errs := { d.errs with log := d.errs.log ++
    [{ cls := cls, unit := unit, loc := loc, ue := ue, inj := inj, action := action, secs := d.time.secs % 2 ^ 32 }] } }

/-- A UE in a banked structure memory of a running or draining bank poisons its location (R582). -/
def Dev.poison (d : Dev) (cls unit loc : Nat) (ue : Bool) : Dev :=
  let live := match (d.bank (fld unit 4 1)).st with | .running | .draining => true | _ => false
  if ue && bankedClass cls && live then { d with errs := { d.errs with poisoned := (cls, unit, loc) :: d.errs.poisoned } } else d

/-- A lasting fault (R578, R580): the class's action, its counters and the log entry. -/
def Dev.lasting (d : Dev) (cls unit loc : Nat) (ue inj : Bool) : Dev :=
  let c := cls
  let retire := fun (d : Dev) => ((d.inc R.ERR_RETIRED c 1).raiseBit R.ERR_EVENTS 0 2).logLasting cls unit loc ue inj 1
  let plain := fun (d : Dev) => (d.raiseBit R.ERR_EVENTS 0 2).logLasting cls unit loc ue inj 3
  let withhold := fun (d : Dev) => { d with buf := { d.buf with withheld := loc :: d.buf.withheld } }
  let page := fun (d : Dev) (n : Nat) => { d with errs := { d.errs with pageReq := d.errs.pageReq ++ [(unit % 16, n)] } }
  let d := (d.poison cls unit loc ue).inc R.ERR_LASTING c 1
  if cls = 0x01 then retire (withhold d)
  else if cls = 0x03 then retire (page d (loc / 64))
  else if spareCount cls = 0 ∨ d.bitOf R.ERR_CTRL 0 16 = false then plain d
  else if d.sparesUsed cls unit loc < spareCount cls then
    let d := { d with errs := { d.errs with
      spareJobs := d.errs.spareJobs ++ [SpareJob.mk cls unit loc ue inj] } }
    (((d.inc R.ERR_SPARED c 1).raiseBit R.ERR_EVENTS 0 3).raiseBit R.ERR_EVENTS 0 2).logLasting cls unit loc ue inj 0
  else match cls with
    | 0x02 => retire (withhold d)
    | 0x04 => retire (page d loc)
    | 0x07 | 0x08 => retire { d with errs := { d.errs with retired := (cls, unit, loc) :: d.errs.retired } }
    | _ => (((d.inc R.ERR_NOSPARE c 1).raiseBit R.ERR_EVENTS 0 4).raiseBit R.ERR_EVENTS 0 2).logLasting cls unit loc ue inj 2

/-- The tracker entry with the oldest first time, put out (R577). -/
def evictOldest (ts : List Track) : List Track :=
  match ts.foldl (fun (m : Option Track) t => match m with | none => some t | some x => if t.first < x.first then some t else m) none with
  | none => ts
  | some x => match takeFirst (fun t => decide (t = x)) ts with
    | none => ts
    | some (_, rest) => rest

/-- A CE or UE report reaches the tracker (R575 to R577, R582). DESIGN CHOICE (log 175): of a report that the tracker does not take
ERR_LAST2.COUNT is 0. -/
def Dev.report (d : Dev) (cls unit loc : Nat) (ue inj : Bool) : Dev :=
  let d := d.inc (if ue then R.ERR_UE else R.ERR_CE) cls 1
  let d := d.raiseBit R.ERR_EVENTS 0 (if ue then 1 else 0)
  let last := fun (d : Dev) (n : Nat) =>
    (((d.wr R.ERR_LAST0 0 (packFields [(31, 1, 1), (30, 1, b2n ue), (29, 1, b2n inj), (16, 8, cls), (0, 16, unit)])).wr
      R.ERR_LAST1 0 loc).wr R.ERR_LAST2 0 n).wr R.ERR_LAST3 0 (d.time.secs % 2 ^ 32)
  if d.errs.poisoned.contains (cls, unit, loc) then last d 0
  else
    let thresh := max 1 (d.fldOf R.ERR_CTRL 0 8 4)
    let window := max 1 (d.fldOf R.ERR_CTRL 0 0 8) * 3600
    let same := fun (t : Track) => decide (t.cls = cls) && decide (t.unit = unit) && decide (t.loc = loc)
    let found := takeFirst same d.errs.tracker
    let d := match found with
      | none => if 4096 ≤ d.errs.tracker.length then
          (({ d with errs := { d.errs with tracker := evictOldest d.errs.tracker } }.inc R.ERR_TRACK_EVICTS 0 1).raiseBit R.ERR_EVENTS 0 5)
        else d
      | some _ => d
    let t := d.time.secs
    let e : Track := match found with
      | none => ⟨cls, unit, loc, t, 0⟩
      | some (e, _) => if e.first + window ≤ t then { e with first := t, count := 0 } else e
    let n := min (e.count + (if ue then thresh else 1)) thresh
    let rest := d.errs.tracker.filter (fun t => !same t)
    if thresh ≤ n then last ({ d with errs := { d.errs with tracker := rest } }.lasting cls unit loc ue inj) n
    else last { d with errs := { d.errs with tracker := rest ++ [{ e with count := n }] } } n

/-- A report on its way to the tracker. -/
structure Report where
  cls : Nat
  unit : Nat
  loc : Nat
  ue : Bool
  inj : Bool
  deriving DecidableEq, Repr

/-- Reports of one location in one host/control clock count as one, a UE when any of them is (R576). DESIGN CHOICE (log 161):
it is an injected one when any of them is. -/
def mergeReports : List Report → List Report
  | [] => []
  | r :: rs =>
    let rest := mergeReports rs
    match takeFirst (fun x => decide (x.cls = r.cls) && decide (x.unit = r.unit) && decide (x.loc = r.loc)) rest with
    | none => r :: rest
    | some (x, others) => { r with ue := r.ue || x.ue, inj := r.inj || x.inj } :: others

/-- A report takes its place among others in class order, then in unit order (R576). -/
def insertReport (r : Report) : List Report → List Report
  | [] => [r]
  | x :: xs => if r.cls < x.cls ∨ (r.cls = x.cls ∧ r.unit ≤ x.unit) then r :: x :: xs else x :: insertReport r xs

/-- Reports of one clock in class order, then in unit order (R576). -/
def inReportOrder (rs : List Report) : List Report := rs.foldr insertReport []

/-- What a read of a location finds: no error or a corrected one, or an uncorrectable one; either is reported. -/
def Dev.memCheck (d : Dev) (cls unit loc : Nat) : Bool × Dev :=
  match d.errs.upsets.find? (fun u => decide (u.cls = cls) && decide (u.unit = unit) && decide (u.loc = loc)) with
  | none => (false, d)
  | some u => (u.ue, d.report cls unit loc u.ue u.inj)

/-- Symbols that the injector inverts: the enabled ones of ERR_INJ_SYM, counted once each (R574). -/
def Dev.injSymbols (d : Dev) : Nat :=
  let a := d.bitOf R.ERR_INJ_SYM 0 7
  let b := d.bitOf R.ERR_INJ_SYM 0 15
  let same := decide (d.fldOf R.ERR_INJ_SYM 0 0 6 = d.fldOf R.ERR_INJ_SYM 0 8 6)
  b2n a + b2n b - b2n (a && b && same)

/-- Hardware writes a location: what stood wrong there is gone, and an armed injector of that class and unit puts its
error there and disarms (R574). -/
def Dev.memWritten (d : Dev) (cls unit loc : Nat) : Dev :=
  let here := fun (u : Upset) => decide (u.cls = cls) && decide (u.unit = unit) && decide (u.loc = loc)
  let clean := d.errs.upsets.filter (fun u => !here u)
  let pois := d.errs.poisoned.filter (fun p => decide (p ≠ (cls, unit, loc)))
  if d.errs.armed && decide (d.fldOf R.ERR_INJ_SEL 0 0 8 = cls) && decide (d.fldOf R.ERR_INJ_SEL 0 8 16 = unit) then
    let n := if cls = 0x06 then 1 else if cls = 0x14 then 2 else d.injSymbols
    let (bit, d) := if cls = 0x06 then d.free 7 else if cls = 0x09 then d.free 1 else if cls = 0x03 then d.free 4 else (0, d)
    { d with errs := { d.errs with
        armed := false, poisoned := pois
        upsets := if n = 0 then clean else clean ++ [Upset.mk cls unit loc (decide (2 ≤ n)) true (bit % 80)] } }
  else { d with errs := { d.errs with upsets := clean, poisoned := pois } }

/-- ERROR_INJECT (R574): the next hardware write to the selected class and unit, at `loc`. -/
def Dev.errorInject (d : Dev) (loc : Nat) : Dev :=
  if d.errs.armed then d.memWritten (d.fldOf R.ERR_INJ_SEL 0 0 8) (d.fldOf R.ERR_INJ_SEL 0 8 16) loc else d

/-- SPARE_REMAP (R579): the oldest copy in progress completes and the location is remapped to the lowest spare. A
corrected codeword is whole again; an uncorrectable one goes along (R582). -/
def Dev.spareRemap (d : Dev) : Dev :=
  match d.errs.spareJobs with
  | [] => d
  | j :: js =>
    let d := { d with errs := { d.errs with spareJobs := js } }
    let n := d.sparesUsed j.cls j.unit j.loc - (js.filter (fun r => spareSet r.cls r.unit r.loc = spareSet j.cls j.unit j.loc)).length
    { d with errs := { d.errs with
      remaps := d.errs.remaps ++ [Remap.mk j.cls j.unit j.loc n]
      upsets := d.errs.upsets.filter (fun u => u.ue || !(decide (u.cls = j.cls) && decide (u.unit = j.unit) && decide (u.loc = j.loc))) } }

/-- ERR_SPARE_CMD.GO (R581): restore a recorded remap. -/
def Dev.spareGo (d : Dev) : Dev :=
  let cls := d.fldOf R.ERR_SPARE_SEL 0 0 8
  let unit := d.fldOf R.ERR_SPARE_SEL 0 8 16
  let loc := d.rd R.ERR_SPARE_LOC 0
  let used := d.sparesUsed cls unit loc
  if spareCount cls = 0 ∨ locCount cls ≤ loc then d.wr R.ERR_SPARE_STATUS 0 2
  else if d.errs.remaps.any (fun r => decide (r.cls = cls) && decide (r.unit = unit) && decide (r.loc = loc)) then d.wr R.ERR_SPARE_STATUS 0 3
  else if spareCount cls ≤ used then d.wr R.ERR_SPARE_STATUS 0 1
  else { d with errs := { d.errs with remaps := d.errs.remaps ++ [Remap.mk cls unit loc used] } }.wr R.ERR_SPARE_STATUS 0 0

/-- ERR_INJ_CMD.ARM and CANCEL (R574, R601). -/
def Dev.injArm (d : Dev) : Dev := { d with errs := { d.errs with armed := true } }
def Dev.injCancel (d : Dev) : Dev := { d with errs := { d.errs with armed := false } }

/-- A read of ERR_LOG_W0 (R601): the head entry's W0, with its other words copied and the entry removed. -/
def Dev.errLogRead (d : Dev) : Nat × Dev :=
  match d.errs.log with
  | [] => (0, (d.wr R.ERR_LOG_W1 0 0).wr R.ERR_LOG_W2 0 0)
  | e :: es =>
    (packFields [(31, 1, 1), (30, 1, b2n e.ue), (29, 1, b2n e.inj), (27, 2, e.action), (16, 8, e.cls), (0, 16, e.unit)],
      ({ d with errs := { d.errs with log := es } }.wr R.ERR_LOG_W1 0 e.loc).wr R.ERR_LOG_W2 0 e.secs)

end Sys2Proof.Machine
end

