-- ==== Sys2Proof/Machine/Cmd.lean ====
section
/-! DEFINITION. Command sets: queueing, order and completion (R206, R207), shared by every engine that has them. -/
namespace Sys2Proof.Machine

/-- The engines that have command sets. -/
inductive Engine7 where
  | blt | tbl | stg | rpl | pch | bpm | gov
  deriving DecidableEq, Repr

def Engine7.num : Engine7 → Nat
  | .blt => 0 | .tbl => 1 | .stg => 2 | .rpl => 3 | .pch => 4 | .bpm => 5 | .gov => 6

/-- The queue of an engine of a slice (slice 0 for the engines of the fabric die). -/
def Dev.cmdQ (d : Dev) (e : Engine7) (s : Nat) : List (Nat × Nat) := SMap.get [] d.cmdqs (e.num * 8 + s)
def Dev.setCmdQ (d : Dev) (e : Engine7) (s : Nat) (q : List (Nat × Nat)) : Dev :=
  { d with cmdqs := SMap.set [] d.cmdqs (e.num * 8 + s) q }

/-- BUSY of host port `h`'s set: a command of it is queued. -/
def Dev.cmdBusy (d : Dev) (e : Engine7) (s h : Nat) : Bool := (d.cmdQ e s).any (fun x => decide (x.1 = h))

/-- The registers through which a set reports: status, DONE, REJECTS. -/
structure CmdRegs where
  status : RegInfo
  done : RegInfo
  rejects : RegInfo

def Engine7.regs : Engine7 → CmdRegs
  | .blt => ⟨R.BLT_CMD_STATUS, R.BLT_CMD_DONE, R.BLT_CMD_REJECTS⟩
  | .tbl => ⟨R.TBL_CMD_STATUS, R.TBL_CMD_DONE, R.TBL_CMD_REJECTS⟩
  | .stg => ⟨R.STG_CMD_STATUS, R.STG_CMD_DONE, R.STG_CMD_REJECTS⟩
  | .rpl => ⟨R.RPL_CMD_STATUS, R.RPL_CMD_DONE, R.RPL_CMD_REJECTS⟩
  | .pch => ⟨R.AE_PCH_STATUS, R.AE_PCH_DONE, R.AE_PCH_REJECTS⟩
  | .bpm => ⟨R.BPM_CMD_STATUS, R.BPM_CMD_DONE, R.BPM_CMD_REJECTS⟩
  | .gov => ⟨R.GOV_CMD_STATUS, R.GOV_CMD_DONE, R.GOV_CMD_REJECTS⟩

/-- A result of 0x1 is a MISS and no reject (R206): bolter and table sets. -/
def Engine7.missOk : Engine7 → Bool
  | .blt => true | .tbl => true | _ => false

/-- The command at the head of an engine's queue completes in one step (R206): its status fields with RESULT in bits 3:0,
DONE, REJECTS; BUSY falls with its leaving the queue. -/
def Dev.cmdDone (d : Dev) (e : Engine7) (s status : Nat) : Dev :=
  match d.cmdQ e s with
  | [] => d
  | (h, _) :: rest =>
    let i := s * 4 + h
    let d := (d.setCmdQ e s rest).wr e.regs.status i status
    let d := d.inc e.regs.done i 1
    if status % 16 = 0 ∨ (e.missOk = true ∧ status % 16 = 1) then d else d.inc e.regs.rejects i 1

/-- OP of a command word: bits 3:0. -/
def opKnown (e : Engine7) (op : Nat) : Bool :=
  match e with
  | .blt => decide (1 ≤ op ∧ op ≤ 5)
  | .tbl => decide (1 ≤ op ∧ op ≤ 8)
  | .stg => decide (1 ≤ op ∧ op ≤ 4)
  | .rpl => decide (1 ≤ op ∧ op ≤ 4)
  | .pch => decide (1 ≤ op ∧ op ≤ 5)
  | .bpm => decide (op = 1 ∨ op = 2 ∨ (3 ≤ op ∧ op ≤ 6))
  | .gov => decide (1 ≤ op ∧ op ≤ 5)

def Dev.tslice (d : Dev) (s : Nat) : TblSlice := SMap.get {} d.tbl.slices s
def Dev.setTslice (d : Dev) (s : Nat) (x : TblSlice) : Dev :=
  { d with tbl := { d.tbl with slices := SMap.set {} d.tbl.slices s x } }

/-- A learn may start: enabled, waiting, and the gap since the last one has passed (R241). -/
def Dev.learnReady (d : Dev) (s : Nat) : Bool :=
  let x := d.tslice s
  let gap := max 112 (d.fldOf R.TBL_LEARN_CTRL s 10 10)
  d.bitOf R.TBL_LEARN_CTRL s 0 && decide (x.learnQ ≠ [])
  && (match x.learnAt with | none => true | some t => decide (t * 27 + gap * 20 ≤ d.now * 27))

/-- An engine may take a command: its slice runs, the fabric is awake (R40, R210), and the table engine's turn is a
command's (R247). -/
def Dev.takesCmd (d : Dev) (e : Engine7) (s : Nat) : Bool :=
  match e with
  | .blt | .stg | .pch => decide ((d.slc s).st = .run)
  | .tbl => decide ((d.slc s).st = .run) && !(d.learnReady s && decide ((d.tslice s).lastKind = 2))
  | .rpl | .bpm | .gov => !d.fan.fabricAsleep

/-- What taking a command leaves in its engine: the table engine's last kind (R247). -/
def Dev.cmdTaken (d : Dev) (e : Engine7) (s : Nat) : Dev :=
  if e = .tbl then d.setTslice s { d.tslice s with lastKind := 2 } else d

/-- Commands whose OP no row names, at the head of the queue, complete with BAD_OP (0x7): they change nothing else
(DESIGN CHOICE, log 15: they complete with the step in which the engine may take them). A bolter one closes the set's
step-through (R209). -/
def Dev.drainBad (d : Dev) (e : Engine7) (s : Nat) : Nat → Dev
  | 0 => d
  | n + 1 =>
    match d.cmdQ e s with
    | [] => d
    | (h, v) :: _ =>
      if opKnown e (v % 16) || !d.takesCmd e s then d
      else
        let d := d.cmdTaken e s
        let d := if e = .blt then { d with tbl := { d.tbl with steps := SMap.set none d.tbl.steps (s * 4 + h) none } } else d
        (d.cmdDone e s 7).drainBad e s n

/-- The head command of an engine, if its OP is `op`: host port and command word. -/
def Dev.cmdHead (d : Dev) (e : Engine7) (s op : Nat) : Option (Nat × Nat) :=
  match d.cmdQ e s with
  | [] => none
  | (h, v) :: _ => if v % 16 = op then some (h, v) else none

/-- Run the head command of an engine if its OP is `op`: `f` gives its status word and its effects. -/
def Dev.cmdRun (d : Dev) (e : Engine7) (s op : Nat) (f : Nat → Nat → Dev → Nat × Dev) : Dev :=
  match d.cmdHead e s op with
  | none => d
  | some (h, v) =>
    let (st, d) := f h v (d.cmdTaken e s)
    (d.cmdDone e s st).drainBad e s 8

/-- A command word is queued (R206, R207). -/
def Dev.cmdPush (d : Dev) (e : Engine7) (s h v : Nat) : Dev :=
  (d.setCmdQ e s (d.cmdQ e s ++ [(h, v)])).drainBad e s 8

/-- Engines that now run take the undefined commands at the heads of their queues: those of a slice, and of the fabric. -/
def Dev.drainSlice (d : Dev) (s : Nat) : Dev := [Engine7.blt, .tbl, .stg, .pch].foldl (fun d e => d.drainBad e s 8) d
def Dev.drainFabric (d : Dev) : Dev :=
  forN 8 (fun s d => d.drainBad .gov s 8) ((d.drainBad .rpl 0 8).drainBad .bpm 0 8)

end Sys2Proof.Machine
end

