-- ==== Sys2Proof/Machine/Crypto.lean ====
section
/-! DEFINITION. The published algorithms that the spec names and does not restate. PRESUMED (log 3): SHA-384 from
FIPS 180-4, ECDSA over P-384 from FIPS 186-5 (R55), AES-256-CMAC from FIPS 197 and NIST SP 800-38B (R525), CRC-32
from IEEE 802.3 (R387) and CRC-32C with the Castagnoli polynomial (R214, R353). -/
namespace Sys2Proof.Machine

/-! ## Cyclic redundancy checks -/

/-- One bit of a reflected CRC register. -/
def crcBit (poly c : Nat) : Nat := if c % 2 = 1 then (c / 2) ^^^ poly else c / 2

/-- One byte into a reflected CRC register. -/
def crcByte (poly c : Nat) (b : Byte) : Nat :=
  let x := c ^^^ b.toNat
  crcBit poly (crcBit poly (crcBit poly (crcBit poly (crcBit poly (crcBit poly (crcBit poly (crcBit poly x)))))))

/-- A reflected 32-bit CRC with all-ones start and final inversion. -/
def crcReflected (poly : Nat) (bs : List Byte) : Nat :=
  (bs.foldl (fun c b => crcByte poly c b) 0xFFFFFFFF) ^^^ 0xFFFFFFFF

/-- CRC-32 of IEEE 802.3. -/
def crc32 (bs : List Byte) : Nat := crcReflected 0xEDB88320 bs

/-- The frame check sequence as sent: least significant byte of the CRC first. -/
def fcsBytes (bs : List Byte) : List Byte := leBytes 4 (crc32 bs)

/-! ## SHA-384 -/

/-- Round constants of SHA-512, constant i in bits 64 i + 63 down to 64 i. -/
def shaKs : Nat := 0x6c44198c4a4758175fcb6fab3ad6faec597f299cfc657e2a4cc5d4becb3e42b6431d67c49c100d4c3c9ebe0a15c9bebc32caab7b40c7249328db77f523047d841b710b35131c471b113f9804bef90dae0a637dc5a2c898a606f067aa72176fbaf57d4f7fee6ed178eada7dd6cde0eb1ed186b8c721c0c207ca273eceea26619cc67178f2e372532bbef9a3f7b2c67915a4506cebde82bde990befffa23631e288cc702081a6439ec84c87814a1f0ab7278a5636f43172f60748f82ee5defb2fc682e6ff3d6b2b8a35b9cca4f7763e3734ed8aa4ae3418acb391c0cb3c5c95a6334b0bcb5e19b48a82748774cdf8eeb991e376c085141ab5319a4c116b8d2d0c8106aa07032bbd1b8f40e35855771202ad69906245565a910d192e819d6ef5218c76c51a30654be30c24b8b70d0f89791a81a664bbc423001a2bfe8a14cf1036492722c851482353b81c2c92e47edaee6766a0abb3c77b2a8650a73548baf63de53380d139d95b3df4d2c6dfc5ac42aed2e1b21385c26c92627b70a8546d22ffc142929670a0e6e7006ca6351e003826fd5a79147930aa725c6e00bf33da88fc2bf597fc7beef0ee4b00327c898fb213fa831c66d2db43210983e5152ee66dfab76f988da831153b55cb0a9dcbd41fbd44a7484aa6ea6e4832de92c6f592b0275240ca1cc77ac9c650fc19dc68b8cd5b5efbe4786384f25e3e49b69c19ef14ad2c19bf174cf6926949bdc06a725c7123580deb1fe3b1696b172be5d74f27b896f550c7dc3d5ffb4e2243185be4ee4b28c12835b0145706fbed807aa98a3030242ab1c5ed5da6d8118923f82a4af194f9b59f111f1b605d0193956c25bf348b538e9b5dba58189dbbcb5c0fbcfec4d3b2f7137449123ef65cd428a2f98d728ae22

def shaK (i : Nat) : DWord := BitVec.ofNat 64 (fld shaKs (64 * i) 64)

def shaInit : List DWord := [0xcbbb9d5dc1059ed8, 0x629a292a367cd507, 0x9159015a3070dd17, 0x152fecd8f70e5939, 0x67332667ffc00b31, 0x8eb44a8768581511, 0xdb0c2e0d64f98fa7, 0x47b5481dbefa4fa4]

def shaPad (bs : List Byte) : List Byte :=
  bs ++ [0x80] ++ List.replicate ((128 - (bs.length + 17) % 128) % 128) 0 ++ beBytes 16 (bs.length * 8)

/-- One more word of the message schedule, newest first. -/
def shaNext (ws : List DWord) : DWord :=
  let w2 := ws.getD 1 0
  let w7 := ws.getD 6 0
  let w15 := ws.getD 14 0
  let w16 := ws.getD 15 0
  (w2.rotateRight 19 ^^^ w2.rotateRight 61 ^^^ (w2 >>> 6)) + w7
    + (w15.rotateRight 1 ^^^ w15.rotateRight 8 ^^^ (w15 >>> 7)) + w16

def shaSchedule : Nat → List DWord → List DWord
  | 0, ws => ws
  | n + 1, ws => shaSchedule n (shaNext ws :: ws)

/-- One round on the eight working words. -/
def shaRound (st : List DWord) (k w : DWord) : List DWord :=
  match st with
  | [a, b, c, d, e, f, g, h] =>
    let t1 := h + (e.rotateRight 14 ^^^ e.rotateRight 18 ^^^ e.rotateRight 41) + ((e &&& f) ^^^ (~~~e &&& g)) + k + w
    let t2 := (a.rotateRight 28 ^^^ a.rotateRight 34 ^^^ a.rotateRight 39) + ((a &&& b) ^^^ (a &&& c) ^^^ (b &&& c))
    [t1 + t2, a, b, c, d + t1, e, f, g]
  | st => st

def shaWords : Nat → List Byte → List DWord
  | 0, _ => []
  | n + 1, bs => BitVec.ofNat 64 (beNat (bs.take 8)) :: shaWords n (bs.drop 8)

def shaBlock (st : List DWord) (block : List Byte) : List DWord :=
  let ws := (shaSchedule 64 (shaWords 16 block).reverse).reverse
  let out := (ws.zip (List.range 80)).foldl (fun s wi => shaRound s (shaK wi.2) wi.1) st
  (st.zip out).map (fun p => p.1 + p.2)

def shaBlocks : Nat → List DWord → List Byte → List DWord
  | 0, st, _ => st
  | n + 1, st, bs => shaBlocks n (shaBlock st (bs.take 128)) (bs.drop 128)

/-- SHA-384: 48 bytes. -/
def sha384 (bs : List Byte) : List Byte :=
  let p := shaPad bs
  let iv := shaInit
  ((shaBlocks (p.length / 128) iv p).flatMap (fun w => beBytes 8 w.toNat)).take 48

/-! ## ECDSA over P-384 -/

def p384P : Nat := 0xfffffffffffffffffffffffffffffffffffffffffffffffffffffffffffffffeffffffff0000000000000000ffffffff
def p384B : Nat := 0xb3312fa7e23ee7e4988e056be3f82d19181d9c6efe8141120314088f5013875ac656398d8a2ed19d2a85c8edd3ec2aef
def p384N : Nat := 0xffffffffffffffffffffffffffffffffffffffffffffffffc7634d81f4372ddf581a0db248b0a77aecec196accc52973
def p384G : Nat × Nat := (0xaa87ca22be8b05378eb1c71ef320ad746e1d3b628ba79b9859f741e082542a385502f25dbf55296c3a545e3872760ab7, 0x3617de4a96262c6f5d9e98bf9292dc29f8f41dbd289a147ce9da3113b5f0b8c00a60b1ce1d7e819d7a431d7c90ea0e5f)

/-- `a ^ e mod m`, `e` taken bit by bit from its `k` low bits. -/
def powMod (m : Nat) : Nat → Nat → Nat → Nat
  | 0, _, _ => 1 % m
  | k + 1, a, e => (if e % 2 = 1 then a else 1) * powMod m k (a * a % m) (e / 2) % m

def invMod (m a : Nat) : Nat := powMod m 384 (a % m) (m - 2)

/-- `(a - b) mod p`. -/
def subP (a b : Nat) : Nat := (a + p384P - b % p384P) % p384P

/-- Point addition; none is the point at infinity. -/
def ecAdd : Option (Nat × Nat) → Option (Nat × Nat) → Option (Nat × Nat)
  | none, q => q
  | q, none => q
  | some (x1, y1), some (x2, y2) =>
    let p := p384P
    if x1 = x2 ∧ (y1 + y2) % p = 0 then none else
    let l := if x1 = x2 then subP (3 * x1 * x1) 3 * invMod p (2 * y1) % p else subP y2 y1 * invMod p (subP x2 x1) % p
    let x3 := subP (subP (l * l) x1) x2
    some (x3, subP (l * subP x1 x3) y1)

/-- Scalar multiple by the `k` low bits of `e`. -/
def ecMul : Nat → Nat → Option (Nat × Nat) → Option (Nat × Nat)
  | 0, _, _ => none
  | k + 1, e, q => ecAdd (if e % 2 = 1 then q else none) (ecMul k (e / 2) (ecAdd q q))

/-- The public key is a point of the curve other than infinity. -/
def ecOnCurve (x y : Nat) : Bool :=
  decide (x < p384P) && decide (y < p384P) && decide (y * y % p384P = subP (x * x * x + p384B) (3 * x))

/-- ECDSA verification of a 48-byte digest. -/
def ecdsaVerify (digest : List Byte) (x y r s : Nat) : Bool :=
  let n := p384N
  if decide (r = 0) || decide (n ≤ r) || decide (s = 0) || decide (n ≤ s) || !ecOnCurve x y then false else
  let w := invMod n s
  match ecAdd (ecMul 384 (beNat digest * w % n) (some p384G)) (ecMul 384 (r * w % n) (some (x, y))) with
  | none => false
  | some (px, _) => decide (px % n = r)

/-! ## AES-256-CMAC -/

/-- The AES substitution box, entry i in bits 8 i + 7 down to 8 i. -/
def aesSbox : Nat := 0x16bb54b00f2d99416842e6bf0d89a18cdf2855cee9871e9b948ed9691198f8e19e1dc186b95735610ef6034866b53e708a8bbd4b1f74dde8c6b4a61c2e2578ba08ae7a65eaf4566ca94ed58d6d37c8e779e4959162acd3c25c2406490a3a32e0db0b5ede14b8ee4688902a22dc4f816073195d643d7ea7c41744975fec130ccdd2f3ff1021dab6bcf5389d928f40a351a89f3c507f02f94585334d43fbaaefd0cf584c4a39becb6a5bb1fc20ed00d153842fe329b3d63b52a05a6e1b1a2c830975b227ebe28012079a059618c323c7041531d871f1e5a534ccf73f362693fdb7c072a49cafa2d4adf04759fa7dc982ca76abd7fe2b670130c56f6bf27b777c63

def aesSub (n : Nat) : Nat := fld aesSbox (8 * n) 8

def aesX (n : Nat) : Nat := if n < 128 then 2 * n else (2 * n - 256) ^^^ 0x1B

/-- Round key words, newest first, each as four bytes. -/
def aesExpand : Nat → Nat → Nat → List (List Nat) → List (List Nat)
  | 0, _, _, ws => ws
  | k + 1, i, rcon, ws =>
    let t := ws.headD []
    let t' := if i % 8 = 0 then
        match t with
        | [a, b, c, d] => [aesSub b ^^^ rcon, aesSub c, aesSub d, aesSub a]
        | t => t
      else if i % 8 = 4 then t.map aesSub else t
    aesExpand k (i + 1) (if i % 8 = 0 then aesX rcon else rcon)
      (((ws.getD 7 []).zip t').map (fun p => p.1 ^^^ p.2) :: ws)

def aesKeyWords : Nat → List Nat → List (List Nat)
  | 0, _ => []
  | k + 1, bs => bs.take 4 :: aesKeyWords k (bs.drop 4)

/-- The 60 round key words of a 32-byte key, in order, as one byte list. -/
def aesKeys (key : List Byte) : List Nat :=
  ((aesExpand 52 8 1 (aesKeyWords 8 (key.map BitVec.toNat)).reverse).reverse).flatten

def aesShift (s : List Nat) : List Nat := (List.range 16).map (fun i => s.getD ((i + 4 * (i % 4)) % 16) 0)

def aesMixCol : List Nat → List Nat
  | a :: b :: c :: d :: rest =>
    (aesX a ^^^ aesX b ^^^ b ^^^ c ^^^ d) :: (a ^^^ aesX b ^^^ aesX c ^^^ c ^^^ d)
      :: (a ^^^ b ^^^ aesX c ^^^ aesX d ^^^ d) :: (aesX a ^^^ a ^^^ b ^^^ c ^^^ aesX d) :: aesMixCol rest
  | _ => []

def xorList (a b : List Nat) : List Nat := (a.zip b).map (fun p => p.1 ^^^ p.2)

def aesRounds (ks : List Nat) : Nat → Nat → List Nat → List Nat
  | 0, r, s => xorList (aesShift (s.map aesSub)) (ks.drop (16 * r))
  | k + 1, r, s => aesRounds ks k (r + 1) (xorList (aesMixCol (aesShift (s.map aesSub))) (ks.drop (16 * r)))

/-- One block of AES-256 under expanded keys. -/
def aesBlock (ks s : List Nat) : List Nat := aesRounds ks 13 1 (xorList s ks)

/-- Doubling of a CMAC subkey. -/
def cmacDbl (n : Nat) : Nat := if n < 2 ^ 127 then 2 * n else (2 * n - 2 ^ 128) ^^^ 0x87

def natBlock (n : Nat) : List Nat := (beBytes 16 n).map BitVec.toNat

def cmacGo (ks : List Nat) (last : List Nat) : Nat → List Nat → List Nat → List Nat
  | 0, acc, _ => aesBlock ks (xorList acc last)
  | k + 1, acc, bs => cmacGo ks last k (aesBlock ks (xorList acc bs)) (bs.drop 16)

/-- AES-256-CMAC: 16 bytes. -/
def cmac (key bs : List Byte) : List Byte :=
  let ks := aesKeys key
  let l := beNat ((aesBlock ks (List.replicate 16 0)).map (BitVec.ofNat 8))
  let k1 := cmacDbl l
  let m := bs.map BitVec.toNat
  let full := decide (m.length % 16 = 0) && decide (0 < m.length)
  let blocks := if full then m.length / 16 - 1 else m.length / 16
  let tail := m.drop (16 * blocks)
  let last := if full then xorList tail (natBlock k1)
    else xorList (tail ++ [0x80] ++ List.replicate (15 - tail.length) 0) (natBlock (cmacDbl k1))
  (cmacGo ks last blocks (List.replicate 16 0) m).map (BitVec.ofNat 8)

end Sys2Proof.Machine
end

