-- ==== Sys2Proof/Machine/Image.lean ====
section
/-! DEFINITION. Filcen images: header, section table, payload records, and the checks that the loader makes as bytes
arrive (02_structure_image, R48 to R57, R61, R68, R71). -/
namespace Sys2Proof.Machine

/-- An entry of the section table (R50), with the image offset of the entry itself. -/
structure Sect where
  typ : Nat
  sliceMask : Nat
  pipeMask : Nat
  inst : Nat
  off : Nat
  len : Nat
  dest : Nat
  /-- Reserved bytes of the entry, as one number. -/
  rsv : Nat
  tab : Nat
  deriving DecidableEq, Repr

/-! ## Header fields (R49) -/

def imgLen (b : List Byte) : Nat := leAt b 0x08 4
def imgSectCount (b : List Byte) : Nat := leAt b 0x0C 2
def imgSvn (b : List Byte) : Nat := leAt b 0x16 1
def imgKeySlot (b : List Byte) : Nat := leAt b 0x17 1
def imgId (b : List Byte) : Nat := leAt b 0x18 8
def imgCompiler (b : List Byte) : Nat := leAt b 0x20 4
def imgTabOff (b : List Byte) : Nat := leAt b 0x24 4
def imgSigOff (b : List Byte) : Nat := leAt b 0x28 4

/-- Section table entry `i` (R50). -/
def sectAt (b : List Byte) (i : Nat) : Sect :=
  let o := imgTabOff b + 32 * i
  { typ := leAt b o 2, sliceMask := leAt b (o + 2) 1, pipeMask := leAt b (o + 3) 1, inst := leAt b (o + 4) 2,
    off := leAt b (o + 8) 4, len := leAt b (o + 12) 4, dest := leAt b (o + 16) 4,
    rsv := leAt b (o + 6) 2 + leAt b (o + 20) 12, tab := o }

/-- The section table. -/
def sections (b : List Byte) : List Sect := (List.range (imgSectCount b)).map (sectAt b)

/-! ## Section types (R52) -/

/-- A section of type `t` selects ingress or egress pipelines. -/
def sectPipe (t : Nat) : Bool := decide (1 ≤ t ∧ t ≤ 4)
/-- A section of type `t` is device-wide. -/
def sectDevice (t : Nat) : Bool := decide (t = 5 ∨ t = 8 ∨ t = 9 ∨ t = 10)
/-- Unit of a payload in bytes. -/
def sectUnit (t : Nat) : Nat :=
  match t with
  | 1 => 256 | 2 => 8 | 3 => 64 | 4 => 64 | 5 => 16 | 6 => 4 | 7 => 16 | 8 => 4 | 9 => 64 | _ => 4
/-- Bytes of one bank of the destination memory; for types that R52 gives DEST 0, the largest payload. -/
def sectCap (t : Nat) : Nat :=
  match t with
  | 1 => 65536 | 2 => 512 | 3 => 65536 | 4 => 65536 | 7 => 1048576 | 8 => 1310720 | 9 => 64 | 10 => 65536
  | _ => 0x10000000
/-- Types whose DEST is 0. -/
def sectDest0 (t : Nat) : Bool := decide (t = 5 ∨ t = 6 ∨ t = 9 ∨ t = 10)

/-- An entry keeps the Selection and Unit of R52 and the fields of R50. -/
def sectOk (b : List Byte) (s : Sect) : Bool :=
  decide (1 ≤ s.typ ∧ s.typ ≤ 10) && decide (s.rsv = 0)
  && decide (s.pipeMask < 16)
  && (if sectPipe s.typ then decide (s.pipeMask ≠ 0) else decide (s.pipeMask = 15))
  && (if sectDevice s.typ then decide (s.sliceMask = 0xFF) else decide (s.sliceMask ≠ 0))
  && decide (s.inst < (if s.typ = 3 then 24 else if s.typ = 4 then 16 else 1))
  && decide (s.off % 64 = 0) && decide (imgTabOff b < s.off) && decide (imgTabOff b + 32 * imgSectCount b ≤ s.off)
  && decide (0 < s.len) && decide (s.len % 4 = 0) && decide (s.len % sectUnit s.typ = 0)
  && decide (s.off + s.len ≤ imgSigOff b)
  && decide (s.dest % sectUnit s.typ = 0) && (!sectDest0 s.typ || decide (s.dest = 0))
  && (s.typ ≠ 9 || decide (s.len = 64)) && (s.typ ≠ 10 || decide (s.len ≤ 65536))

/-- DEST + LENGTH stays in one bank (SECTION_TOO_BIG of R71). -/
def sectFits (s : Sect) : Bool := sectDest0 s.typ || decide (s.dest + s.len ≤ sectCap s.typ)

/-- Two sections write the same destination memory of one slice and pipeline at overlapping bytes (R51). -/
def sectClash (s t : Sect) : Bool :=
  decide (s.typ = t.typ) && decide (s.inst = t.inst) && !sectDest0 s.typ
  && decide (s.sliceMask &&& t.sliceMask ≠ 0) && decide (s.pipeMask &&& t.pipeMask ≠ 0)
  && decide (s.dest < t.dest + t.len) && decide (t.dest < s.dest + s.len)

/-- Entry `s` comes in order after the earlier entries and clashes with none (R51). -/
def sectAfter (earlier : List Sect) (s : Sect) : Bool :=
  earlier.all (fun e => decide (e.off < s.off) && decide (e.off + e.len ≤ s.off) && !sectClash e s)

/-- The first failing entry of the table: error and image offset (R68). A second PORT_PLAN entry fails (R53). DESIGN CHOICE
(log 149): a payload that starts before the end of the table, or that runs past SIG_OFF, fails its entry with
BAD_SECTION_TABLE; R48 names no ERROR for it. -/
def tableErr (b : List Byte) (done : List Sect) : List Sect → Option (Nat × Nat)
  | [] => none
  | s :: ss =>
    if !sectOk b s || !sectAfter done s || (decide (s.typ = 9) && done.any (fun e => decide (e.typ = 9))) then some (5, s.tab)
    else if !sectFits s then some (7, s.tab)
    else tableErr b (done ++ [s]) ss

/-- Every required type is present (R53); the offset is the section table's (DESIGN CHOICE, log 10: the spec names no offset
for an absent section). -/
def typesErr (b : List Byte) : Option (Nat × Nat) :=
  let ss := sections b
  if [1, 2, 3, 4, 5, 7, 8, 9].all (fun t => ss.any (fun s => decide (s.typ = t))) then none else some (5, imgTabOff b)

/-- The checks made when the last entry of the section table arrives. -/
def sectTableErr (b : List Byte) : Option (Nat × Nat) :=
  match tableErr b [] (sections b) with
  | some e => some e
  | none => typesErr b

/-! ## Header checks (R68, R71) -/

/-- The first failing check of a list of (holds, error, offset). -/
def firstErr : List (Bool × Nat × Nat) → Option (Nat × Nat)
  | [] => none
  | (ok, e) :: cs => if ok then firstErr cs else some e

/-- DEV_REV.REV and the OPTICS_MASK bit of this device. -/
def devRev : Nat := 1
def opticsBit : Nat := if Config.opticsD2K then 1 else 0

/-- The header checks, made when byte 127 arrives. -/
def headerErr (b : List Byte) : Option (Nat × Nat) :=
  let len := imgLen b
  firstErr [
    (leAt b 0 4 = 0x4E434C46, 1, 0),
    (leAt b 4 2 = 1, 2, 4), (leAt b 6 2 = 0x80, 2, 6),
    (8 ≤ imgSectCount b ∧ imgSectCount b ≤ 256, 2, 0x0C),
    (leAt b 0x0E 2 < 2, 2, 0x0E), (leAt b 0x11 1 < 4, 2, 0x11), (imgKeySlot b < 4, 2, 0x17),
    (0x80 ≤ imgTabOff b ∧ imgTabOff b % 8 = 0 ∧ imgTabOff b + 32 * imgSectCount b ≤ imgSigOff b, 2, 0x24),
    (0x180 ≤ len ∧ len ≤ 0x10000000 ∧ len % 64 = 0, 3, 8), (imgSigOff b + 256 = len, 3, 0x28),
    (leAt b 0x10 1 = 0x51, 4, 0x10), (fld (leAt b 0x11 1) opticsBit 1 = 1, 4, 0x11),
    (leAt b 0x12 2 = 0x1024, 4, 0x12), (leAt b 0x14 1 ≤ devRev, 4, 0x14), (devRev ≤ leAt b 0x15 1, 4, 0x15)]

/-- Byte `o` of the image must be 0x00 by R48, R49 or R54; `b` is what has arrived. -/
def mustBeZero (b : List Byte) (o : Nat) : Bool :=
  if o < 0x80 then decide (0x2C ≤ o)
  else if o < imgTabOff b then true
  else if o < imgTabOff b + 32 * imgSectCount b then false
  else if imgSigOff b ≤ o then
    let k := o - imgSigOff b
    decide ((1 ≤ k ∧ k < 0x10) ∨ 0xD0 ≤ k)
  else !(sections b).any (fun s => decide (s.off ≤ o ∧ o < s.off + s.len))

/-! ## Payload records -/

/-- A table placement record (R56), with the image offset it stands at. -/
structure Place16 where
  id : Nat
  kind : Nat
  slice : Nat
  first : Nat
  count : Nat
  width : Nat
  depth : Nat
  rsv : Nat
  at_ : Nat
  deriving DecidableEq, Repr

def placeAt (b : List Byte) (o : Nat) : Place16 :=
  { id := leAt b o 2, kind := leAt b (o + 2) 1, slice := leAt b (o + 3) 1, first := leAt b (o + 4) 2,
    count := leAt b (o + 6) 2, width := leAt b (o + 8) 1, depth := leAt b (o + 9) 1, rsv := leAt b (o + 10) 6, at_ := o }

/-- The placement records of an image, in image order. -/
def placements (b : List Byte) : List Place16 :=
  ((sections b).filter (fun s => s.typ = 5)).flatMap
    (fun s => (List.range (s.len / 16)).map (fun i => placeAt b (s.off + 16 * i)))

/-- A record is valid on its own (R56, R177, R641). -/
def placeOk (p : Place16) : Bool :=
  decide (p.id < 4096) && decide (p.slice < 8) && decide (p.rsv = 0) &&
  (match p.kind with
   | 0 => decide (1 ≤ p.width ∧ p.width ≤ 8 ∧ 1 ≤ p.depth ∧ p.depth ≤ 12 ∧ p.count = p.width * p.depth
            ∧ p.first / 12 = (p.first + p.count - 1) / 12 ∧ p.first + p.count ≤ 48)
   | 1 => decide (1 ≤ p.count ∧ p.first + p.count ≤ 128 ∧ p.width = 0 ∧ p.depth = 0)
   | 2 => decide (1 ≤ p.count ∧ p.first + p.count ≤ 64 ∧ p.width = 0 ∧ p.depth = 0)
   | _ => false)

/-- Two records of one image contradict each other (R179, R641). -/
def placeClash (p q : Place16) : Bool :=
  decide (p.slice = q.slice) &&
  ((decide (p.kind = q.kind) && decide (p.first < q.first + q.count) && decide (q.first < p.first + p.count))
   || (decide (p.id = q.id) && decide (p.kind ≠ q.kind))
   || (decide (p.id = q.id) && decide (p.kind = 0) && (decide (p.first / 12 = q.first / 12)
        || decide (p.width ≠ q.width) || decide (p.depth ≠ q.depth)))
   || (decide (p.id = q.id) && decide (p.kind = q.kind) && decide (p.kind ≠ 0)))

/-- The first record that contradicts an earlier one. -/
def placesErr (done : List Place16) : List Place16 → Option (Nat × Nat)
  | [] => none
  | p :: ps => if done.any (fun q => placeClash q p) then some (5, p.at_) else placesErr (done ++ [p]) ps

/-- The port plan of an image: byte n describes physical port n (R61). -/
def portPlan (b : List Byte) (n : Nat) : Nat :=
  match (sections b).find? (fun s => s.typ = 9) with
  | some s => byteAt b (s.off + n)
  | none => 0

/-- One 4-byte unit of the queue plan holds no reserved bit (R446 to R450); `a` is its destination address. -/
def planUnitOk (a w : Nat) : Bool :=
  if a < 0x40 then decide (if a = 0 then w < 256 ∧ (w ≤ 78 ∨ w = 255) else w = 0)
  else if a < 0x10000 then decide (w = 0)
  else if a < 0x30000 then
    match a % 16 with
    | 0 => decide (fld w 5 3 = 0 ∧ fld w 15 1 = 0 ∧ fld w 16 16 = 0)
    | 4 => decide (fld w 20 12 = 0)
    | _ => decide (w = 0)
  else if a < 0x40000 then decide (w = 0)
  else true

/-- The checks that need payload `s` alone, made as its byte at `o` arrives: of the record or unit that ends there (R68).
DESIGN CHOICE (log 148): R52 gives PORT_PLAN no unit, and IMG_FAIL_OFFSET names the byte of the port. -/
def payloadErr (b : List Byte) (s : Sect) (o : Nat) : Option (Nat × Nat) :=
  let n := o + 1 - s.off
  let unit := fun (k : Nat) (ok : Nat → Bool) => if n % k = 0 ∧ ok (o + 1 - k) = false then some (5, o + 1 - k) else none
  match s.typ with
  | 5 => unit 16 (fun r =>
      let p := placeAt b r
      placeOk p && !(List.range (n / 16 - 1)).any (fun i => placeClash (placeAt b (s.off + 16 * i)) p))
  | 8 => unit 4 (fun r => planUnitOk (s.dest + (r - s.off)) (leAt b r 4))
  | 9 => unit 1 (fun r => decide (fld (byteAt b r) 2 5 = 0))
  | _ => none

/-! ## The stream check (R68) -/

/-- The checks that can be made when the byte at `o` arrives, in the order of R68. -/
def arriveErr (b : List Byte) (o : Nat) : Option (Nat × Nat) :=
  if (mustBeZero b o && decide (byteAt b o ≠ 0)) = true then some (2, o)
  else if o = 127 then headerErr b
  else if o + 1 = imgTabOff b + 32 * imgSectCount b ∧ 128 ≤ o then sectTableErr b
  else if 128 ≤ o ∧ imgTabOff b + 32 * imgSectCount b ≤ o then
    match (sections b).find? (fun s => decide (s.off ≤ o ∧ o < s.off + s.len)) with
    | some s => payloadErr b s o
    | none => none
  else none

/-- The first check that fails as `n` bytes arrive from offset `o` on. -/
def streamErr (b : List Byte) : Nat → Nat → Option (Nat × Nat)
  | _, 0 => none
  | o, n + 1 =>
    match arriveErr b o with
    | some e => some e
    | none => streamErr b (o + 1) n

/-! ## Structure memories (R45, R47, R52) -/

/-- Byte `a` of a structure memory of a bank: the payload byte that covers it, else 0 (R257, R302, R446). -/
def structByte (b : List Byte) (typ s p inst a : Nat) : Byte :=
  match (sections b).find? (fun x => decide (x.typ = typ) && decide (x.inst = inst) && decide (fld x.sliceMask s 1 = 1)
      && decide (fld x.pipeMask p 1 = 1) && decide (x.dest ≤ a) && decide (a < x.dest + x.len)) with
  | some x => (b.drop (x.off + (a - x.dest))).headD 0
  | none => 0

/-- `n` bytes of a structure memory from `a` on. -/
def structBytes (b : List Byte) (typ s p inst a : Nat) : Nat → List Byte
  | 0 => []
  | n + 1 => structByte b typ s p inst a :: structBytes b typ s p inst (a + 1) n

/-- Parser graph record `n` of an ingress pipeline (R157). -/
def graphRecord (b : List Byte) (s p n : Nat) : List Byte := structBytes b 1 s p 0 (n * 256) 256
/-- HV_LAYOUT record `i` (R163). -/
def layoutRecord (b : List Byte) (s p i : Nat) : List Byte := structBytes b 2 s p 0 (i * 8) 8
/-- Word `w` of the action store of a stage, as a 512-bit number (R256). -/
def stageWord (b : List Byte) (egress : Bool) (s p n w : Nat) : Nat :=
  leNat (structBytes b (if egress then 4 else 3) s p n (w * 64) 64)
/-- Microword `a` of a slice's control store, as a 128-bit number (R299). -/
def aeWord (b : List Byte) (s a : Nat) : Nat := leNat (structBytes b 7 s 0 0 (a * 16) 16)
/-- Bytes of the queue plan, as a number. -/
def planNat (b : List Byte) (a n : Nat) : Nat := leNat (structBytes b 8 0 0 0 a n)

/-- The image that a frame of epoch `e` uses: bank e mod 2 (R640, R47). -/
def Dev.imageOf (d : Dev) (e : Nat) : List Byte := (d.bank (e % 2)).img

/-- The image that runs, if any. -/
def Dev.runImage (d : Dev) : List Byte :=
  match d.epochs.run with
  | some e => d.imageOf e
  | none => []

/-- The running PORT_PLAN byte of a physical port; 0 while no image runs. -/
def Dev.planByte (d : Dev) (port : Nat) : Nat :=
  match d.epochs.run with
  | some _ => portPlan d.runImage port
  | none => 0

/-- Lanes of each logical port under BREAKOUT `b` (R110). -/
def lanesOf (b : Nat) : Nat := 8 / 2 ^ (b % 4)

/-- Sub-port `n` is in use under BREAKOUT `b` (R17). -/
def subInUse (b n : Nat) : Bool := decide (n % lanesOf b = 0)

/-- A logical port is in use under the running breakout (R17, R18). -/
def Dev.lpInUse (d : Dev) (lport : Nat) : Bool :=
  d.epochs.run.isSome && subInUse (d.planByte (physOf lport) % 4) (lport % 8)

/-- Lanes of a logical port under the running breakout; its rate is 200 Gbit/s for each (R110). -/
def Dev.lpLanes (d : Dev) (lport : Nat) : Nat := lanesOf (d.planByte (physOf lport) % 4)

end Sys2Proof.Machine
end

