-- ==== Sys2Proof/Machine/Fuse.lean ====
section
/-! DEFINITION. Fuse-counted settings and the change log (R96 to R106): rows FUSE_ARB_WRITE to FUSE_CHANGE_DONE and
ARB_AUTO_ADVANCE. -/
namespace Sys2Proof.Machine

/-! ## Values read from the log (R97) -/

/-- KIND of a record (R106). -/
def LogRecord.kind (r : LogRecord) : Nat := fld r.w0 0 8
def LogRecord.slotNo (r : LogRecord) : Nat := fld r.w0 8 2
def LogRecord.complete (r : LogRecord) : Bool := decide (fld r.w0 14 1 = 1)

/-- Value of a fuse-counted register: NEW_VALUE of its latest complete record, else its reset value 0. -/
def fuseVal (f : Fuses) (kind : Nat) : Nat :=
  match (f.log.filter (fun r => r.complete && decide (r.kind = kind))).getLast? with
  | some r => r.w1
  | none => 0

/-- Steps of a setting used: a torn record consumes its step (R97). -/
def fuseUsed (f : Fuses) (kind : Nat) : Nat := (f.log.filter (fun r => r.kind = kind)).length

/-- Steps used of key slot `k` by enrolment (KIND 1) or revocation (KIND 2). -/
def keyUsed (f : Fuses) (kind k : Nat) : Bool := f.log.any (fun r => decide (r.kind = kind) && decide (r.slotNo = k))

/-- Slot `k` is enrolled, or revoked: a complete record says so. -/
def keyBit (f : Fuses) (kind k : Nat) : Bool :=
  f.log.any (fun r => r.complete && decide (r.kind = kind) && decide (r.slotNo = k))

def keyEnrolled (f : Fuses) (k : Nat) : Bool := keyBit f 1 k
def keyRevoked (f : Fuses) (k : Nat) : Bool := keyBit f 2 k

/-- A usable slot: enrolled and not revoked. -/
def keyUsable (f : Fuses) (k : Nat) : Bool := keyEnrolled f k && !keyRevoked f k

/-- The fused hash of slot `k`; zeros when none is. -/
def keyHash (f : Fuses) (k : Nat) : List Byte :=
  match f.log.find? (fun r => r.complete && decide (r.kind = 1) && decide (r.slotNo = k)) with
  | some r => r.hash
  | none => List.replicate 48 0

/-- FUSE_KEY_CTRL. -/
def fuseKeyCtrl (f : Fuses) : Nat :=
  (List.range 4).foldl (fun a k => a + b2n (keyEnrolled f k) * 2 ^ k + b2n (keyRevoked f k) * 2 ^ (4 + k)) 0

/-- FUSE_ARB.VALUE, FUSE_LANE_MAP.LOCK and the bits of FUSE_BOOT_POLICY. -/
def Dev.arb (d : Dev) : Nat := fuseVal d.fuses 3
def Dev.laneLock (d : Dev) (k : Nat) : Bool := decide (fld (fuseVal d.fuses 4) k 1 = 1)
def Dev.policy (d : Dev) (bit : Nat) : Bool := decide (fld (fuseVal d.fuses 5) bit 1 = 1)

/-- Steps that a setting has (R96). -/
def fuseSteps (kind : Nat) : Nat := if kind = 3 then 128 else if kind = 4 then 16 else 8

/-- Bits of a fuse-counted register. -/
def fuseMask (kind : Nat) : Nat := if kind = 3 then 0xFF else if kind = 4 then 0xFFFF else 0x7

/-! ## Making a change -/

def Dev.fuseResult (d : Dev) (r : Nat) : Dev := { d with fuses := { d.fuses with result := r } }

/-- Begin a change (R97): the log gains its record with STARTED set, and BUSY is 1 until it completes. -/
def Dev.fuseStart (d : Dev) (kind slot host : Nat) (auto : Bool) (new old : Nat) (hash : List Byte) : Dev :=
  let w0 := packFields [(0, 8, kind), (8, 2, slot), (10, 2, host), (12, 1, b2n auto), (13, 1, 1)]
  { d with fuses := { d.fuses with
      log := d.fuses.log ++ [⟨w0, 0, 0, 0, []⟩]
      busy := true
      job := some ⟨w0 + 2 ^ 14, new, old, d.time.secs % 2 ^ 32, hash⟩ } }

/-- An ARB_AUTO advance that retirement left due will be made: 48 V is present, the running image's SVN exceeds
FUSE_ARB.VALUE, and a step remains (R105). -/
def Dev.arbWill (d : Dev) : Bool :=
  d.loader.arbDue && d.fan.inputHigh && decide (d.arb < imgSvn d.runImage) && decide (fuseUsed d.fuses 3 < fuseSteps 3)

/-- A fuse-counted change is in progress, or an ARB_AUTO advance goes ahead of every other (R98, R105). -/
def Dev.fuseBusy (d : Dev) : Bool := d.fuses.busy || d.arbWill

/-- A host's write to FUSE_ARB, FUSE_LANE_MAP or FUSE_BOOT_POLICY (KIND 3, 4, 5), tested in the order of R100. -/
def Dev.fuseWrite (d : Dev) (kind host v : Nat) : Dev :=
  let v := v &&& fuseMask kind
  let old := fuseVal d.fuses kind
  if d.fuseBusy then d.fuseResult 1
  else if !d.fan.inputHigh then d.fuseResult 2
  else if kind = 3 ∧ v < old then d.fuseResult 3
  else if v = old then d.fuseResult 0
  else if fuseSteps kind ≤ fuseUsed d.fuses kind then d.fuseResult 4
  else d.fuseStart kind 0 host false v old []

/-- The staged key hash, FUSE_KEY_STAGE0 to 11 (R103). -/
def Dev.keyStaged (d : Dev) : List Byte := (List.range 12).flatMap (fun j => leBytes 4 (d.rd R.FUSE_KEY_STAGE j))

/-- FUSE_KEY_CMD.ENROL (R101). -/
def Dev.fuseEnrol (d : Dev) (host slot : Nat) : Dev :=
  if d.fuseBusy then d.fuseResult 1
  else if !d.fan.inputHigh then d.fuseResult 2
  else if keyUsed d.fuses 1 slot || keyRevoked d.fuses slot then d.fuseResult 4
  else d.fuseStart 1 slot host false (leNat (d.keyStaged.take 4)) 0 d.keyStaged

/-- FUSE_KEY_CMD.REVOKE (R101). -/
def Dev.fuseRevoke (d : Dev) (host slot : Nat) : Dev :=
  if d.fuseBusy then d.fuseResult 1
  else if !d.fan.inputHigh then d.fuseResult 2
  else if keyUsable d.fuses slot && !(List.range 4).any (fun k => decide (k ≠ slot) && keyUsable d.fuses k) then
    d.fuseResult 5
  else if keyUsed d.fuses 2 slot then d.fuseResult 4
  else d.fuseStart 2 slot host false (fuseKeyCtrl d.fuses ||| 2 ^ (4 + slot)) (fuseKeyCtrl d.fuses) []

/-- A host's write to FUSE_KEY_CMD: both or neither of ENROL and REVOKE is BAD_CMD (R104), after BUSY and NO_POWER. -/
def Dev.fuseKeyCmd (d : Dev) (host v : Nat) : Dev :=
  match fld v 8 1, fld v 9 1 with
  | 1, 0 => d.fuseEnrol host (v % 4)
  | 0, 1 => d.fuseRevoke host (v % 4)
  | _, _ => if d.fuseBusy then d.fuseResult 1 else if !d.fan.inputHigh then d.fuseResult 2 else d.fuseResult 7

/-- FUSE_CHANGE_DONE (R97): the record's values and COMPLETE are written, BUSY clears with RESULT OK. -/
def Dev.fuseDone (d : Dev) : Dev :=
  match d.fuses.job with
  | none => d
  | some r => { d with fuses := { d.fuses with log := d.fuses.log.dropLast ++ [r], busy := false, job := none, result := 0 } }

/-- 48 V is lost during a change: the record is left torn (R97, R550). -/
def Dev.fuseTear (d : Dev) : Dev :=
  let d := { d with loader := { d.loader with arbDue := false } }
  if d.fuses.busy then { d with fuses := { d.fuses with busy := false, job := none, result := 6 } } else d

/-- ARB_AUTO_ADVANCE (R105): the advance that retirement left due, made once BUSY is 0; without 48 V it is cancelled. DESIGN
CHOICE (log 151): the record's HOST, which R106 gives to no host port's change, is 0. -/
def Dev.arbAdvance (d : Dev) : Dev :=
  if d.loader.arbDue && !d.fuses.busy then
    let d := { d with loader := { d.loader with arbDue := false } }
    let svn := imgSvn d.runImage
    if svn ≤ d.arb ∨ d.fan.inputHigh = false then d
    else if fuseSteps 3 ≤ fuseUsed d.fuses 3 then d.raiseBit R.IMG_EVENTS 0 5
    else d.fuseStart 3 0 0 true svn d.arb []
  else d

end Sys2Proof.Machine
end

