-- ==== Sys2Proof/Machine/Ports.lean ====
section
/-! DEFINITION. Logical ports, lane maps, FEC, receive checks and laser sources (03_ports_optics). -/
namespace Sys2Proof.Machine

/-! ## Eligibility and lanes -/

/-- A logical port is eligible (R117): its port is enabled, its sub-port in use, ADMIN 1. -/
def Dev.lpEligible (d : Dev) (lport : Nat) : Bool :=
  decide (fld (d.planByte (physOf lport)) 7 1 = 1) && d.lpInUse lport && d.bitOf R.LP_CTRL lport 0

/-- Lane `j` (0-7) of the physical port belongs to the logical port (R110). -/
def Dev.usesLane (d : Dev) (lport j : Nat) : Bool :=
  decide (lport % 8 ≤ j) && decide (j < lport % 8 + d.lpLanes lport)

/-- Some logical port of engine `k` that uses lane `j` is not DISABLED (R128). -/
def Dev.laneUser (d : Dev) (k j : Nat) : Bool :=
  (List.range 32).any (fun n => decide ((d.lp (32 * k + n)).st ≠ .disabled) && d.usesLane (32 * k + n) j)

/-- A lane map is a permutation of 0-7 (R114). -/
def lmapOk (v : Nat) : Bool := (List.range 8).all (fun f => (List.range 8).any (fun l => decide (fld v (3 * l) 3 = f)))

/-- Every logical port of a physical port is DISABLED. -/
def Dev.portIdle (d : Dev) (port : Nat) : Bool := (List.range 8).all (fun n => decide ((d.lp (8 * port + n)).st = .disabled))

/-- Every logical port of a slice is DISABLED (R542). -/
def Dev.sliceIdle (d : Dev) (s : Nat) : Bool := (List.range 64).all (fun n => decide ((d.lp (64 * s + n)).st = .disabled))

/-! ## Laser sources (R127 to R135) -/

def bitMaskSet (m j : Nat) : Nat := m ||| 2 ^ j
def bitMaskClr (m j : Nat) : Nat := if fld m j 1 = 1 then m - 2 ^ j else m
def bitOn (m j : Nat) : Bool := decide (fld m j 1 = 1)

/-- Count the lit time of engine `k` up to now (R134). -/
def Dev.accrueLit (d : Dev) (k : Nat) : Dev :=
  let e := d.eng k
  let dt := d.now - e.litMark
  let d := forN 16 (fun n d =>
    if bitOn (if n < 8 then e.litPri else e.litSpr) (n % 8) then
      let t := SMap.get 0 (d.eng k).litNs n + dt
      let d := d.inc (if n < 8 then R.OE_PRI_SECS else R.OE_SPR_SECS) (k * 8 + n % 8) (t / 10 ^ 9)
      d.setEng k { d.eng k with litNs := SMap.set 0 (d.eng k).litNs n (t % 10 ^ 9) }
    else d) d
  d.setEng k { d.eng k with litMark := d.now }

/-- The selected source of lane `j` is lit. -/
def Engine.lit (e : Engine) (j : Nat) : Bool := bitOn (if bitOn e.spare j then e.litSpr else e.litPri) j

/-- Light the selected source `j` of engine `k`. -/
def Dev.lightSource (d : Dev) (k j : Nat) : Dev :=
  let d := d.accrueLit k
  let e := d.eng k
  let e := { e with darkAt := SMap.erase e.darkAt j }
  d.setEng k (if bitOn e.spare j then { e with litSpr := bitMaskSet e.litSpr j } else { e with litPri := bitMaskSet e.litPri j })

/-- Both sources `j` of engine `k` go dark. -/
def Dev.darkSource (d : Dev) (k j : Nat) : Dev :=
  let d := d.accrueLit k
  let e := d.eng k
  d.setEng k { e with litPri := bitMaskClr e.litPri j, litSpr := bitMaskClr e.litSpr j, darkAt := SMap.erase e.darkAt j }

/-- The egress MACs that use lane `j` of engine `k` start no new frame, or start frames again (R130). -/
def Dev.quietLane (d : Dev) (k j : Nat) (quiet : Bool) : Dev :=
  forN 32 (fun n d =>
    let p := 32 * k + n
    if d.usesLane p j && !(quiet && decide ((d.lp p).st = .disabled)) then d.setLp p { d.lp p with txQuiet := quiet } else d) d

/-- Every source of engine `k` goes dark at once, and a failover in progress ends; its quiet interval with it. -/
def Dev.darkEngine (d : Dev) (k : Nat) : Dev :=
  let d := d.accrueLit k
  let was := (d.eng k).failover
  let d := d.setEng k { d.eng k with litPri := 0, litSpr := 0, darkAt := [], failover := none }
  match was with
  | some f => if f.phase = .quiet then d.quietLane k f.src false else d
  | none => d

/-- Sources that no port uses any more go dark 1 ms from now (R128). -/
def Dev.darkLater (d : Dev) (k : Nat) : Dev :=
  forN 8 (fun j d =>
    let e := d.eng k
    if e.lit j && !d.laneUser k j && decide (SMap.get 0 e.darkAt j = 0) then
      d.setEng k { e with darkAt := SMap.set 0 e.darkAt j (d.now + 1000000) }
    else d) d

/-! ## Logical port states (R117) -/

/-- The frame being received ends there, truncated and bad (R119): the newest frame of the port, if its bytes have not all
been handed over. -/
def Dev.rxTruncate (d : Dev) (lport : Nat) : Dev :=
  match (d.frames.filter (fun e => match e.2 with
      | some f => decide (f.lport = lport) && decide (f.src = .port) && decide (f.mac ≠ [])
      | none => false)).getLast? with
  | some (k, some f) => d.setFrame k { f with mac := [], macBad := 3 }
  | _ => d

/-- A logical port goes to DISABLED: a frame in reception ends, link down is counted from UP and FAULT, its sources and its slice's MAC domain
may fall idle (R117, R128, R542). -/
def Dev.lpDisable (d : Dev) (lport : Nat) : Dev :=
  let x := d.lp lport
  if x.st = .disabled then d else
  let d := if x.st = .up ∨ x.st = .fault then (d.raiseBit R.LP_EVENTS lport 1).inc R.LP_LINK_DOWNS lport 1 else d
  let d := (d.setLp lport { x with st := .disabled, txQuiet := false, rfRx := false, aligned := false }).rxTruncate lport
  let d := d.darkLater (engineOf lport)
  let s := sliceOf lport
  if d.sliceIdle s then d.setSlc s { d.slc s with macIdleSince := d.now } else d

/-- PORT_DISABLE (R117): the port is not eligible, or its engine is over temperature. -/
def Dev.portDisable (d : Dev) (lport : Nat) : Dev :=
  if (!d.lpEligible lport || (d.eng (engineOf lport)).overtemp) then d.lpDisable lport else d

/-- Sample the lane maps of a physical port (R113, R114). -/
def Dev.lmapSample (d : Dev) (port : Nat) : Dev :=
  let tx := d.rd R.PP_LMAP_TX port
  let rx := d.rd R.PP_LMAP_RX port
  d.setPp port { d.pp port with mapTx := tx, mapRx := rx, lmapPending := false, lmapBad := !(lmapOk tx && lmapOk rx) }

/-- PORT_LIGHT (R117, R113, R545): DISABLED to LIGHT, with the map sampled when the physical port was idle, its sources
lit on demand and the slice's MAC domain started. -/
def Dev.portLight (d : Dev) (lport : Nat) : Dev :=
  let port := physOf lport
  let k := engineOf lport
  if decide ((d.lp lport).st = .disabled) && d.lpEligible lport && !(d.eng k).overtemp && decide (d.fan.st = .ready) then
    let d := if d.portIdle port then d.lmapSample port else d
    if (d.pp port).lmapBad then d else
    let d := d.setLp lport { d.lp lport with st := .light }
    let d := forN 8 (fun j d => if d.usesLane lport j then d.lightSource k j else d) d
    let s := sliceOf lport
    d.setSlc s { d.slc s with macRun := true }
  else d

/-- SOURCES_STABLE (R117): LIGHT to ACQUIRE once every source the port uses is lit. -/
def Dev.sourcesStable (d : Dev) (lport : Nat) : Dev :=
  let e := d.eng (engineOf lport)
  if decide ((d.lp lport).st = .light) && (List.range 8).all (fun j => !d.usesLane lport j || e.lit j) then
    d.setLp lport { d.lp lport with st := .acquire }
  else d

/-- The lanes of a logical port as a mask. -/
def Dev.laneMask (d : Dev) (lport : Nat) : Nat :=
  (List.range 8).foldl (fun m j => if d.usesLane lport j then bitMaskSet m j else m) 0

/-- Per-lane receive status of the lanes of a logical port (R145): optical signal detected, clock recovery locked. -/
def Dev.laneSees (d : Dev) (lport signal cdr : Nat) : Dev :=
  let port := physOf lport
  let m := d.laneMask lport
  let put := fun (old new : Nat) => (old &&& (m ^^^ 0xFF)) ||| (new &&& m)
  d.setPp port { d.pp port with signal := put (d.pp port).signal signal, cdrLock := put (d.pp port).cdrLock cdr }

/-- PCS_ALIGNED (R117, R145): what the lanes of a port receive. With signal on all of them, clock recovery locked on all, and
`deskewed`, the PCS is aligned: ACQUIRE goes to VERIFY with UP_DELAY started; in FAULT alignment is back. -/
def Dev.pcsAligned (d : Dev) (lport signal cdr : Nat) (deskewed : Bool) : Dev :=
  let m := d.laneMask lport
  let d := d.laneSees lport signal cdr
  let x := d.lp lport
  if signal &&& m ≠ m ∨ cdr &&& m ≠ m ∨ deskewed = false then d
  else match x.st with
    | .acquire => d.setLp lport { x with st := .verify, aligned := true, timer := d.now }
    | .fault => d.setLp lport { x with aligned := true }
    | _ => d

/-- ALIGNMENT_LOST (R117, R119, R145): VERIFY to ACQUIRE, UP to FAULT with DOWN_DELAY started; reception that still went on is
cut. `signal` and `cdr` are what the lanes of the port still receive. -/
def Dev.alignmentLost (d : Dev) (lport signal cdr : Nat) : Dev :=
  let d := d.laneSees lport signal cdr
  let x := d.lp lport
  match x.st with
  | .disabled => d
  | .verify => d.setLp lport { x with st := .acquire, aligned := false }
  | .up => (d.setLp lport { x with st := .fault, aligned := false, timer := d.now }).rxTruncate lport
  | .fault => (d.setLp lport { x with aligned := false }).rxTruncate lport
  | _ => d.setLp lport { x with aligned := false }

/-- REMOTE_FAULT (R117): received, or with `on` false no longer received. In VERIFY the UP_DELAY timer starts again for as long
as it is received. -/
def Dev.remoteFault (d : Dev) (lport : Nat) (on : Bool) : Dev :=
  let x := d.lp lport
  match x.st, on with
  | .disabled, _ => d
  | .verify, b => d.setLp lport { x with rfRx := b, timer := if b || x.rfRx then d.now else x.timer }
  | .up, true => d.setLp lport { x with rfRx := true, st := .fault, timer := d.now }
  | _, b => d.setLp lport { x with rfRx := b }

/-- UP_DELAY_EXPIRE (R117). -/
def Dev.upDelay (d : Dev) (lport : Nat) : Dev :=
  let x := d.lp lport
  if x.st = .verify ∧ x.rfRx = false ∧ x.timer + d.fldOf R.LP_TIMERS lport 0 8 * 1000000 ≤ d.now then
    (d.setLp lport { x with st := .up, fecStart := d.now, fecSyms := 0 }).raiseBit R.LP_EVENTS lport 0
  else d

/-- DOWN_DELAY of a port in ns. -/
def Dev.downDelay (d : Dev) (lport : Nat) : Nat := d.fldOf R.LP_TIMERS lport 16 16 * 1000

/-- GLITCH (R117): alignment held and no remote fault before DOWN_DELAY elapses. -/
def Dev.glitch (d : Dev) (lport : Nat) : Dev :=
  let x := d.lp lport
  if x.st = .fault ∧ x.aligned = true ∧ x.rfRx = false ∧ d.now < x.timer + d.downDelay lport then
    ((d.setLp lport { x with st := .up }).raiseBit R.LP_EVENTS lport 2).inc R.LP_GLITCHES lport 1
  else d

/-- DOWN_DELAY_EXPIRE (R117). -/
def Dev.downExpire (d : Dev) (lport : Nat) : Dev :=
  let x := d.lp lport
  if x.st = .fault ∧ x.timer + d.downDelay lport ≤ d.now then
    ((d.setLp lport { x with st := .acquire }).raiseBit R.LP_EVENTS lport 1).inc R.LP_LINK_DOWNS lport 1
  else d

/-- FEC_DEG_WINDOW (R123, R125): what the PCS decoded since the last such event, and the window's verdict when it ends.
`syms` are the corrected symbols of each lane of the logical port, lowest lane first. -/
def Dev.fecWindow (d : Dev) (lport cw corr uncorr : Nat) (syms : List Nat) : Dev :=
  let total := syms.foldl (· + ·) 0
  let d := (((d.inc R.LP_FEC_CW lport cw).inc R.LP_FEC_CORR_CW lport corr).inc R.LP_FEC_UNCORR_CW lport uncorr).inc
    R.LP_FEC_CORR_SYM lport total
  let d := forN (d.lpLanes lport) (fun j d => d.inc R.PP_LANE_SYMERR (lport + j) (syms.getD j 0)) d
  let x := { d.lp lport with fecSyms := (d.lp lport).fecSyms + total }
  let w := d.fldOf R.LP_FEC_DEG lport 0 8
  if w = 0 then d.setLp lport { x with fecSyms := 0, fecStart := d.now }
  else if d.now < x.fecStart + w * 1000000 then d.setLp lport x
  else
    let next := { x with fecSyms := 0, fecStart := d.now }
    if d.fldOf R.LP_FEC_DEG lport 8 12 * 1024 ≤ x.fecSyms then
      (d.setLp lport { next with fecDegraded := true }).raiseBit R.LP_EVENTS lport 3
    else if x.fecSyms ≤ d.fldOf R.LP_FEC_DEG lport 20 12 * 1024 then
      (d.setLp lport { next with fecDegraded := false }).raiseBit R.LP_EVENTS lport 4
    else d.setLp lport next

/-! ## Receive MAC (R108, R118, R124, R126, R137, R138) -/

/-- A write to LP_FEC_DEG: a WINDOW_MS that was 0 starts the first window anew (R125). -/
def Dev.fecDegWrite (d : Dev) (lport v : Nat) : Dev :=
  let off := decide (d.fldOf R.LP_FEC_DEG lport 0 8 = 0)
  let d := d.wr R.LP_FEC_DEG lport v
  if off then d.setLp lport { d.lp lport with fecSyms := 0, fecStart := d.now } else d

/-- LP_CTRL.MAX_FRAME; a value below 64 acts as 64 (R146). -/
def Dev.maxFrame (d : Dev) (lport : Nat) : Nat := max 64 (d.fldOf R.LP_CTRL lport 16 14)

/-- A time of the time unit moved by a signed count of 2^-16 ns: seconds, nanoseconds, fraction (R137). DESIGN CHOICE (log 157):
a time before 0 s is 0. -/
def adjustTime (secs ns frac16 adj : Nat) : Nat × Nat × Nat :=
  let t : Int := ((secs * 10 ^ 9 + ns) * 65536 + frac16 : Nat) + sext 32 adj
  let n := t.toNat
  (n / 65536 / 10 ^ 9, n / 65536 % 10 ^ 9, n % 65536)

/-- The frame check sequence of a received frame is right. -/
def fcsGood (bs : List Byte) : Bool := decide (bs.drop (bs.length - 4) = fcsBytes (bs.take (bs.length - 4)))

/-- The bad reason that the receive MAC finds (R126): oversize before FCS error; 0 none. -/
def Dev.rxBad (d : Dev) (lport : Nat) (bs : List Byte) (fecUncorr : Bool) : Nat :=
  if d.maxFrame lport < bs.length then 2 else if fecUncorr || !fcsGood bs then 1 else 0

/-- Count a frame at its end at the receive MAC: good, or under its fault (R124, R126, R119). -/
def Dev.rxCount (d : Dev) (lport len bad : Nat) : Dev :=
  match bad with
  | 0 => (d.inc R.LP_RX_FRAMES lport 1).inc R.LP_RX_BYTES lport len
  | 1 => d.inc R.LP_RX_FCS_ERR lport 1
  | 2 => d.inc R.LP_RX_OVERSIZE lport 1
  | _ => d.inc R.LP_RX_TRUNC lport 1

/-- The receive MAC delimits a frame on a logical port that is UP. Runts and MAC control frames end here; PFC frames go to the
traffic manager; every other frame waits to be handed to the hopper segment by segment. -/
def Dev.rxAccept (d : Dev) (lport : Nat) (bs : List Byte) (fecUncorr : Bool) : Dev :=
  if (d.lp lport).st ≠ .up then d
  else if bs.length < 64 then d.inc R.LP_RX_RUNT lport 1
  else
    let bad := d.rxBad lport bs fecUncorr
    if beAt bs 12 2 = 0x8808 then
      if bad ≠ 0 then d.rxCount lport bs.length bad
      else if beAt bs 14 2 = 0x0101 then
        { (d.rxCount lport bs.length 0) with pfcRx := d.pfcRx ++ [(lport, bs, d.now)] }
      else d.inc R.LP_RX_CTRL_DROPS lport 1
    else
      let t := adjustTime d.time.secs d.time.ns d.time.frac16 (d.rd R.LP_TS_RX_ADJ lport)
      let f : Frame := {
        src := .port, lport := lport, slice := sliceOf lport, pipe := pipeOf lport % 4, place := .mac,
        mac := bs, macBad := bad, tsSecs := t.1, tsNs := t.2.1, tsFrac := t.2.2,
        ctx := lport % 16 }
      { (d.setFrame d.nextFid f) with nextFid := d.nextFid + 1 }

/-- RX_FRAME: a frame comes in by light, which LP_CTRL.LOOPBACK ignores (R146). -/
def Dev.rxFrame (d : Dev) (lport : Nat) (bs : List Byte) (fecUncorr : Bool) : Dev :=
  if d.bitOf R.LP_CTRL lport 2 then d else d.rxAccept lport bs fecUncorr

/-- A transmit MAC sends a frame: it leaves on the wire, and under LP_CTRL.LOOPBACK it comes back to the receive MAC of the
same logical port in the same step (R146; DESIGN CHOICE, log 35). -/
def Dev.emit (d : Dev) (lport : Nat) (bs : List Byte) (stomped : Bool) : Dev :=
  let d := { d with wire := WireFrame.mk lport bs stomped :: d.wire }
  if d.bitOf R.LP_CTRL lport 2 then d.rxAccept lport bs stomped else d

/-! ## Source events and failover (R128 to R135) -/

/-- SOURCE_DARK (R128): the 1 ms of source `j` has passed and nothing uses it. -/
def Dev.sourceDark (d : Dev) (k j : Nat) : Dev :=
  let t := SMap.get 0 (d.eng k).darkAt j
  if t ≠ 0 ∧ t ≤ d.now then
    if d.laneUser k j then d.setEng k { d.eng k with darkAt := SMap.erase (d.eng k).darkAt j } else d.darkSource k j
  else d

/-- A failover request that R132 ignores. -/
def Engine.ignores (e : Engine) (j : Nat) (toSpare : Bool) : Bool :=
  decide (bitOn e.spare j = toSpare) || (!toSpare && bitOn e.failed j) || (toSpare && bitOn e.spareDeg j)

/-- Request a planned failover (R132). -/
def Dev.reqFailover (d : Dev) (k j : Nat) (toSpare : Bool) : Dev :=
  let e := d.eng k
  if e.ignores j toSpare then d else d.setEng k { e with requests := e.requests ++ [(j, toSpare)] }

/-- A write to OE_FAILOVER_CMD (R144). -/
def Dev.failoverCmd (d : Dev) (k v : Nat) : Dev :=
  match fld v 8 1, fld v 9 1 with
  | 1, 0 => d.reqFailover k (v % 8) true
  | 0, 1 => d.reqFailover k (v % 8) false
  | _, _ => d

/-- The selector of source `j` moves and the failover is counted (R130, R132). -/
def Dev.selectorMove (d : Dev) (k j : Nat) (toSpare : Bool) : Dev :=
  let d := d.accrueLit k
  let e := d.eng k
  let wasLit := e.lit j
  let e := { e with
    spare := if toSpare then bitMaskSet e.spare j else bitMaskClr e.spare j
    litPri := if toSpare then bitMaskClr e.litPri j else if wasLit then bitMaskSet e.litPri j else e.litPri
    litSpr := if toSpare then (if wasLit then bitMaskSet e.litSpr j else e.litSpr) else bitMaskClr e.litSpr j
    badSamples := SMap.erase (SMap.erase e.badSamples j) (8 + j) }
  ((d.setEng k e).raiseBit R.OE_EVENTS k 0).inc R.OE_FAILOVERS k 1

/-- FAILOVER_START (R130, R132): the oldest request begins; a dark source changes its selector at once. -/
def Dev.failoverStart (d : Dev) (k : Nat) : Dev :=
  let e := d.eng k
  match e.failover, e.requests with
  | none, (j, toSpare) :: rest =>
    let d := d.setEng k { e with requests := rest }
    if e.ignores j toSpare then d
    else if !e.lit j then d.selectorMove k j toSpare
    else
      let d := d.accrueLit k
      let e := d.eng k
      d.setEng k { e with
        failover := some ⟨j, toSpare, .started, d.now⟩
        litSpr := if toSpare then bitMaskSet e.litSpr j else e.litSpr
        litPri := if toSpare then e.litPri else bitMaskSet e.litPri j }
  | _, _ => d

/-- FAILOVER_POWER_CHECK (R130): 500 us after the trigger; `power` is what the new source gives, in 10 uW. DESIGN CHOICE (log
155): R130 names no flag or event for a failover back to the primary whose check fails; the primary is turned off. -/
def Dev.failoverCheck (d : Dev) (k power : Nat) : Dev :=
  let e := d.eng k
  match e.failover with
  | some ⟨j, toSpare, .started, since⟩ =>
    if d.now < since + 500000 then d
    else if power < d.fldOf R.OE_POWER_MIN k 0 16 then
      let d := d.accrueLit k
      let e := { d.eng k with failover := none }
      if toSpare then
        (d.setEng k { e with litSpr := bitMaskClr e.litSpr j, spareDeg := bitMaskSet e.spareDeg j }).raiseBit R.OE_EVENTS k 3
      else d.setEng k { e with litPri := bitMaskClr e.litPri j }
    else (d.setEng k { e with failover := some ⟨j, toSpare, .quiet, since⟩ }).quietLane k j true
  | _ => d

/-- FAILOVER_SWITCH (R130): the selector switches and frames resume. -/
def Dev.failoverSwitch (d : Dev) (k : Nat) : Dev :=
  match (d.eng k).failover with
  | some ⟨j, toSpare, .quiet, _⟩ =>
    ((d.setEng k { d.eng k with failover := none }).selectorMove k j toSpare).quietLane k j false
  | _ => d

/-- The output power of the selected source `j` is below OE_POWER_MIN.FAIL (R131, R133). -/
def Dev.sourceFails (d : Dev) (k j : Nat) : Dev :=
  let e := d.eng k
  if bitOn e.spare j then (d.setEng k { e with spareDeg := bitMaskSet e.spareDeg j }).raiseBit R.OE_EVENTS k 3
  else
    let d := d.accrueLit k
    let e := d.eng k
    let mine := match e.failover with | some f => decide (f.src = j) | none => false
    let d := d.setEng k { e with
      failed := bitMaskSet e.failed j, spare := bitMaskSet e.spare j
      litPri := bitMaskClr e.litPri j, litSpr := bitMaskSet e.litSpr j
      failover := if mine then none else e.failover
      badSamples := SMap.erase (SMap.erase e.badSamples j) (8 + j) }
    let d := if mine then d.quietLane k j false else d
    (d.raiseBit R.OE_EVENTS k 1).inc R.OE_ABRUPT_FAILOVERS k 1

/-- A power in 10 uW is below OE_POWER_MIN.FAIL. -/
def Dev.belowFail (d : Dev) (k power : Nat) : Bool := decide (power < d.fldOf R.OE_POWER_MIN k 16 16)

/-- SOURCE_ABRUPT_FAIL (R131, R133): the engine's fast detector finds the output power of the selected lit source `j` at
`power`, in 10 uW. -/
def Dev.abruptFail (d : Dev) (k j power : Nat) : Dev :=
  if (d.eng k).lit j && d.belowFail k power then d.sourceFails k j else d

/-- One more sample for a count of consecutive samples that meet a condition (R129), up to 1,000. -/
def Dev.badSample (d : Dev) (k i : Nat) (bad : Bool) : Bool × Dev :=
  let e := d.eng k
  let old := SMap.get 0 e.badSamples i
  let n := if bad then min 1000 (old + 1) else 0
  (decide (n = 1000 ∧ old ≠ 1000), d.setEng k { e with badSamples := SMap.set 0 e.badSamples i n })

/-- SOURCE_MONITOR_SAMPLE (R129, R131): one sample of the selected source `j`, in 10 uA and 10 uW. -/
def Dev.monitorSample (d : Dev) (k j bias power : Nat) : Dev :=
  let e := d.eng k
  if !e.lit j then d else
  let d := d.wr R.OE_SRC_MON (k * 8 + j) (packFields [(0, 16, bias), (16, 16, power)])
  if d.belowFail k power then d.sourceFails k j
  else if bitOn e.spare j then d
  else
    let (x, d) := d.badSample k j (decide (d.fldOf R.OE_BIAS_LIMIT k 0 16 < bias))
    let (y, d) := d.badSample k (8 + j) (decide (power < d.fldOf R.OE_POWER_MIN k 0 16))
    if x || y then
      let d := (d.setEng k { d.eng k with degraded := bitMaskSet (d.eng k).degraded j }).raiseBit R.OE_EVENTS k 2
      if d.bitOf R.OE_FAILOVER_CTRL k 0 then d.reqFailover k j true else d
    else d

/-- Save the lit-second counts of engine `k` to its non-volatile memory (R134). -/
def Dev.saveLit (d : Dev) (k : Nat) : Dev :=
  let d := d.accrueLit k
  let saved := (List.range 16).foldl (fun m n =>
    SMap.set 0 m n (d.rd64 (if n < 8 then R.OE_PRI_SECS else R.OE_SPR_SECS) (k * 8 + n % 8))) ([] : SMap Nat)
  d.setEng k { d.eng k with savedSecs := saved, lastSave := d.now }

/-- LIT_SECONDS_SAVE (R134): every 600 s. -/
def Dev.litSave (d : Dev) (k : Nat) : Dev :=
  if (d.eng k).lastSave + 600 * 10 ^ 9 ≤ d.now then d.saveLit k else d

/-- OE_TEMP takes a value in 0.125 C (R135): at 95.0 C the engine turns every source off, below 90.0 C OVERTEMP clears. -/
def Dev.oeTemp (d : Dev) (k t : Nat) : Dev :=
  let d := d.wr R.OE_TEMP k (t % 4096)
  if 760 ≤ sext 12 t ∧ (d.eng k).overtemp = false then
    (d.setEng k { d.eng k with overtemp := true }).darkEngine k |>.raiseBit R.OE_EVENTS k 4
  else if sext 12 t < 720 then d.setEng k { d.eng k with overtemp := false } else d

/-! ## Lane-map memory (R115, R116) -/

/-- OE_LMAP_CMD.SAVE: rejected with LMAP_LOCKED_WRITE while the engine is locked; ignored while a save runs (log 11). -/
def Dev.lmapSave (d : Dev) (k : Nat) : Dev :=
  if d.laneLock k then d.raiseBit R.OE_EVENTS k 5
  else if (d.eng k).saving.isSome then d
  else d.setEng k { d.eng k with saving := some ((List.range 8).map (fun n =>
    d.rd (if n % 2 = 0 then R.PP_LMAP_TX else R.PP_LMAP_RX) (4 * k + n / 2))) }

/-- LMAP_SAVE_DONE (R115): BUSY clears; a save that succeeded sets LMAP_SAVED. -/
def Dev.lmapSaveDone (d : Dev) (k : Nat) (failed : Bool) : Dev :=
  match (d.eng k).saving with
  | none => d
  | some vs =>
    let e := { d.eng k with saving := none, saveFailed := failed }
    if failed then d.setEng k e
    else
      let maps := (List.range 8).foldl (fun m n => SMap.set 0xFAC688 m n (vs.getD n 0xFAC688)) e.nvMaps
      (d.setEng k { e with nvMaps := maps }).raiseBit R.OE_EVENTS k 6

/-- A write to PP_LMAP_TX or PP_LMAP_RX (R113, R116). -/
def Dev.lmapWrite (d : Dev) (r : RegInfo) (port v : Nat) : Dev :=
  if d.laneLock (port / 4) then d.raiseBit R.OE_EVENTS (port / 4) 5
  else
    let d := d.wr r port (v &&& 0xFFFFFF)
    if d.portIdle port then d else d.setPp port { d.pp port with lmapPending := true }

/-- Load the lane maps of every port from non-volatile memory (R115). -/
def Dev.lmapLoad (d : Dev) : Dev :=
  forN 64 (fun port d =>
    let m := (d.eng (port / 4)).nvMaps
    (d.wr R.PP_LMAP_TX port (SMap.get 0xFAC688 m (2 * (port % 4)))).wr R.PP_LMAP_RX port
      (SMap.get 0xFAC688 m (2 * (port % 4) + 1))) d

/-- TS_FIFO_READ (R140): the value of LP_TSFIFO_W0, with the entry's time copied into W1 to W3 and the entry removed. -/
def Dev.tsFifoRead (d : Dev) (lport : Nat) : Nat × Dev :=
  let x := d.lp lport
  match x.tsFifo with
  | [] => (0, ((d.wr R.LP_TSFIFO_W1 lport 0).wr R.LP_TSFIFO_W2 lport 0).wr R.LP_TSFIFO_W3 lport 0)
  | e :: es =>
    let d := d.setLp lport { x with tsFifo := es }
    (2 ^ 31 + e.id % 65536,
      ((d.wr R.LP_TSFIFO_W1 lport e.ns).wr R.LP_TSFIFO_W2 lport (e.secs % 2 ^ 32)).wr R.LP_TSFIFO_W3 lport
        (packFields [(0, 16, e.secs / 2 ^ 32), (16, 16, e.frac)]))

/-- LP_STATUS (R146). -/
def Dev.lpStatus (d : Dev) (lport : Nat) : Nat :=
  let x := d.lp lport
  let code := match x.st with
    | .disabled => 0 | .light => 1 | .acquire => 2 | .verify => 3 | .up => 4 | .fault => 5
  packFields [(0, 3, code), (4, 1, b2n x.aligned), (5, 1, b2n x.rfRx), (6, 1, b2n x.fecDegraded), (7, 1, b2n (d.lpInUse lport))]

/-- PP_STATUS (R145). -/
def Dev.ppStatus (d : Dev) (port : Nat) : Nat :=
  let x := d.pp port
  let pb := d.planByte port
  packFields [(1, 1, fld pb 7 1), (2, 2, pb % 4), (4, 1, b2n x.lmapBad), (5, 1, b2n x.lmapPending), (16, 8, x.signal), (24, 8, x.cdrLock)]

/-- OE_STATUS and OE_SRC_SEL (R144). DESIGN CHOICE (log 154): NVM_OK is 1; no rule says what would clear it. -/
def Dev.oeStatus (d : Dev) (k : Nat) : Nat :=
  let e := d.eng k
  packFields [(0, 1, b2n (decide (e.litPri ≠ 0 ∨ e.litSpr ≠ 0))), (1, 1, b2n (d.laneLock k)), (2, 1, b2n e.overtemp), (3, 1, 1)]
def Dev.oeSrcSel (d : Dev) (k : Nat) : Nat :=
  let e := d.eng k
  packFields [(0, 8, e.spare), (8, 8, e.failed), (16, 8, e.degraded), (24, 8, e.spareDeg)]

end Sys2Proof.Machine
end

