-- ==== Sys2Proof/Machine/Hopper.lean ====
section
/-! DEFINITION. The hopper (R147 to R155), frames leaving the ingress side, and the ingress slot arbiter (R30 to R35). -/
namespace Sys2Proof.Machine

/-- Index of the hopper of a logical port (its physical port). -/
def hopOf (lport : Nat) : Nat := lport / 8

/-- Change one hopper. -/
def Dev.modHop (d : Dev) (q : Nat) (f : Hopper → Hopper) : Dev := d.setHop q (f (d.hop q))

/-- Change one frame, if it is there. -/
def Dev.modFrame (d : Dev) (fid : Nat) (g : Frame → Frame) : Dev :=
  match d.frame fid with
  | some f => d.setFrame fid (g f)
  | none => d

/-- Frame numbers in order, of the frames that meet a test. -/
def Dev.framesBy (d : Dev) (p : Frame → Bool) : List Nat :=
  d.frames.filterMap (fun e => match e.2 with | some f => if p f then some e.1 else none | none => none)

/-- Put a frame number in by its order (R30). -/
def putByOrder (x : Nat × Nat) : List (Nat × Nat) → List (Nat × Nat)
  | [] => [x]
  | y :: ys => if x.1 < y.1 then x :: y :: ys else y :: putByOrder x ys

/-- Frame numbers of the frames that meet a test, in the order of their lane grants. -/
def Dev.framesInOrder (d : Dev) (p : Frame → Bool) : List Nat :=
  ((d.frames.filterMap (fun e => match e.2 with | some f => if p f then some (f.order, e.1) else none | none => none)).foldl
    (fun xs x => putByOrder x xs) []).map (·.2)

/-- The ingress stage that a frame is about to enter; 24 for the deparser. -/
def Frame.stageNo (f : Frame) : Option Nat :=
  match f.place with | .ingress n => some n | .deparse => some 24 | _ => none

/-- An earlier frame of the same pipeline has not yet passed the block that `f` is about to enter: `f` waits (R30). -/
def Dev.mustWait (d : Dev) (f : Frame) : Bool :=
  match f.stageNo with
  | none => false
  | some n => d.frames.any (fun e => match e.2 with
    | some g => decide (g.slice = f.slice ∧ g.pipe = f.pipe ∧ g.order < f.order)
        && (match g.stageNo with | some m => decide (m ≤ n) | none => false)
    | none => false)

/-! ## Deferred byte counts (R644) -/

/-- Bytes of a frame that have reached its pipeline's input: the head of a port frame until the hopper releases it. -/
def Frame.atInput (f : Frame) : Nat :=
  if f.src = .port ∧ f.released = false then min 256 f.bytes.length else f.bytes.length

/-- Key of a stage counter or register (R284). -/
def stageKey (egress : Bool) (s p n i : Nat) : Nat := (((b2n egress * 8 + s) * 4 + p) * 32 + n) * 1024 + i

/-- A stage counter gains bytes. -/
def Dev.addStageBytes (d : Dev) (x : Deferred) (n : Nat) : Dev :=
  { d with stageBytes := SMap.modify 0 d.stageBytes (stageKey x.egress x.slice x.pipe x.stage x.ctr) (· + BitVec.ofNat 64 n) }

/-- A counter pair or register of a stage is read, and written back (R573, R574): location `loc` of R602. -/
def Dev.stageTouch (d : Dev) (egress : Bool) (s p n loc : Nat) : Dev :=
  let unit := unitOf s (b2n egress) p n 0 0
  (d.memCheck 0x13 unit loc).2.memWritten 0x13 unit loc

/-- The deferred byte counts of a list gain `n` bytes each. -/
def Dev.settle (d : Dev) (xs : List Deferred) (n : Nat) : Dev :=
  xs.foldl (fun d x => (d.stageTouch x.egress x.slice x.pipe x.stage x.ctr).addStageBytes x n) d

/-! ## Tags and frames that end -/

/-- The tag of a frame is removed (R27). -/
def Dev.frameTagDown (d : Dev) (f : Frame) : Dev := if f.hasTag then d.tagDown f.tag else d

/-- What stays of a port frame whose bytes are still to come: a remnant that the hopper discards as it arrives. -/
def Frame.remnant (f : Frame) : Frame := {
  src := f.src, lport := f.lport, slice := f.slice, pipe := f.pipe, place := .gone, mac := f.mac, taken := f.taken
  macBad := f.macBad, dropping := true }

/-- A frame's ingress side ends here: deferred counts, tag, hopper space; bytes still to come are discarded as they
arrive (R150). Nothing is counted. -/
def Dev.endFrame (d : Dev) (fid : Nat) : Dev :=
  match d.frame fid with
  | none => d
  | some f =>
    let d := (d.settle f.deferred f.atInput).frameTagDown f
    if f.src = .port then
      let q := hopOf f.lport
      let d := d.modHop q (fun h => { h with
        fill := h.fill - f.held, resv := h.resv - f.resv, order := h.order.filter (· ≠ fid) })
      if f.whole then d.dropFrame fid else d.setFrame fid f.remnant
    else d.dropFrame fid

/-- A drop-remainder of a frame whose segments the hopper holds (R151, R152). -/
def Dev.dropRem (d : Dev) (fid : Nat) : Dev :=
  match d.frame fid with
  | none => d
  | some f =>
    let d := d.endFrame fid
    if f.src = .port then (d.inc R.HOP_DROPREM_FRAMES (hopOf f.lport) 1).raiseBit R.HOP_EVENTS (hopOf f.lport) 3 else d

/-! ## Writing segments (R147, R148) -/

/-- FILL of a hopper after a segment is written: the peak and the high mark. -/
def Dev.fillUp (d : Dev) (q n : Nat) : Dev :=
  let d := if d.rd R.HOP_PEAK_FILL q < n then d.wr R.HOP_PEAK_FILL q n else d
  if n = d.fldOf R.HOP_HIGH_MARK q 0 14 then d.raiseBit R.HOP_EVENTS q 2 else d

/-- The location that the n-th segment of a port takes (R147, R645): bank n mod 2, slots in order. -/
def hopLoc (q n : Nat) : Nat := ((q % 8) * 2 + n % 2) * 65536 + (n / 2) % 4096

/-- One segment of a frame is written into its hopper from the frame's reservation. -/
def Dev.writeSegment (d : Dev) (fid : Nat) (f : Frame) (seg : List Byte) : Dev :=
  let q := hopOf f.lport
  let h := d.hop q
  let loc := hopLoc q h.written
  let unit := unitOf f.slice 0 0 0 0 0
  let d := d.memWritten 0x14 unit loc
  let hit := d.errs.upsets.any (fun u => decide (u.cls = 0x14) && decide (u.unit = unit) && decide (u.loc = loc))
  let d := d.setHop q { h with fill := h.fill + 1, written := h.written + 1 }
  let d := (d.fillUp q (h.fill + 1)).pmc f.slice 0x050 (q % 8) 1
  d.setFrame fid { f with
    bytes := f.bytes ++ seg, held := f.held + 1
    parity := if hit then f.parity ++ [f.held * 2 ^ 20 + loc] else f.parity }

/-- HOPPER_ADMIT (R118, R148): the first segment of the oldest frame that waits in the receive MAC of a logical port. A port that
has left UP passes none: the frame is discarded (DESIGN CHOICE, log 152: uncounted). -/
def Dev.hopAdmit (d : Dev) (lport : Nat) : Dev :=
  let q := hopOf lport
  let sub := lport % 8
  match d.framesBy (fun f => decide (f.place = .mac) && decide (f.lport = lport)) with
  | [] => d
  | fid :: _ =>
    match d.frame fid with
    | none => d
    | some f =>
      let h := d.hop q
      if SMap.get 0 h.inProg sub ≠ 0 then d
      else if f.mac = [] then (d.rxCount lport 0 f.macBad).dropFrame fid
      else if (d.lp lport).st ≠ .up then d.dropFrame fid
      else
        let seg := f.mac.take 64
        let f := { f with mac := f.mac.drop 64, taken := seg.length }
        let last := decide (f.mac = []) && decide (f.macBad ≠ 3)
        let d := if last then d.rxCount lport f.taken f.macBad else d
        let need := ceilDiv (d.maxFrame lport) 64
        if 8192 < h.fill + h.resv + need then
          let d := (d.inc R.HOP_FULL_DROPS q 1).raiseBit R.HOP_EVENTS q 0
          if last then d.dropFrame fid
          else (d.setFrame fid f.remnant).modHop q (fun h => { h with inProg := SMap.set 0 h.inProg sub (fid + 1) })
        else
          let d := (d.inc R.HOP_FRAMES q 1).modHop q (fun h => { h with
            resv := if last then h.resv else h.resv + (need - 1)
            order := h.order ++ [fid]
            inProg := if last then h.inProg else SMap.set 0 h.inProg sub (fid + 1) })
          let f := { f with
            place := .hopper, arrival := d.arrivals, resv := if last then 0 else need - 1, whole := last
            bad := if last then f.macBad else 0 }
          let d := { d with arrivals := d.arrivals + 1 }
          (d.writeSegment fid f seg).wake (sliceOf lport)

/-- The bad reason known once `taken` bytes have been handed over; `last` says that they are all (R126, R154). -/
def Dev.badSoFar (d : Dev) (f : Frame) (last : Bool) : Nat :=
  if f.bad ≠ 0 then f.bad
  else if f.macBad = 2 ∧ d.maxFrame f.lport < f.taken then 2
  else if last then f.macBad else 0

/-- The hopper reads a held segment with a parity error (R155): counted, reported, and the reason it gives the frame. -/
def Dev.parityFound (d : Dev) (f : Frame) (marks : List Nat) : Dev :=
  let q := hopOf f.lport
  marks.foldl (fun d m =>
    ((d.inc R.HOP_PARITY_EVENTS q 1).raiseBit R.HOP_EVENTS q 1).report 0x14 (unitOf f.slice 0 0 0 0 0) (m % 2 ^ 20) true true) d

/-- HOPPER_SEGMENT (R147, R148, R150): the next segment of the frame in progress of a sub-port. A held frame's segment is
written from its reservation; a released one's passes on; a discarded one's is discarded. -/
def Dev.hopSegment (d : Dev) (lport : Nat) : Dev :=
  let q := hopOf lport
  let sub := lport % 8
  match SMap.get 0 (d.hop q).inProg sub with
  | 0 => d
  | k + 1 =>
    match d.frame k with
    | none => d
    | some f =>
      let seg := f.mac.take 64
      let f := { f with mac := f.mac.drop 64, taken := f.taken + seg.length }
      let last := decide (f.mac = [])
      let d := if last then
          (d.rxCount lport f.taken f.macBad).modHop q (fun h => { h with inProg := SMap.set 0 h.inProg sub 0 })
        else d
      if f.dropping then (if last then d.dropFrame k else d.setFrame k f)
      else
        let f := { f with bad := d.badSoFar f last }
        let keep := decide (seg ≠ []) && decide (0 < f.resv)
        let d := d.modHop q (fun h => { h with resv := h.resv - (if last then f.resv else b2n keep) })
        let f := { f with resv := if last then 0 else f.resv - b2n keep, whole := last }
        if keep then
          let d := d.writeSegment k f seg
          match d.frame k with
          | some g =>
            if g.released then
              let d := d.parityFound g g.parity
              let d := d.modHop q (fun h => { h with fill := h.fill - 1 })
              d.setFrame k { g with held := 0, parity := [], bad := if g.bad = 0 ∧ g.parity ≠ [] then 5 else g.bad }
            else d
          | none => d
        else d.setFrame k f

/-- DROP_REM (R151, R152): a software drop-remainder of the frame in progress on a sub-port. A frame already released is
marked bad at the last segment released; the rest is discarded as it arrives. -/
def Dev.swDropRem (d : Dev) (q sub : Nat) : Dev :=
  match SMap.get 0 (d.hop q).inProg sub with
  | 0 => d
  | k + 1 =>
    match d.frame k with
    | none => d
    | some f =>
      if f.dropping then d
      else if f.released then
        let n := d.nextFid
        let d := d.modHop q (fun h => { h with resv := h.resv - f.resv, inProg := SMap.set 0 h.inProg sub (n + 1) })
        let d := { (d.setFrame n f.remnant) with nextFid := n + 1 }
        let d := d.setFrame k { f with mac := [], whole := true, resv := 0, bad := if f.bad = 0 then 4 else f.bad }
        (d.inc R.HOP_DROPREM_FRAMES q 1).raiseBit R.HOP_EVENTS q 3
      else
        let d := d.dropRem k
        match f.place with
        | .granted _ | .ingress _ =>
          (d.setIsa (f.slice * 4 + f.pipe) { d.isa (f.slice * 4 + f.pipe) with
            granted := (d.isa (f.slice * 4 + f.pipe)).granted.filter (· ≠ k) }).pmc f.slice 0x011 f.pipe 1
        | _ => d

/-! ## Release at the verdict (R150, R154, R155) -/

/-- A parity mark of the first body segment, which the first release read takes: the head has been read for the parser
(DEDUCED, log 159). -/
def firstBody (m : Nat) : Bool := decide (m / 2 ^ 20 = 4)

/-- On a forward or steer verdict the hopper releases the frame's segments; a frame found bad before any segment left is
discarded and counted in HOP_BAD_DISCARDS; a poisoned segment read later marks the frame bad (R155). True where the frame goes
on. -/
def Dev.hopRelease (d : Dev) (fid : Nat) : Bool × Dev :=
  match d.frame fid with
  | none => (false, d)
  | some f =>
    if f.src ≠ .port then (true, d)
    else
      let first := f.parity.filter firstBody
      if f.bad ≠ 0 ∨ first ≠ [] then
        let d := if f.bad ≠ 0 then d else d.parityFound f first
        (false, (d.setFrame fid { f with bad := if f.bad ≠ 0 then f.bad else 5 }).endFrame fid |>.inc R.HOP_BAD_DISCARDS (hopOf f.lport) 1)
      else
        let d := (d.parityFound f f.parity).modHop (hopOf f.lport) (fun h => { h with fill := h.fill - f.held })
        (true, d.setFrame fid { f with held := 0, released := true, parity := [], bad := if f.parity = [] then 0 else 5 })

/-! ## The ingress slot arbiter (R30 to R35, R590) -/

/-- Link k of a slice is in service in one direction (R356); the model's links are always trained (log 13). -/
def Dev.linkOn (d : Dev) (outbound : Bool) (s k : Nat) : Bool :=
  d.bitOf R.MRC_CTRL 0 k && d.bitOf R.MRC_LINK (s * 4 + k) (b2n outbound)

/-- Cells that stand on one link of a slice in one direction. -/
def Dev.onLink (d : Dev) (outbound : Bool) (s k : Nat) : Nat :=
  (d.links.filter (fun c => decide (c.outbound = outbound) && decide (c.slice = s) && decide (c.plane = k))).length

/-- Cells that stand between a sender and CELL_RECEIVE on one link. Inbound they are those of the link-edge FIFO (16) and of
the fabric die's write port (32), which a cell reaches as soon as it has room (R39). DESIGN CHOICE (log 145): R39 and R645
name no FIFO of an outbound link; it takes 32. -/
def linkDepth (outbound : Bool) : Nat := if outbound then 32 else 16 + 32

/-- Stream number of a sender: inbound slice * 4 + pipe, outbound 32 more. -/
def streamOf (outbound : Bool) (s p : Nat) : Nat := b2n outbound * 32 + s * 4 + p

/-- What holds the outlet of an ingress pipeline (R590): 1 no credit, 2 link-edge FIFOs full; 0 nothing. -/
def Dev.outletHeld (d : Dev) (s p : Nat) : Nat :=
  if 4096 ≤ (d.snd (streamOf false s p)).outstanding then 1
  else if (List.range 4).all (fun k => !d.linkOn false s k || decide (linkDepth false ≤ d.onLink false s k)) then 2
  else 0

/-- The head at the front of a hopper's order, if all its bytes are in the banks (R149), with its arrival. -/
def Dev.readyHead (d : Dev) (q : Nat) : Option (Nat × Nat) :=
  match (d.hop q).order with
  | [] => none
  | fid :: _ => match d.frame fid with
    | none => none
    | some f => if f.whole || decide (256 ≤ f.bytes.length) then some (fid, f.arrival) else none

/-- The next port frame of a pipeline: of the heads at the front of its two hoppers, the earlier arrival
(DEDUCED from R31 and R149, log 14). -/
def Dev.nextPortHead (d : Dev) (s p : Nat) : Option Nat :=
  match d.readyHead (8 * s + 2 * p), d.readyHead (8 * s + 2 * p + 1) with
  | some (a, x), some (b, y) => some (if x < y then a else b)
  | some (a, _), none => some a
  | none, some (b, _) => some b
  | none, none => none

/-- A frame is granted a lane: its place, the stamp of its pipeline in this clock (R29, R168), its order (R30). -/
def Dev.laneGrant (d : Dev) (i lane fid : Nat) (f : Frame) : Dev :=
  let a := d.isa i
  let d := d.setFrame fid { f with
    place := .granted lane, order := d.grants
    stamp := if d.epochs.run = none then none else some (a.epoch, a.version) }
  { (d.setIsa i { a with granted := a.granted ++ [fid] }) with grants := d.grants + 1 }

/-- A port head takes a lane. A poisoned word found as the head is read discards the frame (R155). -/
def Dev.grantPort (d : Dev) (s p lane fid : Nat) : Dev :=
  match d.frame fid with
  | none => d
  | some f =>
    let d := (d.inc R.ISA_PORT_SLOTS (s * 4 + p) 1).modHop (hopOf f.lport) (fun h => { h with order := h.order.filter (· ≠ fid) })
    let inHead := f.parity.filter (fun m => decide (m / 2 ^ 20 < 4))
    if inHead ≠ [] then ((d.parityFound f inHead).dropRem fid).pmc s 0x011 p 1
    else d.laneGrant (s * 4 + p) lane fid f

/-- Frames offered by internal source `k` (0 recirculation, 1 slow-path returns, 2 host injection). -/
def Isa.offered (a : Isa) (k : Nat) : List Nat := match k with | 0 => a.recirc | 1 => a.aeRet | _ => a.host
def Isa.setOffered (a : Isa) (k : Nat) (l : List Nat) : Isa :=
  match k with | 0 => { a with recirc := l } | 1 => { a with aeRet := l } | _ => { a with host := l }

/-- An internal source holds a frame. -/
def Isa.waiting (a : Isa) : Bool := decide (a.recirc ≠ []) || decide (a.aeRet ≠ []) || decide (a.host ≠ [])

/-- Weight of an internal source; 0 acts as 1 (R34). -/
def Dev.isaWeight (d : Dev) (i k : Nat) : Nat := max 1 (d.fldOf R.ISA_CTRL i (4 * k) 4)

/-- The internal source that the weighted round robin serves next, with the turn as it then stands (R31); `n` bounds the
sources still to be passed over. -/
def Isa.serve (a : Isa) (w : Nat → Nat) : Nat → Option (Nat × Isa)
  | 0 => none
  | n + 1 =>
    if a.offered a.turn = [] then Isa.serve { a with turn := (a.turn + 1) % 3, left := 0 } w n
    else
      let left := (if a.left = 0 then w a.turn else a.left) - 1
      some (a.turn, { a with turn := if left = 0 then (a.turn + 1) % 3 else a.turn, left := left })

/-- A lane goes to the internal sources. True where one held a frame. -/
def Dev.grantInternal (d : Dev) (s p lane : Nat) : Bool × Dev :=
  let i := s * 4 + p
  match (d.isa i).serve (d.isaWeight i) 3 with
  | none => (false, d)
  | some (k, a) =>
    match a.offered k with
    | [] => (false, d)
    | fid :: rest =>
      let d := d.inc (match k with | 0 => R.ISA_RECIRC_SLOTS | 1 => R.ISA_AERET_SLOTS | _ => R.ISA_HOST_SLOTS) i 1
      let d := d.setIsa i { a.setOffered k rest with f := 0 }
      (true, match d.frame fid with | some f => d.laneGrant i lane fid f | none => d)

/-- First pass (R31): lanes from `lane` on, `n` of them, go to port heads. The number granted. -/
def Dev.portPass (d : Dev) (s p lane : Nat) : Nat → Nat × Dev
  | 0 => (0, d)
  | n + 1 =>
    match d.nextPortHead s p with
    | none => (0, d)
    | some fid =>
      let (k, d) := (d.grantPort s p lane fid).portPass s p (lane + 1) n
      (k + 1, d)

/-- Second pass (R31): lanes from `lane` on, `n` of them, go to internal sources. The number granted. -/
def Dev.internalPass (d : Dev) (s p lane : Nat) : Nat → Nat × Dev
  | 0 => (0, d)
  | n + 1 =>
    match d.grantInternal s p lane with
    | (false, d) => (0, d)
    | (true, d) =>
      let (k, d) := d.internalPass s p (lane + 1) n
      (k + 1, d)

/-- Why lanes that are not granted now stay empty (R590): 0 STARVED, 1 and 2 BLOCKED by what holds the outlet. In a clock in
which the slice is not RUN no frame is ready for a lane. -/
def Dev.laneHeld (d : Dev) (s p : Nat) : Nat :=
  if (d.slc s).st = .run ∧ ((d.isa (s * 4 + p)).waiting = true ∨ (d.nextPortHead s p).isSome = true) then d.outletHeld s p else 0

/-- `n` lanes of one clock stay empty: counted, and classed by what holds the outlet (R35, R590). -/
def Dev.emptyLanes (d : Dev) (s p held n : Nat) : Dev :=
  let d := d.inc R.ISA_IDLE_SLOTS (s * 4 + p) n
  if held = 0 then d.pmc s 0x012 p n else (d.pmc s 0x013 p n).pmc s (if held = 1 then 0x014 else 0x015) p n

/-- ISA_GRANT (R31, R32, R35, R590): one core clock of a pipeline's arbiter, whose 4 slots are accounted. A slice that is not
RUN but has its clock grants nothing (R534). -/
def Dev.isaGrant (d : Dev) (s p : Nat) : Dev :=
  let i := s * 4 + p
  if (d.slc s).st = .asleep then d else
  let d := d.slotsUsed s (64 + p) 4
  let a := d.isa i
  let waiting := a.waiting
  let held := d.laneHeld s p
  let d := d.setIsa i { a with f := if waiting then a.f else 0 }
  if (d.slc s).st ≠ .run ∨ held ≠ 0 then d.emptyLanes s p held 4
  else
    let withheld := d.bitOf R.ISA_CTRL i 16 && waiting && decide (12 ≤ a.f)
    let (k, d) := d.portPass s p 0 (if withheld then 3 else 4)
    let left := (d.nextPortHead s p).isSome
    let d := d.setIsa i { d.isa i with f := if waiting then (d.isa i).f + k else 0 }
    let (m, d) := d.internalPass s p k (4 - k)
    let d := if withheld && decide (m = 4 - k) && left then d.inc R.ISA_FORCED_SLOTS i 1 else d
    let n := 4 - k - m
    if n = 0 then d else d.emptyLanes s p 0 n

/-- ISA_STATUS (R34). -/
def Dev.isaStatus (d : Dev) (i : Nat) : Nat :=
  let a := d.isa i
  let q := (i / 4) * 8 + (i % 4) * 2
  packFields [(0, 1, b2n (decide ((d.hop q).order ≠ []))), (1, 1, b2n (decide ((d.hop (q + 1)).order ≠ []))),
    (2, 1, b2n (decide (a.recirc ≠ []))), (3, 1, b2n (decide (a.aeRet ≠ []))), (4, 1, b2n (decide (a.host ≠ [])))]

/-- A sub-port has a frame partly written (R173): one in progress whose segments are not being discarded. -/
def Dev.partlyWritten (d : Dev) (q sub : Nat) : Bool :=
  match SMap.get 0 (d.hop q).inProg sub with
  | 0 => false
  | k + 1 => match d.frame k with | some f => !f.dropping | none => false

/-- HOP_STATUS (R173). -/
def Dev.hopStatus (d : Dev) (q : Nat) : Nat :=
  packFields [(0, 14, (d.hop q).fill), (16, 8, (List.range 8).foldl (fun m n => if d.partlyWritten q n then m + 2 ^ n else m) 0)]

end Sys2Proof.Machine
end

