-- ==== Sys2Proof/Machine/Parser.lean ====
section
/-! DEFINITION. The parser: graph walk, header vector, tag creation and re-entry (R157 to R172). -/
namespace Sys2Proof.Machine

/-- The `w` bits at bit offset `o` of a byte string, counted from the most significant bit of its first byte (R159). -/
def bitsAt (bs : List Byte) (o w : Nat) : Nat :=
  let first := o / 8
  let n := (o + w + 7) / 8 - first
  fld (beAt bs first n) (8 * (first + n) - (o + w)) w

/-- Width of ingress container `c` (R162). -/
def contWidth (c : Nat) : Nat := if c < 32 then 8 else if c < 144 then 16 else 32

/-- A parse in progress. -/
structure Walk where
  start : Nat := 0
  reps : SMap Nat := []
  cont : SMap Nat := []
  wb : SMap WriteBack := []
  valid : Nat := 0
  deriving DecidableEq, Repr

/-- How a parse ended: the reason and EXC_NODE, or a memory error (R165). -/
inductive ParseEnd where
  | done (reason excNode : Nat)
  | memErr
  deriving DecidableEq, Repr

/-- Bytes up to the end of a field of the header at `start`. -/
def fieldEnd (start off w : Nat) : Nat := start + (off + w + 7) / 8

/-- need(b) of R164: the reason that ends the parse, if any. -/
def needErr (flen b : Nat) : Option Nat := if flen < b then some 3 else if 256 < b then some 2 else none

/-- Extract `x` of a node in repetition `r` (R162, R163, R270). -/
def extractOne (head rec_ : List Byte) (stride r : Nat) (w : Walk) (x : Nat) : Walk :=
  let off := leAt rec_ (0x70 + x * 8) 2
  let width := byteAt rec_ (0x72 + x * 8)
  let c := byteAt rec_ (0x73 + x * 8) + r * stride
  if 207 < c then w
  else
    let cw := min width (contWidth c)
    let o := w.start * 8 + off + (width - cw)
    { w with cont := SMap.set 0 w.cont c (bitsAt head o cw), wb := SMap.set ⟨0, 0⟩ w.wb c ⟨o, cw⟩ }

/-- The transition that a completed visit takes (R161). -/
def transitionOf (head rec_ : List Byte) (start : Nat) : Nat :=
  let sw := byteAt rec_ 0x0A
  let key := if sw = 0 then 0 else bitsAt head (start * 8 + leAt rec_ 0x08 2) (min sw 32)
  let hit := fun t => (key &&& leAt rec_ (0x14 + t * 12) 4) == (leAt rec_ (0x10 + t * 12) 4 &&& leAt rec_ (0x14 + t * 12) 4)
  match (if sw = 0 then none else (List.range (min 8 (byteAt rec_ 0x0B))).find? hit) with
  | some t => leAt rec_ (0x18 + t * 12) 2
  | none => leAt rec_ 0xF0 2

/-- The steps of one visit up to "write extracts" (R164): the reason that ends the parse, or the header's length. -/
def visitCheck (head rec_ : List Byte) (flen start r depth : Nat) : Sum Nat Nat :=
  let flags := byteAt rec_ 0
  if fld flags 0 1 = 0 then .inl 4
  else
    let base := byteAt rec_ 2
    let lenOff := byteAt rec_ 4
    let scale := byteAt rec_ 6
    let len := if fld flags 1 1 = 1 then
        ((byteAt head (start + lenOff) &&& byteAt rec_ 5) >>> fld scale 0 3) <<< fld scale 4 3
      else base
    let fields := max (if byteAt rec_ 0x0A = 0 then 0 else fieldEnd start (leAt rec_ 8 2) (byteAt rec_ 0x0A))
      (max (if fld flags 3 1 = 1 then fieldEnd start (leAt rec_ 0x0C 2) (byteAt rec_ 0x0E) else 0)
        ((List.range (min 16 (byteAt rec_ 0x0F))).foldl
          (fun m x => max m (fieldEnd start (leAt rec_ (0x70 + x * 8) 2) (byteAt rec_ (0x72 + x * 8)))) 0))
    match (if fld flags 1 1 = 1 then needErr flen (start + lenOff + 1) else none) with
    | some e => .inl e
    | none =>
      if fld flags 1 1 = 1 ∧ (len < base ∨ byteAt rec_ 3 < len) then .inl 5
      else match needErr flen (start + len), needErr flen fields with
        | some e, _ => .inl e
        | none, some e => .inl e
        | none, none =>
          if depth ≤ r then .inl 8
          else if fld flags 3 1 = 1 ∧ bitsAt head (start * 8 + leAt rec_ 0x0C 2) (byteAt rec_ 0x0E) ≠ 0 then .inl 6
          else if fld flags 2 1 = 1 ∧ base < len then .inl 7
          else .inr len

/-- Check `n` locations of a memory from `loc` on; true where one is uncorrectable. -/
def Dev.memCheckN (d : Dev) (cls unit loc n : Nat) : Bool × Dev :=
  (List.range n).foldl (fun (ue, d) k => let (u, d) := d.memCheck cls unit (loc + k); (ue || u, d)) (false, d)

/-- The graph walk from `node` on (R164); `n` visits are left. DESIGN CHOICE (log 156): R160 gives no meaning to a START_x or
GOTO of 255, whose place in the memory holds the start record; the model takes node 255 as a node with no valid record, and the
walk ends there with UNKNOWN_NEXT. -/
def Dev.graphWalk (d : Dev) (img : List Byte) (s p unit : Nat) (head : List Byte) (flen : Nat) :
    Nat → Nat → Walk → ParseEnd × Walk × Dev
  | 0, node, w => (.done 1 node, w, d)
  | n + 1, node, w =>
    let (ue, d) := d.memCheckN 0x0F unit (node * 16) 16
    if ue then (.memErr, w, d)
    else
      let rec_ := if node = 255 then [] else graphRecord img s p node
      let inst := byteAt rec_ 1 % 64
      let (ue, d) := d.memCheck 0x0F unit (0x1000 + inst / 2)
      if ue then (.memErr, w, d)
      else
        let lay := layoutRecord img s p inst
        let r := SMap.get 0 w.reps inst
        match visitCheck head rec_ flen w.start r (byteAt lay 0) with
        | .inl reason => (.done reason node, w, d)
        | .inr len =>
          let w := (List.range (min 16 (byteAt rec_ 0x0F))).foldl (extractOne head rec_ (byteAt lay 1) r) w
          let v := byteAt lay 2 + r
          let next := transitionOf head rec_ w.start
          let w := { w with
            start := w.start + len, reps := SMap.set 0 w.reps inst (r + 1)
            valid := if v < 64 then w.valid ||| 2 ^ v else w.valid }
          match fld next 14 2 with
          | 0 => Dev.graphWalk d img s p unit head flen n (next % 256) w
          | 1 => (.done 0 0xFF, w, d)
          | 2 => (.done (0x20 + next % 32) node, w, d)
          | _ => (.done 4 node, w, d)

/-- A discard of an ingress frame by a forced retire (R86, R91, R151). -/
def Dev.forcedDrop (d : Dev) (fid : Nat) (ctr : RegInfo) : Dev := (d.inc ctr 0 1).dropRem fid

/-- The tag of a frame as the parser makes it or changes it (R168 to R172, R317), before REASON is written. -/
def Dev.tagAtParser (d : Dev) (f : Frame) (i : Nat) : Tag :=
  if f.hasTag then { f.tag with
      ct := false, mcast := false, queue := 0, bin := 0, repl := 0, puntHost := 0, colour := 0, reason := 0, seq := 0, copy := 0
      pass := if f.src = .recirc then f.tag.pass + 1 else f.tag.pass
      aeRet := f.tag.aeRet || decide (f.src = .aeRet) }
  else
    let (e, v) := f.stamp.getD ((d.isa i).epoch, (d.isa i).version)
    { epoch := e, version := v, lport := f.lport, hostInj := decide (f.src = .host)
      ts := if f.src = .port then tsOf f.tsSecs f.tsNs f.tsFrac else tsOf d.time.secs d.time.ns d.time.frac16 }

/-- Total length of an ingress frame as far as its own bytes and the receive MAC tell. -/
def Frame.total (f : Frame) : Nat := f.bytes.length + (if f.whole then 0 else f.mac.length)

/-- The length, FCS included, that a frame has once its last byte has come: of a frame that comes from a copy or from a frame
returned before its last cell, what that one still brings is added; `n` bounds the chain of such frames. -/
def Dev.frameLen (d : Dev) : Nat → Nat → Nat
  | 0, fid => match d.frame fid with | none => 0 | some f => f.total
  | n + 1, fid =>
    match d.frame fid with
    | none => 0
    | some f =>
      let held := fun (g : Nat) => match d.frame g with
        | none => 0
        | some x => if x.bufWhole then x.blen else min 16383 (x.head.length + (d.frameLen n g - x.headIn))
      if f.whole ∨ f.src = .port then f.total
      else match d.copies.findSome? (fun e => match e.2 with | some c => if c.recircTo = some fid then some c else none | none => none) with
        | some c => max f.total (min 16383 (c.head.length + (held c.fid - c.headIn)))
        | none => match d.frames.findSome? (fun e => match e.2 with | some g => if g.fwd = some fid then some (e.1, g.blen) else none | none => none) with
          | some (g, got) => f.total + (held g - got)
          | none => f.total

/-- The parse of a frame that has its tag (R157 to R165). -/
def Dev.parseFrame (d : Dev) (fid : Nat) (f : Frame) (s p : Nat) : Dev :=
  let i := s * 4 + p
  let tag := d.tagAtParser f i
  let d := if f.hasTag then d.inc R.PAR_REENTRIES i 1 else (d.inc R.PAR_FRAMES i 1).tagUp tag.epoch tag.version 1
  let img := d.imageOf tag.epoch
  let unit := unitOf s 0 p 0 (tag.epoch % 2) 0
  let head := f.bytes.take 256
  let flen := d.frameLen 16 fid - 4
  let (ue, d) := d.memCheckN 0x0F unit (255 * 16) 16
  let startIdx := match f.src with | .port => 0 | .recirc => 1 | .aeRet => 2 | .host => 3
  let (e, w, d) := if ue then (.memErr, {}, d) else
    d.graphWalk img s p unit head flen 16 (byteAt (graphRecord img s p 255) startIdx) {}
  let f := { f with hasTag := true, tag := tag }
  match e with
  | .memErr => (((d.setFrame fid f).dropRem fid).inc R.PAR_MEM_DROPS i 1).pmc s 0x011 p 1
  | .done reason exc =>
    let d := if 0x20 ≤ reason then d.inc R.PAR_IMG_EXC i 1
      else if reason = 0 then d else d.inc R.PAR_EXC (i * 8 + reason) 1
    d.setFrame fid { f with
      place := .ingress 0
      tag := { tag with reason := reason }
      ps := { cont := w.cont, wb := w.wb, valid := w.valid, parseLen := w.start, excNode := exc, head := head } }

/-- PARSE (R164, R168, R169, R74): the oldest granted frame of a pipeline goes through its parser lane. -/
def Dev.parse (d : Dev) (s p : Nat) : Dev :=
  let i := s * 4 + p
  if (d.slc s).st ≠ .run then d else
  match (d.isa i).granted with
  | [] => d
  | fid :: rest =>
    let d := d.setIsa i { d.isa i with granted := rest }
    match d.frame fid with
    | none => d
    | some f =>
      let wasted := fun (d : Dev) => d.pmc s 0x011 p 1
      if f.stamp = none ∨ d.epochs.run = none then wasted ((d.dropRem fid).inc R.IMG_NOSTRUCT_DROPS 0 1)
      else if f.src = .recirc ∧ max 1 (d.fldOf R.PAR_CTRL i 0 3) < f.tag.pass + 1 then
        wasted ((d.dropRem fid).inc R.PAR_PASS_DROPS i 1)
      else match (if f.hasTag = true ∧ f.bad ≠ 9 then d.forced f.tag else none) with
        | some ctr => wasted (d.forcedDrop fid ctr)
        | none => d.parseFrame fid f s p

/-- PAR_STATUS (R174). -/
def Dev.parStatus (d : Dev) (i : Nat) : Nat :=
  packFields [(0, 4, (d.isa i).epoch), (8, 1, b2n (decide (d.epochs.run = none)))]

end Sys2Proof.Machine
end

