-- ==== Sys2Proof/Machine/Loader.lean ====
section
/-! DEFINITION. The loader and rule versions (02_structure_image): claim, commands, staging aperture, the failure of a
load, draining time, commits. LOAD_VERIFY, ACTIVATION and EPOCH_RETIRE are in `Machine/Epoch.lean`. -/
namespace Sys2Proof.Machine

/-- An access of host port `h` is counted under R7. -/
def Dev.badAccess (d : Dev) (h : Nat) : Dev := d.inc R.HPL_BAD_ACCESSES h 1

def Dev.ld (d : Dev) (f : Loader → Loader) : Dev := { d with loader := f d.loader }

/-- The bank that a load writes: bank 0 after cold reset, else the bank that does not hold the running image (R640). -/
def Dev.loadBank (d : Dev) : Nat := match d.epochs.run with | some e => (e + 1) % 2 | none => 0

/-- A unit of a kind in a slice is placed by a record of a list. -/
def unitKept (keep : List Place16) (kind s unit : Nat) : Bool :=
  keep.any (fun r => decide (r.kind = kind) && decide (r.slice = s) && decide (r.first ≤ unit) && decide (unit < r.first + r.count))

/-- Every entry of a unit that no record of a list places is cleared to invalid, and the settings of its table with it
(R60). The keys are those of `Tables`: an overflow entry belongs to its table. -/
def Dev.clearUnplaced (d : Dev) (keep : List Place16) : Dev :=
  { d with tbl := { d.tbl with
      tcam := SMap.keep (fun k _ => unitKept keep 0 (k / 2048 / 48) (k / 2048 % 48)) d.tbl.tcam
      em := SMap.keep (fun k e =>
        let s := k / 2 ^ 22
        let loc := k % 2 ^ 22
        if loc < 2097152 then unitKept keep 1 s (loc / 16384)
        else keep.any (fun r => decide (r.kind = 1) && decide (r.slice = s) && decide (r.id = e.table))) d.tbl.em
      lpm := SMap.keep (fun k _ => unitKept keep 2 (k / 2 ^ 21) (k % 2 ^ 21 / 18750)) d.tbl.lpm
      cfg := SMap.keep (fun k _ => keep.any (fun r =>
        decide (r.slice = k / 1024) && decide (r.kind = k / 256 % 4) && decide (r.first = k % 256))) d.tbl.cfg } }

/-- Placement records of the running image and of the draining one. -/
def Dev.livePlaces (d : Dev) : List Place16 :=
  placements d.runImage ++ (match d.epochs.old with | some e => placements (d.imageOf e) | none => [])

/-- The load ends in FAILED (R68, R72): ERROR, IMG_FAIL_OFFSET, LOAD_FAILED; the staged bank becomes free. -/
def Dev.loadFail (d : Dev) (err off : Nat) : Dev :=
  let d := d.ld (fun l => { l with st := .failed, err := err })
  let b := d.loadBank
  let d := (d.setBank b { d.bank b with st := .free }).clearUnplaced d.livePlaces
  (d.wr R.IMG_FAIL_OFFSET 0 off).raiseBit R.IMG_EVENTS 0 0

/-- An IMG_CMD write that is ignored (R72). -/
def Dev.cmdIgnored (d : Dev) : Dev := d.raiseBit R.IMG_EVENTS 0 4

/-- A load or staged image is abandoned: ABORT, release of the claim, loss of the owner's link (R72). -/
def Dev.loadAbort (d : Dev) : Dev :=
  match d.loader.st with
  | .loading | .staged | .armed => d.loadFail 0x0D d.loader.img.length
  | _ => d

/-- IMG_CMD.BEGIN in the state that the loader is in (R72, R545). -/
def Dev.imgBegin (d : Dev) : Dev :=
  match d.loader.st with
  | .empty | .idle | .failed =>
    if d.fan.st = .ready then d.ld (fun l => { l with st := .loading, err := 0, img := [], lastByteAt := 0 }) else d.cmdIgnored
  | .draining => ((d.ld (fun l => { l with err := 0x0F })).wr R.IMG_FAIL_OFFSET 0 0).raiseBit R.IMG_EVENTS 0 0
  | _ => d.cmdIgnored

/-- IMG_CMD.ABORT (R72). -/
def Dev.imgAbort (d : Dev) : Dev :=
  match d.loader.st with
  | .loading | .staged | .armed => d.loadAbort
  | _ => d.cmdIgnored

/-- The armed time has been reached: 0, or a time at or before the time unit's reading (R77, R560). -/
def Dev.armDue (d : Dev) : Bool := decide (d.loader.st = .armed) && decide (d.loader.armTime ≤ d.ns64)

/-- IMG_CMD.ARM (R72, R78): samples IMG_ACT_TIME; an ARM that meets the armed time is ignored. -/
def Dev.imgArm (d : Dev) : Dev :=
  match d.loader.st with
  | .staged => d.ld (fun l => { l with st := .armed, armTime := d.rd64 R.IMG_ACT_TIME 0 })
  | .armed => if d.armDue then d.cmdIgnored else d.ld (fun l => { l with armTime := d.rd64 R.IMG_ACT_TIME 0 })
  | _ => d.cmdIgnored

/-- IMG_CMD.CLEAR (R72). -/
def Dev.imgClear (d : Dev) : Dev :=
  match d.loader.st with
  | .failed => d.ld (fun l => { l with st := if d.epochs.run.isSome then .idle else .empty, err := 0 })
  | _ => d.cmdIgnored

/-- IMG_CMD.FORCE_RETIRE (R72, R86); what the arrays hold goes at once (`Dev.forceRetire`). -/
def Dev.imgForce (d : Dev) : Dev :=
  match d.loader.st with
  | .draining => d.ld (fun l => { l with force := true })
  | _ => d.cmdIgnored

/-- Host port `h` owns the loader. -/
def Dev.owns (d : Dev) (h : Nat) : Bool := d.loader.held && decide (d.loader.owner = h)

/-- A write that only the owner may make (R63, R64): from another host port it is discarded and counted. -/
def Dev.asOwner (d : Dev) (h : Nat) (f : Dev → Dev) : Dev := if d.owns h then f d else d.badAccess h

/-- Release of the claim: what the owner was loading is abandoned (R72, R93). -/
def Dev.releaseClaim (d : Dev) : Dev := (d.loadAbort).ld (fun l => { l with held := false })

/-- A write of host port `h` to IMG_OWNER (R63, R93). A claim that names another host port is ignored (log 11). -/
def Dev.imgOwner (d : Dev) (h v : Nat) : Dev :=
  if d.loader.held then
    if decide (d.loader.owner = h) && decide (fld v 31 1 = 1) && decide (v % 4 = h) then d.releaseClaim else d
  else if fld v 31 1 = 0 ∧ v % 4 = h then d.ld (fun l => { l with held := true, owner := h })
  else d

/-- Image bytes arrive (R66 to R68): out of order, checks of each part, the last byte. -/
def Dev.imgBytes (d : Dev) (off : Nat) (bs : List Byte) : Dev :=
  match d.loader.st with
  | .loading =>
    let have_ := d.loader.img
    if off ≠ have_.length ∨ (128 ≤ have_.length ∧ imgLen have_ < off + bs.length) then d.loadFail 6 off
    else
      let img := have_ ++ bs
      match streamErr img off bs.length with
      | some (e, o) => d.loadFail e o
      | none =>
        if 128 ≤ img.length ∧ imgLen img < img.length then d.loadFail 6 off
        else
          let done := decide (128 ≤ img.length) && decide (imgLen img = img.length)
          d.ld (fun l => { l with img := img, lastByteAt := if done then d.now else l.lastByteAt })
  | _ => d

/-- A posted write to the staging aperture by host port `h` (R63 to R67). -/
def Dev.apertureWrite (d : Dev) (h addr : Nat) (bs : List Byte) : Dev :=
  if addr % 4 ≠ 0 ∨ bs.length % 4 ≠ 0 ∨ bs.length = 0 ∨ 128 * 2 ^ (d.host h).mps < bs.length then d.badAccess h
  else d.asOwner h (fun d => d.imgBytes (d.rd R.IMG_WIN 0 * 0x4000000 + (addr - 0xC000000)) bs)

/-- The destination byte that an error location of a banked memory names (R602): section type, slice, pipeline,
instance, byte address of the word and its length. -/
def bankedPlace (cls unit loc : Nat) : Option (Nat × Nat × Nat × Nat × Nat × Nat) :=
  let s := fld unit 13 3
  let p := fld unit 10 2
  let n := fld unit 5 5
  match cls with
  | 0x0A => some (if fld unit 12 1 = 1 then 4 else 3, s, p, n, loc * 64, 64)
  | 0x0B => some (7, s, 0, 0, loc * 16, 16)
  | 0x0F => if loc < 0x1000 then some (1, s, p, 0, loc * 16, 16) else some (2, s, p, 0, (loc - 0x1000) * 16, 16)
  | 0x10 => some (8, 0, 0, 0, loc * 16, 16)
  | _ => none

/-- Image offset of the first payload byte held in a word of a structure memory; 0 for a word no section loads. -/
def imageOffsetOf (img : List Byte) (typ s p inst a : Nat) : Nat → Nat
  | 0 => 0
  | n + 1 =>
    match (sections img).find? (fun x => decide (x.typ = typ) && decide (x.inst = inst) && decide (fld x.sliceMask s 1 = 1)
        && decide (fld x.pipeMask p 1 = 1) && decide (x.dest ≤ a) && decide (a < x.dest + x.len)) with
    | some x => x.off + (a - x.dest)
    | none => imageOffsetOf img typ s p inst (a + 1) n

/-- STAGED_BANK_ERROR (R69): an uncorrectable error of a staged bank fails the image with MEMORY. -/
def Dev.stagedError (d : Dev) (cls unit loc : Nat) : Dev :=
  match d.loader.st, bankedPlace cls unit loc with
  | .staged, some (t, s, p, n, a, len) | .armed, some (t, s, p, n, a, len) =>
    if fld unit 4 1 = d.loadBank then d.loadFail 0x0E (imageOffsetOf (d.bank d.loadBank).img t s p n a len) else d
  | _, _ => d

/-- DRAIN_SLOW (R86): DRAINING has lasted IMG_DRAIN_LIMIT microseconds. -/
def Dev.drainSlow (d : Dev) : Dev :=
  if d.loader.st = .draining ∧ d.loader.slow = false ∧ d.loader.drainSince + d.rd R.IMG_DRAIN_LIMIT 0 * 1000 ≤ d.now then
    (d.ld (fun l => { l with slow := true })).raiseBit R.IMG_EVENTS 0 3
  else d

/-! ## Rule versions (R87 to R92) -/

/-- Every pipeline of a slice that runs stamps the current epoch and version; a slice that does not switches before
its first tag after wake (R76, R79, R88). -/
def Dev.stampAll (d : Dev) : Dev :=
  forN 8 (fun s d =>
    let x := d.slc s
    if x.st = .run then
      forN 4 (fun p d => d.setIsa (s * 4 + p)
        { d.isa (s * 4 + p) with epoch := d.epochs.run.getD 0, version := d.vers.cur }) d
    else d.setSlc s { x with switchDue := true }) d

/-- A commit (R88): the open version becomes current and the former current one the old one. -/
def Dev.commitNow (d : Dev) : Dev :=
  let v := d.vers
  let d := { d with vers := { v with
      cur := (v.cur + 1) % 65536, old := v.cur, oldLive := true, pending := false, force := false, drainSince := d.now, slow := false } }
  ((d.stampAll).inc R.VER_COMMITS 0 1).raiseBit R.VER_EVENTS 0 2

/-- VER_CMD.COMMIT (R88, R89). -/
def Dev.verCommit (d : Dev) : Dev :=
  if d.vers.oldLive then { d with vers := { d.vers with pending := true } } else d.commitNow

/-- VER_CMD.FORCE_RETIRE (R91): frames of the old version are discarded until its count reaches zero. -/
def Dev.verForce (d : Dev) : Dev :=
  if d.vers.oldLive then { d with vers := { d.vers with force := true } } else d

/-- A write of host port `h` to VER_CMD: both bits set is ignored and counted under R7 (R64). -/
def Dev.verCmd (d : Dev) (h v : Nat) : Dev :=
  match v % 4 with
  | 1 => d.verCommit
  | 2 => d.verForce
  | 3 => d.badAccess h
  | _ => d

/-- VERSION_DRAIN_SLOW (R91). -/
def Dev.verSlow (d : Dev) : Dev :=
  if d.vers.oldLive ∧ d.vers.slow = false ∧ d.vers.drainSince + d.rd R.VER_DRAIN_LIMIT 0 * 1000 ≤ d.now then
    { d with vers := { d.vers with slow := true } }.raiseBit R.VER_EVENTS 0 1
  else d

end Sys2Proof.Machine
end

