-- ==== Sys2Proof/Machine/Bolter.lean ====
section
/-! DEFINITION. The bolter: TCAM tables, resolution, verification, versioned rules, sweep, scrubber and command sets
(05_bolter_classifier). -/
namespace Sys2Proof.Machine

/-! ## Versions (R191, R192) -/

/-- Version `x` is `v` or earlier (R192). -/
def le16 (x v : Nat) : Bool := decide ((v + 65536 - x) % 65536 < 32768)

/-- The entry exists in version `v` (R192). -/
def EntVer.visible (e : EntVer) (v : Nat) : Bool :=
  e.v && (e.settled || le16 e.addVer v) && !(e.dp && le16 e.delVer v)

/-- What a sweep does to an entry's version state; `b` is the oldest live version (R196). -/
def EntVer.swept (e : EntVer) (b : Nat) : EntVer :=
  let e := if e.v && !e.settled && le16 e.addVer b then { e with settled := true } else e
  if e.v && e.dp && le16 e.delVer b then { e with v := false, dp := false, settled := false } else e

/-- DELETE's effect on a visible entry's state in the open version; none where the entry is not live (R194). -/
def EntVer.deleted (e : EntVer) (openV : Nat) : Option EntVer :=
  if !e.v || e.dp then none
  else if !e.settled && decide (e.addVer = openV) then some { e with v := false }
  else some { e with dp := true, delVer := openV }

/-- The open version and the oldest live one (R88, R196). -/
def Dev.openVer (d : Dev) : Nat := (d.vers.cur + 1) % 65536
def Dev.oldestVer (d : Dev) : Nat := if d.vers.oldLive then d.vers.old else d.vers.cur

/-- The version that VSEL names; none for 0b11 (R203). -/
def Dev.vselVer (d : Dev) (vsel : Nat) : Option Nat :=
  match vsel with
  | 0 => some d.vers.cur
  | 1 => some d.oldestVer
  | 2 => some d.openVer
  | _ => none

/-! ## Placement -/

/-- Settings of a placed copy. -/
def cfgKey (s kind first : Nat) : Nat := s * 1024 + kind * 256 + first
def Dev.tcfg (d : Dev) (p : Place16) : TblCfg := SMap.get {} d.tbl.cfg (cfgKey p.slice p.kind p.first)

/-- The copy of a TCAM table in pipeline `p` of a slice that an image places (R177, R179). -/
def tcamCopy (img : List Byte) (s p table : Nat) : Option Place16 :=
  (placements img).find? (fun r => decide (r.kind = 0) && decide (r.id = table) && decide (r.slice = s) && decide (r.first / 12 = p))

/-- Every copy of a TCAM table in a slice, lowest pipeline first. -/
def tcamCopies (img : List Byte) (s table : Nat) : List Place16 := (List.range 4).filterMap (fun p => tcamCopy img s p table)

/-- The record of a table of one kind in a slice. -/
def placeOf (img : List Byte) (kind s table : Nat) : Option Place16 :=
  (placements img).find? (fun r => decide (r.kind = kind) && decide (r.id = table) && decide (r.slice = s))

/-- Key of the first row and entry of a copy, and of entry address `addr` (R177). -/
def Place16.base (r : Place16) : Nat := (r.slice * 48 + r.first) * 2048
def Place16.entKey (r : Place16) (addr : Nat) : Nat := r.base + (addr / 2048) * r.width * 2048 + addr % 2048
def Place16.pipe (r : Place16) : Nat := r.first / 12

/-- UNIT of column `c` of the row that holds `addr`. -/
def Place16.colUnit (r : Place16) (addr c : Nat) : Nat :=
  unitOf r.slice 0 r.pipe (r.first % 12 + (addr / 2048) * r.width + c) 0 0

def Dev.tent (d : Dev) (r : Place16) (addr : Nat) : TcamEnt := SMap.get {} d.tbl.tcam (r.entKey addr)
def Dev.setTent (d : Dev) (r : Place16) (addr : Nat) (e : TcamEnt) : Dev :=
  { d with tbl := { d.tbl with tcam := SMap.set {} d.tbl.tcam (r.entKey addr) e } }

/-- The entries of a copy with their addresses, in address order. -/
def Dev.tcamEntries (d : Dev) (r : Place16) : List (Nat × TcamEnt) :=
  d.tbl.tcam.filterMap (fun e =>
    let o := e.1 - r.base
    if r.base ≤ e.1 ∧ o < r.count * 2048 ∧ (o / 2048) % r.width = 0 then some ((o / 2048 / r.width) * 2048 + o % 2048, e.2) else none)

/-! ## Matching and resolution (R176, R178, R181 to R183) -/

/-- The stored key as the ternary cells hold it: the shadow's key with the bits inverted that are upset (R574). -/
def Dev.cellKey (d : Dev) (r : Place16) (addr : Nat) (e : TcamEnt) : Nat :=
  (List.range r.width).foldl (fun k c =>
    match d.errs.upsets.find? (fun u => decide (u.cls = 6) && decide (u.unit = r.colUnit addr c) && decide (u.loc = addr % 2048)) with
    | some u => k ^^^ 2 ^ (80 * c + u.bit)
    | none => k) e.key

/-- The visible entries of a copy that match a key, in address order. -/
def Dev.tcamMatches (d : Dev) (r : Place16) (key v : Nat) : List (Nat × TcamEnt) :=
  (d.tcamEntries r).filter (fun e => e.2.ver.visible v && decide ((key ^^^ d.cellKey r e.1 e.2) &&& e.2.mask = 0))

/-- The priority of an entry that the resolver holds. -/
def TcamEnt.resPrio (e : TcamEnt) : Nat := e.prio ^^^ e.resX

/-- Entry `a` comes before entry `b` in the table's resolution order (R181, R182, R209). -/
def before (firstMatch : Bool) (a b : Nat × TcamEnt) : Bool :=
  if firstMatch then decide (a.1 < b.1) else decide (a.2.resPrio < b.2.resPrio ∨ (a.2.resPrio = b.2.resPrio ∧ a.1 < b.1))

/-- The first of a list in resolution order. -/
def winner (firstMatch : Bool) : List (Nat × TcamEnt) → Option (Nat × TcamEnt)
  | [] => none
  | a :: as => match winner firstMatch as with
    | none => some a
    | some b => if before firstMatch b a then some b else some a

/-- Every copy of a TCAM table in a slice, of the running image and of the draining one. -/
def Dev.tcamLive (d : Dev) (s table : Nat) : List Place16 :=
  (d.livePlaces.filter (fun r => decide (r.kind = 0) && decide (r.id = table) && decide (r.slice = s))).eraseDups

/-- An entry is lost in every copy of its table in the slice (R189): its shadow records are written with V 0. -/
def Dev.tcamLost (d : Dev) (r : Place16) (addr : Nat) : Dev :=
  let d := (d.tcamLive r.slice r.id).foldl (fun d c =>
    let e := d.tent c addr
    (List.range c.width).foldl (fun d k => d.memWritten 5 (c.colUnit addr k) (addr % 2048))
      (d.setTent c addr { e with ver := { e.ver with v := false } })) d
  let d := d.wr R.BLT_LAST_LOST r.slice (packFields [(31, 1, 1), (27, 2, r.pipe), (12, 15, addr), (0, 12, r.id)])
  (d.inc R.BLT_ENTRIES_LOST (r.slice * 4 + r.pipe) 1).raiseBit R.BLT_EVENTS r.slice 2

/-- Read a shadow record: true where it is uncorrectable; a correctable error is corrected in place (R189). -/
def Dev.shadowRead (d : Dev) (unit n : Nat) : Bool × Dev :=
  let bad := d.errs.upsets.any (fun u => decide (u.cls = 5) && decide (u.unit = unit) && decide (u.loc = n))
  let (ue, d) := d.memCheck 5 unit n
  (ue, if bad && !ue then d.memWritten 5 unit n else d)

/-- Read the shadow records of every column of an entry: true where one is uncorrectable. -/
def Dev.shadowCheck (d : Dev) (r : Place16) (addr : Nat) : Bool × Dev :=
  (List.range r.width).foldl (fun (ue, d) c => let (u, d) := d.shadowRead (r.colUnit addr c) (addr % 2048); (ue || u, d)) (false, d)

/-- The ternary cells of an entry, and the resolver's priority, are rewritten from the shadow record (R187, R190). -/
def Dev.rewriteCells (d : Dev) (r : Place16) (addr : Nat) : Dev :=
  let d := d.setTent r addr { d.tent r addr with resX := 0 }
  (List.range r.width).foldl (fun d c =>
    if d.errs.upsets.any (fun u => decide (u.cls = 6) && decide (u.unit = r.colUnit addr c) && decide (u.loc = addr % 2048)) then
      (d.report 6 (r.colUnit addr c) (addr % 2048) false true).memWritten 6 (r.colUnit addr c) (addr % 2048)
    else d) d

/-- Verdict of the verification of a winner. -/
inductive Verified where
  | good | fail | memErr
  deriving DecidableEq, Repr

/-- Stored-key verification of a winner (R187, R189): its key columns, and its PRIO against the resolver's. -/
def Dev.tcamVerify (d : Dev) (r : Place16) (key addr : Nat) : Verified × Dev :=
  let failed := fun (d : Dev) => (d.inc R.BLT_VERIFY_FAILS (r.slice * 4 + r.pipe) 1).raiseBit R.BLT_EVENTS r.slice 0
  let (ue, d) := d.shadowCheck r addr
  if ue then (.memErr, (failed d).tcamLost r addr)
  else
    let e := d.tent r addr
    if key &&& e.mask = e.key ∧ e.resX = 0 then (.good, d) else (.fail, (failed d).rewriteCells r addr)

/-- Entries that share the lowest PRIO of a list. -/
def tied (l : List (Nat × TcamEnt)) (w : Nat × TcamEnt) : Bool :=
  decide (2 ≤ (l.filter (fun e => e.2.resPrio = w.2.resPrio)).length)

/-! ## Searches by frames (R180, R183 to R188) -/

/-- The delay L - 1, in stages, of a search of a table as a copy of it is placed (R184). -/
def Dev.tcamDelay (d : Dev) (r : Place16) : Nat := if (d.tcfg r).firstMatch then 0 else (r.depth + 3) / 4 - 1

/-- A frame's search of a TCAM table: the record, the delay L - 1 in stages, and the REASON that a verification failure
writes (R188); 0 none. A pipeline with no copy takes its delay from the table's copies elsewhere in the slice. -/
def Dev.tcamLookup (d : Dev) (s p table key v : Nat) (img : List Byte) : Slot × Nat × Nat × Dev :=
  let i := s * 4 + p
  let d := (d.inc R.BLT_SEARCHES i 1).pmc s 0x030 p 1
  match tcamCopy img s p table with
  | none => ({}, (((tcamCopies img s table).head?).map d.tcamDelay).getD 0, 0, (d.inc R.BLT_NOCOPY i 1).raiseBit R.BLT_EVENTS s 4)
  | some r =>
    let cfg := d.tcfg r
    let key := key % 2 ^ (80 * r.width)
    let ms := d.tcamMatches r key v
    let delay := d.tcamDelay r
    let multi := decide (2 ≤ ms.length)
    let d := if multi then d.inc R.BLT_MULTI i 1 else d
    match winner cfg.firstMatch ms with
    | none => ({}, delay, 0, d)
    | some w =>
      let tie := !cfg.firstMatch && tied ms w
      let d := if tie then d.inc R.BLT_TIES i 1 else d
      match d.tcamVerify r key w.1 with
      | (.good, d) =>
        ({ result := w.2.result, hit := true, multi := multi, tie := tie, addr := w.1 }, delay, 0, d.inc R.BLT_HITS i 1)
      | (_, d) => ({ multi := multi, tie := tie, err := true }, delay, if cfg.missOnly then 0 else 0x10, d)

/-! ## Command sets (R193 to R195, R203 to R209, R642) -/

/-- A key or mask as its 20 staging words, and as a number (R203). -/
def Dev.stagedNat (d : Dev) (r : RegInfo) (i : Nat) : Nat :=
  (List.range 20).foldl (fun n j => n + d.rd r (i * 20 + j) * 2 ^ (32 * j)) 0

/-- Write the words of a key or mask of `bits` bits into the staging registers. -/
def Dev.unstage (d : Dev) (r : RegInfo) (i bits n : Nat) : Dev :=
  forN 20 (fun j d => if 32 * j < bits then d.wr r (i * 20 + j) (fld n (32 * j) 32) else d) d

/-- Close the step-through of a set (R209). -/
def Dev.stepClose (d : Dev) (s h : Nat) : Dev := { d with tbl := { d.tbl with steps := SMap.set none d.tbl.steps (s * 4 + h) none } }
def Dev.stepOpen (d : Dev) (s h : Nat) (x : StepThrough) : Dev :=
  { d with tbl := { d.tbl with steps := SMap.set none d.tbl.steps (s * 4 + h) (some x) } }

/-- Check the shadow records of an entry in every copy: an uncorrectable one makes it lost (R189). -/
def Dev.cmdShadow (d : Dev) (copies : List Place16) (addr : Nat) : Bool × Dev :=
  copies.foldl (fun (ue, d) r => let (u, d) := d.shadowCheck r addr; (ue || u, if u then d.tcamLost r addr else d)) (false, d)

/-- The copies of the set's table, and the result that refuses the command before it reads anything (R642). -/
def Dev.bltCopies (d : Dev) (s table : Nat) : List Place16 := tcamCopies d.runImage s table
def Dev.bltRefuse (d : Dev) (s i : Nat) (needAddr pendingRefuses : Bool) : Option Nat :=
  match d.bltCopies s (d.rd R.BLT_CMD_TABLE i) with
  | [] => some 2
  | r :: _ =>
    if needAddr && decide (r.depth * 2048 ≤ d.rd R.BLT_CMD_ADDR i) then some 3
    else if pendingRefuses && d.vers.pending then some 6 else none

/-- ADD (R193): its result and effects. DESIGN CHOICE (log 160): R193 does not say what DEL_VER becomes; the model
writes 0. -/
def Dev.bltAdd (d : Dev) (s h : Nat) : Nat × Dev :=
  let i := s * 4 + h
  let d := d.stepClose s h
  match d.bltRefuse s i true true with
  | some e => (e, d)
  | none =>
    let copies := d.bltCopies s (d.rd R.BLT_CMD_TABLE i)
    let addr := d.rd R.BLT_CMD_ADDR i
    let (ue, d) := d.cmdShadow copies addr
    if ue then (8, d)
    else match copies with
      | [] => (2, d)
      | r :: _ =>
        if (d.tent r addr).ver.v then (4, d)
        else
          let bits := 80 * r.width
          let mask := d.stagedNat R.BLT_MASK i % 2 ^ bits
          let e : TcamEnt := {
            key := (d.stagedNat R.BLT_KEY i % 2 ^ bits) &&& mask, mask := mask, prio := d.rd R.BLT_CMD_PRIO i
            result := d.rd R.BLT_CMD_RESULT i, ver := { v := true, addVer := d.openVer } }
          (0, copies.foldl (fun d c =>
            let d := (List.range c.width).foldl (fun d k =>
              (d.memWritten 5 (c.colUnit addr k) (addr % 2048)).memWritten 6 (c.colUnit addr k) (addr % 2048)) d
            d.setTent c addr e) d)

/-- DELETE (R194). -/
def Dev.bltDelete (d : Dev) (s h : Nat) : Nat × Dev :=
  let i := s * 4 + h
  let d := d.stepClose s h
  match d.bltRefuse s i true true with
  | some e => (e, d)
  | none =>
    let copies := d.bltCopies s (d.rd R.BLT_CMD_TABLE i)
    let addr := d.rd R.BLT_CMD_ADDR i
    let (ue, d) := d.cmdShadow copies addr
    if ue then (8, d)
    else match copies with
      | [] => (2, d)
      | r :: _ =>
        match (d.tent r addr).ver.deleted d.openVer with
        | none => (5, d)
        | some v => (0, copies.foldl (fun d c => d.setTent c addr { d.tent c addr with ver := v }) d)

/-- BLT_RD_STATE and BLT_RD_VERS of an entry. -/
def EntVer.stateBits (e : EntVer) : Nat := packFields [(0, 1, b2n e.v), (1, 1, b2n e.settled), (2, 1, b2n e.init), (3, 1, b2n e.dp)]
def EntVer.versBits (e : EntVer) : Nat := packFields [(0, 16, e.addVer), (16, 16, e.delVer)]

/-- READ (R204). -/
def Dev.bltRead (d : Dev) (s h : Nat) : Nat × Dev :=
  let i := s * 4 + h
  let d := d.stepClose s h
  match d.bltRefuse s i true false with
  | some e => (e, d)
  | none =>
    let copies := d.bltCopies s (d.rd R.BLT_CMD_TABLE i)
    match copies with
    | [] => (2, d)
    | r :: _ =>
      let addr := d.rd R.BLT_CMD_ADDR i
      let (ue, d) := d.shadowCheck r addr
      if ue then (8, d.tcamLost r addr)
      else
        let e := d.tent r addr
        let d := (d.unstage R.BLT_KEY i (80 * r.width) e.key).unstage R.BLT_MASK i (80 * r.width) e.mask
        let d := (d.wr R.BLT_CMD_PRIO i e.prio).wr R.BLT_CMD_RESULT i e.result
        (0, (d.wr R.BLT_RD_STATE i e.ver.stateBits).wr R.BLT_RD_VERS i e.ver.versBits)

/-- What SEARCH and SEARCH_NEXT return of a match: address, PRIO and RESULT. -/
def Dev.bltReturn (d : Dev) (i : Nat) (w : Nat × TcamEnt) : Dev :=
  ((d.wr R.BLT_RD_ADDR i w.1).wr R.BLT_CMD_PRIO i w.2.prio).wr R.BLT_CMD_RESULT i w.2.result

/-- SEARCH (R209): the whole status word. -/
def Dev.bltSearch (d : Dev) (s h cmd : Nat) : Nat × Dev :=
  let i := s * 4 + h
  let d := d.stepClose s h
  let vsel := fld cmd 4 2
  let table := d.rd R.BLT_CMD_TABLE i
  match d.vselVer vsel, d.bltCopies s table with
  | none, _ => (7, d)
  | some _, [] => (2, d)
  | some v, r :: _ =>
    let cfg := d.tcfg r
    let key := d.stagedNat R.BLT_KEY i % 2 ^ (80 * r.width)
    let ms := d.tcamMatches r key v
    let st := fun (hit tie : Bool) (res : Nat) => packFields [(16, 8, min 255 ms.length), (10, 1, b2n tie),
      (9, 1, b2n (decide (2 ≤ ms.length))), (8, 1, b2n hit), (0, 4, res)]
    match winner cfg.firstMatch ms with
    | none => (st false false 1, d)
    | some w =>
      let tie := !cfg.firstMatch && tied ms w
      match d.tcamVerify r key w.1 with
      | (.good, d) => (st true tie 0, (d.bltReturn i w).stepOpen s h ⟨table, vsel, key, w.2.resPrio, w.1⟩)
      | (.fail, d) => (st false tie 1, d.wr R.BLT_RD_ADDR i w.1)
      | (.memErr, d) => (st false tie 8, d.wr R.BLT_RD_ADDR i w.1)

/-- SEARCH_NEXT (R209): COUNT, MULTI and TIE stay as the SEARCH set them. -/
def Dev.bltNext (d : Dev) (s h : Nat) : Nat × Dev :=
  let i := s * 4 + h
  let st := fun (hit : Bool) (res : Nat) => putFld (putFld (d.rd R.BLT_CMD_STATUS i) 8 1 (b2n hit)) 0 4 res
  match SMap.get none d.tbl.steps (s * 4 + h) with
  | none => (st false 7, d)
  | some x =>
    match d.bltCopies s x.table with
    | [] => (st false 2, d)
    | r :: _ =>
      let cfg := d.tcfg r
      let last : Nat × TcamEnt := (x.addr, { prio := x.prio })
      let ms := (d.tcamMatches r x.key ((d.vselVer x.vsel).getD 0)).filter (fun e => before cfg.firstMatch last e)
      match winner cfg.firstMatch ms with
      | none => (st false 1, d.stepClose s h)
      | some w =>
        match d.tcamVerify r x.key w.1 with
        | (.good, d) => (st true 0, (d.bltReturn i w).stepOpen s h { x with prio := w.2.resPrio, addr := w.1 })
        | (.fail, d) => (st false 1, (d.wr R.BLT_RD_ADDR i w.1).stepClose s h)
        | (.memErr, d) => (st false 8, (d.wr R.BLT_RD_ADDR i w.1).stepClose s h)

/-- A command of a slice's bolter runs while the slice core runs. -/
def Dev.onSlice (d : Dev) (s : Nat) (f : Dev → Dev) : Dev := if (d.slc s).st = .run then f d else d

/-- The rows BLT_ADD to SEARCH_NEXT: the command at the head of slice `s`. -/
def Dev.bltCmd (d : Dev) (s op : Nat) : Dev :=
  d.onSlice s (fun d => d.cmdRun .blt s op (fun h v d => match op with
    | 1 => d.bltAdd s h
    | 2 => d.bltDelete s h
    | 3 => d.bltRead s h
    | 4 => d.bltSearch s h v
    | _ => d.bltNext s h))

/-! ## Scrubber and sweep (R190, R196, R197) -/

/-- The copy, row address and column that use block `b` of pipeline `p` at entry `n`, in a list of records. -/
def blockUser (rs : List Place16) (s p b n : Nat) : Option (Place16 × Nat × Nat) :=
  (rs.find? (fun r => decide (r.kind = 0) && decide (r.slice = s) && decide (r.first ≤ p * 12 + b) && decide (p * 12 + b < r.first + r.count))).map
    (fun r => let o := p * 12 + b - r.first; (r, (o / r.width) * 2048 + n, o % r.width))

/-- The check of one entry of one block (R190): a mismatch of cells and shadow is repaired. -/
def Dev.scrubEntry (d : Dev) (s p b n : Nat) : Dev :=
  let unit := unitOf s 0 p b 0 0
  let (ue, d) := d.shadowRead unit n
  let user := blockUser d.livePlaces s p b n
  let d := match ue, user with
    | true, some (r, addr, _) => d.tcamLost r addr
    | _, _ => d
  if d.errs.upsets.any (fun u => decide (u.cls = 6) && decide (u.unit = unit) && decide (u.loc = n)) then
    (((d.report 6 unit n false true).memWritten 6 unit n).inc R.BLT_SCRUB_REPAIRS (s * 4 + p) 1).raiseBit R.BLT_EVENTS s 1
  else d

/-- BLT_SCRUB_CHECK: every INTERVAL core clocks each block of the slice checks its next entry. -/
def Dev.bltScrub (d : Dev) (s : Nat) : Dev :=
  let x := d.tslice s
  let iv := max 16 (d.fldOf R.BLT_SCRUB s 0 8)
  if d.bitOf R.BLT_SCRUB s 31 && decide ((d.slc s).st = .run) && decide (x.scrubAt * 27 + iv * 20 ≤ d.now * 27) then
    let d := d.setTslice s { x with scrubPos := (x.scrubPos + 1) % 2048, scrubAt := d.now }
    forN 48 (fun k d => d.scrubEntry s (k / 12) (k % 12) x.scrubPos) d
  else d

/-- BLT_SWEEP_VISIT: the sweep visits one entry of every block of the slice. -/
def Dev.bltSweepVisit (d : Dev) (s : Nat) : Dev :=
  let x := d.tslice s
  if x.bltSweep && decide (0 < x.sweepLeft) && decide ((d.slc s).st = .run) then
    let d := d.setTslice s { x with sweepPos := (x.sweepPos + 1) % 2048, sweepLeft := x.sweepLeft - 1 }
    forN 48 (fun k d =>
      let key := (s * 48 + k) * 2048 + x.sweepPos
      let e := SMap.get {} d.tbl.tcam key
      { d with tbl := { d.tbl with tcam := SMap.set {} d.tbl.tcam key { e with ver := e.ver.swept d.oldestVer } } }) d
  else d

/-- BLT_SWEEP_DONE: the sweep has visited every entry. -/
def Dev.bltSweepDone (d : Dev) (s : Nat) : Dev :=
  let x := d.tslice s
  if x.bltSweep && decide (x.sweepLeft = 0) && decide ((d.slc s).st = .run) then
    (d.setTslice s { x with bltSweep := false }).raiseBit R.BLT_EVENTS s 3
  else d

/-- BLT_CASC of block `b` of pipeline `p` (R212). -/
def Dev.bltCasc (d : Dev) (s p b : Nat) : Nat :=
  let at_ := fun (img : List Byte) => (placements img).find? (fun r => decide (r.kind = 0) && decide (r.slice = s) && decide (r.first = p * 12 + b))
  let word := fun (r : Place16) (old new : Bool) =>
    let c := d.tcfg r
    packFields [(31, 1, 1), (30, 1, b2n old), (29, 1, b2n new), (28, 1, b2n c.firstMatch), (27, 1, b2n c.missOnly), (23, 4, r.depth), (19, 4, r.width), (0, 12, r.id)]
  let staged := decide (d.loader.st = .staged) || decide (d.loader.st = .armed)
  match at_ d.runImage with
  | some r => word r false false
  | none => match (match d.epochs.old with | some e => at_ (d.imageOf e) | none => none) with
    | some r => word r true false
    | none => match (if staged then at_ d.loader.img else none) with
      | some r => word r false true
      | none => 0

end Sys2Proof.Machine
end

