-- ==== Sys2Proof/Machine/Tables.lean ====
section
/-! DEFINITION. Exact-match and LPM tables, learning, ageing, the table engine and its command sets
(06_forwarding_tables). -/
namespace Sys2Proof.Machine

/-! ## Exact-match buckets (R213 to R215) -/

/-- CRC-32C with a given starting register and no final inversion (R214). -/
def crc32cInit (init : Nat) (bs : List Byte) : Nat := bs.foldl (fun c b => crcByte 0x82F63B78 c b) init

/-- The two candidate buckets of a key in a table of `n` buckets (R214). -/
def emBuckets (t key n : Nat) : Nat × Nat :=
  let msg := [BitVec.ofNat 8 (t / 16), BitVec.ofNat 8 (t % 16 * 16)] ++ beBytes 8 key
  let h1 := crc32cInit 0xFFFFFFFF msg ^^^ 0xFFFFFFFF
  let h2 := crc32cInit 0x5EED0000 msg ^^^ 0xFFFFFFFF
  let b1 := h1 * n / 2 ^ 32
  let b2 := h2 * n / 2 ^ 32
  (b1, if b2 = b1 then (b1 + 1) % n else b2)

/-- The place of overflow entry 0 among the locations of a slice (R602). -/
def ovfBase : Nat := 2097152

def Dev.eme (d : Dev) (s loc : Nat) : EmEnt := SMap.get {} d.tbl.em (s * 2 ^ 22 + loc)
/-- Hardware writes a whole exact-match entry (R224). -/
def Dev.setEme (d : Dev) (s loc : Nat) (e : EmEnt) : Dev :=
  ({ d with tbl := { d.tbl with em := SMap.set {} d.tbl.em (s * 2 ^ 22 + loc) e } }).memWritten 7 (unitOf s 0 0 0 0 0) loc
/-- A lookup changes a field of an entry: its HIT. -/
def Dev.modEme (d : Dev) (s loc : Nat) (f : EmEnt → EmEnt) : Dev :=
  { d with tbl := { d.tbl with em := SMap.modify {} d.tbl.em (s * 2 ^ 22 + loc) f } }

/-- Number of buckets of a table, and the location of slot `k` of its bucket `b`. -/
def Place16.buckets (r : Place16) : Nat := r.count * 4096
def Place16.slotLoc (r : Place16) (b k : Nat) : Nat := (r.first * 4096 + b) * 4 + k

/-- Locations of the overflow entries of a table, with V 1. -/
def Dev.ovfOf (d : Dev) (s t : Nat) : List Nat :=
  d.tbl.em.filterMap (fun e =>
    let loc := e.1 - s * 2 ^ 22
    if s * 2 ^ 22 + ovfBase ≤ e.1 ∧ loc < ovfBase + 8192 ∧ e.2.ver.v = true ∧ e.2.table = t then some loc else none)

/-- The bucket slots of a table that hold an entry with V 1. -/
def Dev.emUsed (d : Dev) (r : Place16) : List (Nat × EmEnt) :=
  d.tbl.em.filterMap (fun e =>
    let lo := r.slice * 2 ^ 22 + r.slotLoc 0 0
    if lo ≤ e.1 ∧ e.1 < lo + r.buckets * 4 ∧ e.2.ver.v = true then some (e.1 - r.slice * 2 ^ 22, e.2) else none)

/-- Every entry of a table with V 1: locations. -/
def Dev.emAll (d : Dev) (r : Place16) : List (Nat × EmEnt) :=
  d.emUsed r ++ (d.ovfOf r.slice r.id).map (fun l => (l, d.eme r.slice l))

/-- The locations that a lookup or command of a key reads: its two buckets and the table's overflow entries. -/
def Dev.emReads (d : Dev) (r : Place16) (key : Nat) : List Nat :=
  let (b1, b2) := emBuckets r.id key r.buckets
  (List.range 4).map (r.slotLoc b1) ++ (List.range 4).map (r.slotLoc b2) ++ d.ovfOf r.slice r.id

/-- Hardware writes an LPM slot, with the second slot of an IPv6 prefix (R224, R233). -/
def Dev.setLpm (d : Dev) (s slot : Nat) (e : LpmEnt) : Dev :=
  let d := { d with tbl := { d.tbl with lpm := SMap.set {} d.tbl.lpm (s * 2 ^ 21 + slot) e } }.memWritten 8 (unitOf s 0 0 0 0 0) slot
  if e.v6 then d.memWritten 8 (unitOf s 0 0 0 0 0) (slot + 1) else d

/-- A prefix leaves its slot, or its two. -/
def Dev.clearLpm (d : Dev) (s slot : Nat) : Dev :=
  let v6 := (SMap.get {} d.tbl.lpm (s * 2 ^ 21 + slot)).v6
  let d := d.setLpm s slot {}
  if v6 then d.memWritten 8 (unitOf s 0 0 0 0 0) (slot + 1) else d

/-- The slot at which the prefix that occupies slot `loc` begins. -/
def Dev.lpmStart (d : Dev) (s loc : Nat) : Nat :=
  let at_ := fun (k : Nat) => SMap.get {} d.tbl.lpm (s * 2 ^ 21 + k)
  if !(at_ loc).ver.v && decide (0 < loc) && (at_ (loc - 1)).ver.v && (at_ (loc - 1)).v6 then loc - 1 else loc

/-- An exact-match entry or LPM slot is lost (R254). -/
def Dev.tblLost (d : Dev) (s table loc : Nat) (lpm : Bool) : Dev :=
  let d := if lpm then (d.clearLpm s (d.lpmStart s loc)).memWritten 8 (unitOf s 0 0 0 0 0) loc
    else d.setEme s loc { d.eme s loc with ver := { (d.eme s loc).ver with v := false } }
  let d := (d.wr R.TBL_LAST_LOST s (packFields [(31, 1, 1), (30, 1, b2n lpm), (0, 12, table)])).wr R.TBL_LAST_LOST_LOC s loc
  (d.inc R.TBL_ENTRIES_LOST s 1).raiseBit R.TBL_EVENTS s 1

/-- Read locations of a table; uncorrectable ones are lost (R254). True where there was one. -/
def Dev.tblReads (d : Dev) (s table : Nat) (lpm : Bool) (locs : List Nat) : Bool × Dev :=
  locs.foldl (fun (ue, d) loc =>
    let (u, d) := d.memCheck (if lpm then 8 else 7) (unitOf s 0 0 0 0 0) loc
    (ue || u, if u then d.tblLost s table loc lpm else d)) (false, d)

/-- Read the locations of a key; uncorrectable ones are lost (R221, R254). True where there was one. -/
def Dev.emCheck (d : Dev) (r : Place16) (key : Nat) : Bool × Dev :=
  d.tblReads r.slice r.id false (d.emReads r key)

/-- Locations of the entries with V 1 that hold a key (R215). -/
def Dev.emFind (d : Dev) (r : Place16) (key : Nat) : List Nat :=
  (d.emReads r key).filter (fun l => let e := d.eme r.slice l; e.ver.v && decide (e.key = key))

/-- The entry of a key that is visible to a version (R217). -/
def Dev.emVisible (d : Dev) (r : Place16) (key v : Nat) : Option Nat :=
  (d.emFind r key).find? (fun l => (d.eme r.slice l).ver.visible v)

/-! ## Lookups by frames (R217 to R223, R235 to R237) -/

/-- A frame's exact-match lookup: record and the REASON that a memory error writes. -/
def Dev.emLookup (d : Dev) (s p : Nat) (ingress : Bool) (table key v : Nat) (img : List Byte) : Slot × Nat × Dev :=
  let d := d.inc R.TBL_EM_LOOKUPS s 1
  let d := if ingress then d.pmc s 0x031 p 1 else d
  match placeOf img 1 s table with
  | none => ({}, 0, d.inc R.TBL_NOTABLE s 1)
  | some r =>
    let cfg := d.tcfg r
    let key := key % 2 ^ 64
    let (ue, d) := d.emCheck r key
    if ue then ({ result := cfg.miss, err := true }, 0x11, d.inc R.TBL_MEM_MISSES s 1)
    else match d.emVisible r key v with
      | none => ({ result := cfg.miss }, 0, d)
      | some l =>
        let e := d.eme s l
        ({ result := e.result, hit := true, learned := e.learned }, 0,
          (d.modEme s l (fun e => { e with hit := true })).inc R.TBL_EM_HITS s 1)

/-- Address width of a table's prefixes. -/
def addrWidth (v6 : Bool) : Nat := if v6 then 128 else 32

/-- A prefix covers an address (R235). -/
def LpmEnt.covers (e : LpmEnt) (vrf addr : Nat) : Bool :=
  let w := addrWidth e.v6
  decide (e.vrf = vrf) && decide (e.addr / 2 ^ (w - e.plen) = addr % 2 ^ w / 2 ^ (w - e.plen))

/-- The prefixes of a table, with their store slots. -/
def Dev.lpmOf (d : Dev) (r : Place16) : List (Nat × LpmEnt) :=
  d.tbl.lpm.filterMap (fun e =>
    let lo := r.slice * 2 ^ 21 + r.first * 18750
    if lo ≤ e.1 ∧ e.1 < lo + r.count * 18750 ∧ e.2.ver.v = true then some (e.1 - r.slice * 2 ^ 21, e.2) else none)

/-- The longest of a list of prefixes. -/
def longest : List (Nat × LpmEnt) → Option (Nat × LpmEnt)
  | [] => none
  | a :: as => match longest as with
    | none => some a
    | some b => if a.2.plen < b.2.plen then some b else some a

/-- Read an index word in both copies (an upset's `bit` names its copy): one bad copy is corrected from the other and
rewritten, and two are an uncorrectable error (R237). -/
def Dev.lpmWord (d : Dev) (s w : Nat) : Bool × Dev :=
  let unit := unitOf s 0 0 0 0 0
  let bad := d.errs.upsets.filter (fun u => decide (u.cls = 9) && decide (u.unit = unit) && decide (u.loc = w))
  match bad with
  | [] => (false, d)
  | u :: _ =>
    let d := d.report 9 unit w (bad.any (·.ue)) u.inj
    if bad.any (fun x => x.ue && decide (x.bit = 0)) && bad.any (fun x => x.ue && decide (x.bit = 1)) then (true, d)
    else (false, d.memWritten 9 unit w)

/-- Slots of an LPM table, and of bucket `b` of it: 16, but for the last. -/
def Place16.lpmSlots (r : Place16) : Nat := r.count * 18750
def Place16.lpmBucketSlots (r : Place16) (b : Nat) : List Nat :=
  ((List.range 16).map (fun k => b * 16 + k)).filterMap (fun o => if o < r.lpmSlots then some (r.first * 18750 + o) else none)

/-- The bucket that the index of a table selects for an address of a VRF, and the index words read on the way (R236). DESIGN
CHOICE (log 16): the spec leaves the index to the device, and the model leaves it free. -/
def Dev.lpmBucketOf (d : Dev) (r : Place16) (vrf addr : Nat) : Nat :=
  Config.lpmBucket r.slice r.first (d.tcfg r).layout vrf addr % ((r.lpmSlots + 15) / 16)
def Dev.lpmWordsOf (d : Dev) (r : Place16) (vrf addr : Nat) : List Nat :=
  ((Config.lpmWords r.slice r.first (d.tcfg r).layout vrf addr).map (· % 1048576)).eraseDups

/-- What a lookup or a command of an address reads: the index words on its path with the covering record, and the 16 slots of
one bucket; true where an error reaches R221. -/
def Dev.lpmCheck (d : Dev) (r : Place16) (vrf addr : Nat) : Bool × Dev :=
  if d.errs.upsets.all (fun u => decide (u.cls ≠ 8) && decide (u.cls ≠ 9)) then (false, d)
  else
    let (bad, d) := (d.lpmWordsOf r vrf addr).foldl (fun (x : Bool × Dev) w =>
      let (u, d) := x.2.lpmWord r.slice w; (x.1 || u, d)) (false, d)
    let (ue, d) := d.tblReads r.slice r.id true (r.lpmBucketSlots (d.lpmBucketOf r vrf addr))
    (bad || ue, d)

/-- A frame's LPM lookup: record and the REASON that a memory error writes. The key is R261's 144 bits. -/
def Dev.lpmLookup (d : Dev) (s p table key v : Nat) (img : List Byte) : Slot × Nat × Dev :=
  let d := (d.inc R.TBL_LPM_LOOKUPS s 1).pmc s 0x032 p 1
  match placeOf img 2 s table with
  | none => ({}, 0, d.inc R.TBL_NOTABLE s 1)
  | some r =>
    let cfg := d.tcfg r
    let vrf := fld key 128 16
    let addr := key % 2 ^ 128
    let (ue, d) := d.lpmCheck r vrf (addr % 2 ^ addrWidth cfg.v6)
    if ue then ({ result := cfg.miss, err := true }, 0x11, d.inc R.TBL_MEM_MISSES s 1)
    else match longest ((d.lpmOf r).filter (fun e => e.2.covers vrf addr && e.2.ver.visible v)) with
      | none => ({ result := cfg.miss }, 0, d)
      | some (_, e) => ({ result := e.result, hit := true, addr := e.plen }, 0, d.inc R.TBL_LPM_HITS s 1)

/-! ## Insertion (R229 to R232) -/

/-- A location that no entry may take: occupied, or retired after a lasting fault (R580). -/
def Dev.emTaken (d : Dev) (s loc : Nat) : Bool :=
  (d.eme s loc).ver.v || d.errs.retired.contains (7, unitOf s 0 0 0 0 0, loc)

/-- The lowest free slot of a bucket, and how many of its slots are occupied. -/
def Dev.freeSlot (d : Dev) (r : Place16) (b : Nat) : Option Nat :=
  (List.range 4).find? (fun k => !d.emTaken r.slice (r.slotLoc b k))
def Dev.occupied (d : Dev) (r : Place16) (b : Nat) : Nat :=
  ((List.range 4).filter (fun k => d.emTaken r.slice (r.slotLoc b k))).length

/-- The other candidate bucket of the entry in a slot. -/
def Dev.otherBucket (d : Dev) (r : Place16) (b k : Nat) : Nat :=
  let e := d.eme r.slice (r.slotLoc b k)
  let (b1, b2) := emBuckets r.id e.key r.buckets
  if e.alt then b1 else b2

/-- Breadth-first search for a path (R229): `queue` holds paths, each newest (bucket, slot) first; `seen` the buckets
read or examined; `budget` the buckets that may still be examined. With `reads` a bucket examined is read for errors
(R254). True where one was met; the path found and the bucket it ends in. -/
def emSearch (r : Place16) (maxMoves : Nat) (reads : Bool) :
    Nat → Dev → List (List (Nat × Nat)) → List Nat → Nat → Bool → Bool × Option (List (Nat × Nat) × Nat) × Dev
  | 0, d, _, _, _, ue => (ue, none, d)
  | _ + 1, d, [], _, _, ue => (ue, none, d)
  | _ + 1, d, [] :: _, _, _, ue => (ue, none, d)
  | n + 1, d, ((b, k) :: up) :: rest, seen, budget, ue =>
    if !(d.eme r.slice (r.slotLoc b k)).ver.v ∨ maxMoves < up.length + 1 then emSearch r maxMoves reads n d rest seen budget ue
    else
      let o := d.otherBucket r b k
      if seen.contains o then emSearch r maxMoves reads n d rest seen budget ue
      else match budget with
        | 0 => (ue, none, d)
        | m + 1 =>
          let (u, d) := if reads then d.tblReads r.slice r.id false ((List.range 4).map (r.slotLoc o)) else (false, d)
          if (d.freeSlot r o).isSome then (ue || u, some ((b, k) :: up, o), d)
          else emSearch r maxMoves reads n d (rest ++ (List.range 4).map (fun j => (o, j) :: (b, k) :: up)) (o :: seen) m (ue || u)

/-- Move the entries of a path, last first (R230): each goes to the free slot of the bucket after it. The bucket and slot
left free at the start of the path. -/
def Dev.emMoves (d : Dev) (r : Place16) : List (Nat × Nat) → Nat → Nat × Nat × Dev
  | [], b => (b, (d.freeSlot r b).getD 0, d)
  | (b, k) :: up, o =>
    let e := d.eme r.slice (r.slotLoc b k)
    let d := d.setEme r.slice (r.slotLoc o ((d.freeSlot r o).getD 0)) { e with alt := !e.alt }
    let d := (d.setEme r.slice (r.slotLoc b k) {}).inc R.TBL_RELOCATIONS r.slice 1
    match up with
    | [] => (b, k, d)
    | _ => d.emMoves r up b

/-- The lowest free overflow entry. -/
def Dev.freeOvf (d : Dev) (s : Nat) : Option Nat := (List.range 8192).find? (fun k => !d.emTaken s (ovfBase + k))

/-- Overflow entries of a slice in use. -/
def Dev.ovfUsed (d : Dev) (s : Nat) : Nat :=
  (d.tbl.em.filter (fun e => decide (s * 2 ^ 22 + ovfBase ≤ e.1) && decide (e.1 < s * 2 ^ 22 + ovfBase + 8192) && e.2.ver.v)).length

/-- How an insertion ends. -/
inductive InsertEnd where
  /-- The entry stands at a location. -/
  | placed (loc : Nat)
  | noRoom
  /-- An entry that it read was uncorrectable. -/
  | memErr
  deriving DecidableEq, Repr

/-- Insert an entry (R229). With `reads` the buckets examined are read for errors, and with `stops` one ends the insertion
before it changes anything (R643). -/
def Dev.emInsert (d : Dev) (r : Place16) (e : EmEnt) (ovfMax maxMoves searchMax : Nat) (reads stops : Bool) : InsertEnd × Dev :=
  let s := r.slice
  let (b1, b2) := emBuckets r.id e.key r.buckets
  let place := fun (d : Dev) (b k : Nat) =>
    (.placed (r.slotLoc b k), d.setEme s (r.slotLoc b k) { e with alt := decide (b ≠ b1), table := 0 })
  let b := match d.freeSlot r b1, d.freeSlot r b2 with
    | some _, some _ => some (if d.occupied r b2 < d.occupied r b1 then b2 else b1)
    | some _, none => some b1
    | none, some _ => some b2
    | none, none => none
  match b with
  | some b => place d b ((d.freeSlot r b).getD 0)
  | none =>
    let start := (List.range 4).map (fun k => [(b1, k)]) ++ (List.range 4).map (fun k => [(b2, k)])
    match emSearch r maxMoves reads 300 d start [b1, b2] searchMax false with
    | (ue, found, d) =>
    if ue && stops then (.memErr, d) else
    match found with
    | some (path, o) => let (b, k, d) := d.emMoves r path o; place d b k
    | none =>
      match (if (d.ovfOf s r.id).length < ovfMax then d.freeOvf s else none) with
      | some k =>
        let d := (d.setEme s (ovfBase + k) { e with alt := false, table := r.id }).inc R.TBL_OVF_INSERTS s 1
        (.placed (ovfBase + k), if d.ovfUsed s = d.fldOf R.TBL_OVF_HIGH s 0 14 then d.raiseBit R.TBL_EVENTS s 4 else d)
      | none => (.noRoom, d)

/-- MAX_MOVES and SEARCH_MAX of a slice (R255). -/
def Dev.maxMoves (d : Dev) (s : Nat) : Nat := min 4 (d.fldOf R.TBL_EM_CTRL s 0 3)
def Dev.searchMax (d : Dev) (s : Nat) : Nat := min 32 (max 1 (d.fldOf R.TBL_EM_CTRL s 8 6))

/-- An insertion by the table engine of a running slice, for a command (`stops`) or a learn. -/
def Dev.emEngine (d : Dev) (r : Place16) (e : EmEnt) (stops : Bool) : InsertEnd × Dev :=
  d.emInsert r e (d.tcfg r).ovfMax (d.maxMoves r.slice) (d.searchMax r.slice) true stops

/-! ## LPM prefixes (R233, R234, R239) -/

/-- A prefix is well formed (R234). -/
def prefixOk (v6 : Bool) (plen addr : Nat) : Bool :=
  let w := addrWidth v6
  decide (plen ≤ w) && decide (addr % 2 ^ w % 2 ^ (w - plen) = 0)

/-- The lowest free slot, or pair of slots, from `cand` on, given the slots in use in rising order. -/
def lpmFree (step : Nat) : Nat → List Nat → Nat
  | cand, [] => cand
  | cand, x :: xs => if x = cand then lpmFree step (cand + step) xs else if x < cand then lpmFree step cand xs else cand

/-- The slots of a table that no prefix may take, in rising order: occupied, or retired (R580). -/
def Dev.lpmUsed (d : Dev) (r : Place16) : List Nat :=
  let gone := (d.errs.retired.filter (fun x => decide (x.1 = 8) && decide (x.2.1 = unitOf r.slice 0 0 0 0 0))).map (fun x => x.2.2)
  rising ((d.lpmOf r).flatMap (fun e => if e.2.v6 then [e.1, e.1 + 1] else [e.1]) ++ gone)

/-- The lowest place for a prefix of `step` slots in bucket `b`. -/
def Place16.lpmPlace (r : Place16) (used : List Nat) (step b : Nat) : Option Nat :=
  let slots := r.lpmBucketSlots b
  slots.find? (fun k => decide ((k - r.first * 18750) % step = 0)
    && (List.range step).all (fun j => slots.contains (k + j) && !used.contains (k + j)))

/-- The split of bucket `b` into the free bucket `n` (R239): the prefixes that move are written there, the index switches to
its new layout, whose words on the path are written, and the old slots are freed. -/
def Dev.lpmSplit (d : Dev) (r : Place16) (b n vrf addr : Nat) : Dev :=
  let unit := unitOf r.slice 0 0 0 0 0
  let layout := (d.tcfg r).layout
  let moving := (d.lpmOf r).filter (fun e => decide ((e.1 - r.first * 18750) / 16 = b) && Config.lpmMoves r.slice layout e.1)
  let d := moving.foldl (fun d e => d.setLpm r.slice (e.1 + (n - b) * 16) e.2) d
  let d := { d with tbl := { d.tbl with
    cfg := SMap.modify {} d.tbl.cfg (cfgKey r.slice r.kind r.first) (fun c => { c with layout := layout + 1 }) } }
  let d := (d.lpmWordsOf r vrf addr).foldl (fun d w => d.memWritten 9 unit w) d
  moving.foldl (fun d e => d.clearLpm r.slice e.1) d

/-- Add a prefix: its slot, or none where the table is full (R233). DESIGN CHOICE (log 16): the lowest free place of its
bucket; a full bucket is split into the lowest bucket that is wholly free and above it, and the prefix takes the lowest free
place of the two; where there is none, the lowest free place of the table, so that R233 holds. -/
def Dev.lpmAdd (d : Dev) (r : Place16) (e : LpmEnt) : Option Nat × Dev :=
  let step := if e.v6 then 2 else 1
  let put := fun (d : Dev) (slot : Nat) => (some slot, d.setLpm r.slice slot e)
  let anywhere := fun (d : Dev) =>
    let slot := lpmFree step (r.first * 18750) (d.lpmUsed r)
    if slot + step ≤ (r.first + r.count) * 18750 then put d slot else (none, d)
  let b := d.lpmBucketOf r e.vrf e.addr
  let used := d.lpmUsed r
  match r.lpmPlace used step b with
  | some k => put d k
  | none =>
    match (List.range (r.lpmSlots / 16)).find? (fun n => decide (b < n) && (r.lpmBucketSlots n).all (fun k => !used.contains k)) with
    | none => anywhere d
    | some n =>
      let d := d.lpmSplit r b n e.vrf e.addr
      match r.lpmPlace (d.lpmUsed r) step b with
      | some k => put d k
      | none => match r.lpmPlace (d.lpmUsed r) step n with
        | some k => put d k
        | none => anywhere d

/-- The prefix of exactly this VRF, address and length that is visible to a version. -/
def Dev.lpmExact (d : Dev) (r : Place16) (vrf addr plen v : Nat) : Option Nat :=
  ((d.lpmOf r).find? (fun e => decide (e.2.vrf = vrf) && decide (e.2.addr = addr) && decide (e.2.plen = plen) && e.2.ver.visible v)).map (·.1)

/-! ## Learn events (R244) -/

/-- Post a learn event to every host port that enables its type. -/
def Dev.learnEvent (d : Dev) (s typ table key result : Nat) : Dev :=
  let pay := leBytes 4 (packFields [(0, 4, typ), (4, 3, s), (16, 12, table)]) ++ leBytes 8 key ++ leBytes 4 result
  forN 4 (fun h d => if d.bitOf R.TBL_LEARN_EV (s * 4 + h) (typ - 1) then d.post h 1 2 0 pay else d) d

/-- A NO_ROOM (0x4) or LIMIT (0x5) event, at most one per table and millisecond (R244). -/
def Dev.learnBudget (d : Dev) (s typ table key result : Nat) : Dev :=
  let x := d.tslice s
  let m := if typ = 4 then x.noRoomAt else x.limitAt
  let t := SMap.get 0 m table
  if t ≠ 0 ∧ d.now + 1 < t + 1000000 then d
  else
    let m := SMap.set 0 m table (d.now + 1)
    (d.setTslice s (if typ = 4 then { x with noRoomAt := m } else { x with limitAt := m })).learnEvent s typ table key result

/-! ## Learning (R240 to R243, R247) -/

/-- A learn request of a frame or of a thread (R240). DESIGN CHOICE (log 17): the table is tested before the queue. -/
def Dev.learnRequest (d : Dev) (s table key result : Nat) (img : List Byte) : Dev :=
  match placeOf img 1 s table with
  | none => d.inc R.TBL_LEARN_BADTAB s 1
  | some r =>
    let x := d.tslice s
    if !(d.tcfg r).learnEn then d.inc R.TBL_LEARN_BADTAB s 1
    else if 4096 ≤ x.learnQ.length then (d.inc R.TBL_LEARN_QFULL s 1).raiseBit R.TBL_EVENTS s 2
    else d.setTslice s { x with learnQ := x.learnQ ++ [LearnReq.mk table (key % 2 ^ 64) result r.first r.count (d.tcfg r).born] }

/-- Learned entries of a table. -/
def Dev.learnedOf (d : Dev) (r : Place16) : Nat := ((d.emAll r).filter (fun e => e.2.learned)).length

/-- The action of a learn (R242). -/
def Dev.learnAct (d : Dev) (r : Place16) (q : LearnReq) : Dev :=
  let s := r.slice
  let (_, d) := d.emCheck r q.key
  let here := d.emFind r q.key
  let live := fun (e : EmEnt) => e.ver.visible d.oldestVer || e.ver.visible d.vers.cur || e.ver.visible d.openVer
  match here.find? (fun l => (d.eme s l).learned) with
  | some l =>
    if (d.eme s l).result = q.result then
      (d.setEme s l { d.eme s l with hit := true, age := 0 }).inc R.TBL_LEARN_REFRESH s 1
    else
      let d := d.setEme s l { d.eme s l with result := q.result, hit := true, age := 0 }
      (d.inc R.TBL_LEARN_MOVES s 1).learnEvent s 2 q.table q.key q.result
  | none =>
    if here.any (fun l => live (d.eme s l)) then d.inc R.TBL_LEARN_STATIC s 1
    else if (d.tcfg r).learnMax ≠ 0 ∧ (d.tcfg r).learnMax ≤ d.learnedOf r then
      (d.inc R.TBL_LEARN_LIMIT s 1).learnBudget s 5 q.table q.key q.result
    else
      match d.emEngine r { key := q.key, result := q.result, ver := { v := true, settled := true }, learned := true, hit := true } false with
      | (.placed _, d) => (d.inc R.TBL_LEARNS s 1).learnEvent s 1 q.table q.key q.result
      | (_, d) => ((d.inc R.TBL_LEARN_NOROOM s 1).raiseBit R.TBL_EVENTS s 3).learnBudget s 4 q.table q.key q.result

/-- The table engine takes the oldest learn request (R240, R242). -/
def Dev.learnTake (d : Dev) (s : Nat) : Dev :=
  let x := d.tslice s
  match x.learnQ with
  | [] => d
  | q :: qs =>
    let d := (d.setTslice s { x with learnQ := qs, lastKind := 1, learnAt := some d.now }).pmcAny s 0x033 1
    match d.livePlaces.find? (fun r => decide (r.kind = 1) && decide (r.id = q.table) && decide (r.slice = s)
        && decide (r.first = q.first) && decide (r.count = q.count) && (d.tcfg r).learnEn && decide ((d.tcfg r).born = q.born)) with
    | none => d.inc R.TBL_LEARN_BADTAB s 1
    | some r => d.learnAct r q

/-- LEARN_EXECUTE: the table engine takes the oldest learn when it is its turn (R241, R242, R247). -/
def Dev.learnExecute (d : Dev) (s : Nat) : Dev :=
  d.onSlice s (fun d =>
    let x := d.tslice s
    if !d.learnReady s then d
    else if d.cmdQ .tbl s ≠ [] ∧ x.lastKind ≠ 2 then d
    else (d.learnTake s).drainBad .tbl s 8)

/-! ## Command sets (R224 to R226, R251 to R253, R643) -/

/-- The record of the set's table in the running image, of either kind. -/
def Dev.tblPlace (d : Dev) (s i : Nat) : Option Place16 :=
  let t := d.rd R.TBL_CMD_TABLE i
  match placeOf d.runImage 1 s t with
  | some r => some r
  | none => placeOf d.runImage 2 s t

/-- Staged keys: exact match; LPM address cut to the family's width, and VRF (R235, R251). -/
def Dev.emKeyOf (d : Dev) (i : Nat) : Nat := d.rd R.TBL_KEY (i * 5) + d.rd R.TBL_KEY (i * 5 + 1) * 2 ^ 32
def Dev.lpmAddrOf (d : Dev) (i : Nat) (v6 : Bool) : Nat :=
  let a := (List.range 4).foldl (fun n j => n + d.rd R.TBL_KEY (i * 5 + j) * 2 ^ (32 * j)) 0
  a % 2 ^ addrWidth v6
def Dev.lpmVrfOf (d : Dev) (i : Nat) : Nat := d.fldOf R.TBL_KEY (i * 5 + 4) 0 16
def Dev.plenOf (d : Dev) (i : Nat) : Nat := d.fldOf R.TBL_CMD_FLAGS i 0 8

/-- Status word of a table command. -/
def tblStatus (res : Nat) (hit : Bool) (plen : Nat) : Nat := packFields [(16, 8, plen), (8, 1, b2n hit), (0, 4, res)]

/-- TBL_RD_LOC of a location (R251). -/
def rdLoc (r : Place16) (loc : Nat) : Nat :=
  if ovfBase ≤ loc then packFields [(31, 1, 1), (0, 13, loc - ovfBase)]
  else packFields [(0, 19, loc / 4 - r.first * 4096), (19, 2, loc % 4)]

/-- Return an exact-match entry in the set's registers. -/
def Dev.emReturn (d : Dev) (i : Nat) (r : Place16) (loc : Nat) : Dev :=
  let e := d.eme r.slice loc
  let st := e.ver.stateBits + packFields [(4, 1, b2n e.learned), (5, 1, b2n e.hit), (6, 4, e.age), (10, 1, b2n e.alt)]
  let d := (d.wr R.TBL_KEY (i * 5) (e.key % 2 ^ 32)).wr R.TBL_KEY (i * 5 + 1) (e.key / 2 ^ 32)
  (((d.wr R.TBL_CMD_RESULT i e.result).wr R.TBL_RD_STATE i st).wr R.TBL_RD_VERS i e.ver.versBits).wr R.TBL_RD_LOC i (rdLoc r loc)

/-- Return an LPM prefix in the set's registers; TBL_RD_LOC has no fields for one and stays (log 16). -/
def Dev.lpmReturn (d : Dev) (i s slot : Nat) : Dev :=
  let e := SMap.get {} d.tbl.lpm (s * 2 ^ 21 + slot)
  let d := forN 4 (fun j d => d.wr R.TBL_KEY (i * 5 + j) (fld e.addr (32 * j) 32)) d
  let d := d.wr R.TBL_KEY (i * 5 + 4) e.vrf
  ((d.wr R.TBL_CMD_RESULT i e.result).wr R.TBL_RD_STATE i e.ver.stateBits).wr R.TBL_RD_VERS i e.ver.versBits

/-- ADD, DELETE and REPLACE on an exact-match table. -/
def Dev.emChange (d : Dev) (i op : Nat) (r : Place16) : Nat × Dev :=
  let s := r.slice
  let key := d.emKeyOf i
  let (ue, d) := d.emCheck r key
  if ue then (8, d)
  else
    let new : EmEnt := { key := key, result := d.rd R.TBL_CMD_RESULT i, ver := { v := true, addVer := d.openVer } }
    match op, d.emVisible r key d.openVer with
    | 1, some _ => (4, d)
    | 1, none => match d.emEngine r new true with
      | (.placed _, d) => (0, d)
      | (.noRoom, d) => (9, d)
      | (.memErr, d) => (8, d)
    | _, none => (5, d)
    | 2, some l =>
      let e := d.eme s l
      if e.learned then (0, d.setEme s l { e with ver := { e.ver with v := false } })
      else match e.ver.deleted d.openVer with
        | some v => (0, d.setEme s l { e with ver := v })
        | none => (5, d)
    | _, some l =>
      let e := d.eme s l
      if e.learned then (0, d.setEme s l { e with result := new.result })
      else match d.emEngine r new true with
        | (.noRoom, d) => (9, d)
        | (.memErr, d) => (8, d)
        | (.placed n, d) =>
          match (d.emFind r key).find? (fun k => decide (k ≠ n) && decide ((d.eme s k).ver = e.ver)), e.ver.deleted d.openVer with
          | some k, some v => (0, d.setEme s k { d.eme s k with ver := v })
          | _, _ => (0, d)

/-- ADD, DELETE and REPLACE on an LPM table. -/
def Dev.lpmChange (d : Dev) (i op : Nat) (r : Place16) : Nat × Dev :=
  let s := r.slice
  let v6 := (d.tcfg r).v6
  let addr := d.lpmAddrOf i v6
  let vrf := d.lpmVrfOf i
  let plen := d.plenOf i
  let (ue, d) := d.lpmCheck r vrf addr
  if ue then (8, d)
  else
    let new : LpmEnt := {
      vrf := vrf, addr := addr, plen := plen, result := d.rd R.TBL_CMD_RESULT i, v6 := v6, ver := { v := true, addVer := d.openVer } }
    match op, d.lpmExact r vrf addr plen d.openVer with
    | 1, some _ => (4, d)
    | 1, none => match d.lpmAdd r new with
      | (some _, d) => (0, d)
      | (none, d) => (9, d)
    | _, none => (5, d)
    | op, some l =>
      let e := SMap.get {} d.tbl.lpm (s * 2 ^ 21 + l)
      match e.ver.deleted d.openVer with
      | none => (5, d)
      | some v =>
        let gone := fun (d : Dev) (l : Nat) => if v.v then d.setLpm s l { e with ver := v } else d.clearLpm s l
        if op = 2 then (0, gone d l)
        else match d.lpmAdd r new with
          | (some n, d) =>
            match (d.lpmOf r).find? (fun x => decide (x.1 ≠ n) && decide (x.2 = e)) with
            | some x => (0, gone d x.1)
            | none => (0, d)
          | (none, d) => (9, d)

/-- READ and LOOKUP: status and effects. -/
def Dev.tblFind (d : Dev) (i op v : Nat) (r : Place16) : Nat × Dev :=
  if r.kind = 1 then
    let key := d.emKeyOf i
    let (ue, d) := d.emCheck r key
    if ue then (tblStatus 8 false 0, d)
    else match d.emVisible r key v with
      | some l => (tblStatus 0 true 0, d.emReturn i r l)
      | none => (tblStatus 1 false 0, d)
  else
    let v6 := (d.tcfg r).v6
    let addr := d.lpmAddrOf i v6
    let vrf := d.lpmVrfOf i
    let (ue, d) := d.lpmCheck r vrf addr
    if ue then (tblStatus 8 false 0, d)
    else
      let found := if op = 4 then d.lpmExact r vrf addr (d.plenOf i) v
        else (longest ((d.lpmOf r).filter (fun e => e.2.covers vrf addr && e.2.ver.visible v))).map (·.1)
      match found with
      | some l => (tblStatus 0 true (if op = 5 then (SMap.get {} d.tbl.lpm (r.slice * 2 ^ 21 + l)).plen else 0), d.lpmReturn i r.slice l)
      | none => (tblStatus 1 false 0, d)

/-- READ_SLOT (R252). -/
def Dev.tblSlot (d : Dev) (i : Nat) (r : Place16) : Nat × Dev :=
  let v := d.rd R.TBL_CMD_LOC i
  let ovf := decide (fld v 31 1 = 1)
  if !ovf && decide (r.buckets ≤ fld v 0 19) then (tblStatus 0xA false 0, d)
  else
    let loc := if ovf then ovfBase + fld v 0 13 else r.slotLoc (fld v 0 19) (fld v 19 2)
    let (ue, d) := d.memCheck 7 (unitOf r.slice 0 0 0 0 0) loc
    if ue then (tblStatus 8 false 0, d.tblLost r.slice r.id loc false)
    else (tblStatus 0 (d.eme r.slice loc).ver.v 0, d.emReturn i r loc)

/-- The live EM record that owns a location: overflow entries by their TABLE_ID, bucket entries by their bucket. -/
def ownerOf (rs : List Place16) (s loc : Nat) (e : EmEnt) : Option Place16 :=
  rs.find? (fun r => decide (r.kind = 1) && decide (r.slice = s) &&
    (if ovfBase ≤ loc then decide (r.id = e.table) else decide (r.slotLoc 0 0 ≤ loc) && decide (loc < r.slotLoc 0 0 + r.buckets * 4)))

/-- The live LPM record that owns a slot. -/
def lpmOwner (rs : List Place16) (s slot : Nat) : Option Place16 :=
  rs.find? (fun r => decide (r.kind = 2) && decide (r.slice = s) && decide (r.first * 18750 ≤ slot) && decide (slot < r.first * 18750 + r.lpmSlots))

/-- Places of a class in a slice that hold an error, in rising order. -/
def Dev.upsetLocs (d : Dev) (cls s : Nat) : List Nat :=
  (rising ((d.errs.upsets.filter (fun u => decide (u.cls = cls) && decide (u.unit = unitOf s 0 0 0 0 0))).map (·.loc))).eraseDups

/-- The walker reads the exact-match entries of the tables that `sel` selects; uncorrectable ones are lost (R254). -/
def Dev.walkEm (d : Dev) (s : Nat) (sel : Place16 → Bool) : Bool × Dev :=
  (d.upsetLocs 7 s).foldl (fun (x : Bool × Dev) loc =>
    match ownerOf x.2.livePlaces s loc (x.2.eme s loc) with
    | none => x
    | some r => if sel r then let (u, d) := x.2.tblReads s r.id false [loc]; (x.1 || u, d) else x) (false, d)

/-- The walker reads the LPM slots of a slice. -/
def Dev.walkLpm (d : Dev) (s : Nat) : Dev :=
  (d.upsetLocs 8 s).foldl (fun d loc =>
    match lpmOwner d.livePlaces s loc with
    | none => d
    | some r => (d.tblReads s r.id true [loc]).2) d

/-- Where the walker passes a location of a table: at its bucket, and at overflow entries after the last bucket. -/
def Place16.walkPos (r : Place16) (loc : Nat) : Nat := if ovfBase ≤ loc then r.buckets else loc / 4 - r.first * 4096

/-- The walker frees the learned entries that `sel` selects from position `lo` to before `hi` (R252). -/
def Dev.flushPart (d : Dev) (r : Place16) (sel : EmEnt → Bool) (lo hi : Nat) : Dev :=
  (d.emAll r).foldl (fun d e =>
    if lo ≤ r.walkPos e.1 ∧ r.walkPos e.1 < hi ∧ e.2.learned = true ∧ sel e.2 = true then
      (d.setEme r.slice e.1 { e.2 with ver := { e.2.ver with v := false } }).learnEvent r.slice 6 r.id e.2.key e.2.result
    else d) d

/-- The walker's pass from position `lo` to the end; at each position of `during` at or past the walker the table engine
takes a learn, whose entry survives where its bucket has been passed (R252). -/
def Dev.flushWalk (d : Dev) (r : Place16) (sel : EmEnt → Bool) (lo : Nat) : List Nat → Dev
  | [] => d.flushPart r sel lo (r.buckets + 1)
  | p :: ps =>
    let p := min (max lo p) r.buckets
    let d := d.flushPart r sel lo p
    (if d.bitOf R.TBL_LEARN_CTRL r.slice 0 then d.learnTake r.slice else d).flushWalk r sel p ps

/-- FLUSH_LEARNED (R252): the walker's pass over the table, with the learns of R241 that the table engine takes meanwhile. An
uncorrectable entry that it meets ends it with MEM_ERR, and nothing but that entry is freed (R643). The whole pass is one
step (log 18). -/
def Dev.tblFlush (d : Dev) (i : Nat) (r : Place16) (during : List Nat) : Nat × Dev :=
  let (ue, d) := d.walkEm r.slice (fun q => decide (q = r))
  if ue then (8, d) else
  let by_ := d.bitOf R.TBL_CMD_FLAGS i 8
  let m := d.rd R.TBL_KEY (i * 5)
  let want := d.rd R.TBL_CMD_RESULT i &&& m
  (0, d.flushWalk r (fun e => !by_ || decide (e.result &&& m = want)) 0 during)

/-- STAT (R252). -/
def Dev.tblStat (d : Dev) (i : Nat) (r : Place16) : Dev :=
  if r.kind = 1 then
    ((d.wr R.TBL_RD_USED i (d.emAll r).length).wr R.TBL_RD_LEARNED i (d.learnedOf r)).wr R.TBL_RD_OVF i (d.ovfOf r.slice r.id).length
  else d.wr R.TBL_RD_USED i (((d.lpmOf r).map (fun e => if e.2.v6 then 2 else 1)).foldl (· + ·) 0)

/-- A table command: status word and effects, failing conditions in the order of R643; `during` places the learns of a
flush. -/
def Dev.tblExec (d : Dev) (s h cmd : Nat) (during : List Nat) : Nat × Dev :=
  let i := s * 4 + h
  let op := cmd % 16
  let ver := d.vselVer (fld cmd 4 2)
  match (if (op = 4 ∨ op = 5) ∧ ver = none then none else some ()), d.tblPlace s i with
  | none, _ => (7, d)
  | some _, none => (2, d)
  | some _, some r =>
    if r.kind = 2 ∧ (op = 6 ∨ op = 7) then (7, d)
    else match op with
      | 4 | 5 => d.tblFind i op (ver.getD 0) r
      | 6 => d.tblSlot i r
      | 7 => d.tblFlush i r during
      | 8 => (0, d.tblStat i r)
      | _ =>
        let bad := decide (r.kind = 2) && decide (op = 1) && !prefixOk (d.tcfg r).v6 (d.plenOf i) (d.lpmAddrOf i (d.tcfg r).v6)
        if bad then (3, d)
        else if d.vers.pending then (6, d)
        else if r.kind = 1 then d.emChange i op r else d.lpmChange i op r

/-- The rows TBL_ADD to STAT: the command at the head of slice `s`, when it is the turn of a command (R247). -/
def Dev.tblCmd (d : Dev) (s op : Nat) (during : List Nat) : Dev :=
  d.onSlice s (fun d =>
    if d.learnReady s ∧ (d.tslice s).lastKind = 2 then d
    else match d.cmdHead .tbl s op with
      | none => d
      | some _ => d.cmdRun .tbl s op (fun h v d => d.tblExec s h v during))

/-! ## Walker (R227, R228, R245, R246) -/

/-- The walker's writes: every exact-match entry and LPM prefix of a slice that a change alters is written whole. -/
def Dev.emMap (d : Dev) (s : Nat) (f : EmEnt → EmEnt) : Dev :=
  d.tbl.em.foldl (fun d e => if e.1 / 2 ^ 22 = s ∧ f e.2 ≠ e.2 then d.setEme s (e.1 % 2 ^ 22) (f e.2) else d) d
def Dev.lpmMap (d : Dev) (s : Nat) (f : EntVer → EntVer) : Dev :=
  d.tbl.lpm.foldl (fun d e =>
    if e.1 / 2 ^ 21 = s ∧ f e.2.ver ≠ e.2.ver then
      if (f e.2.ver).v then d.setLpm s (e.1 % 2 ^ 21) { e.2 with ver := f e.2.ver } else d.clearLpm s (e.1 % 2 ^ 21)
    else d) d

/-- TBL_SWEEP_DONE (R227): the walker's pass over the stores of a slice ends. DESIGN CHOICE (log 18): the pass acts on
every entry in this one step, with the oldest live version of that moment. -/
def Dev.tblSweepDone (d : Dev) (s : Nat) : Dev :=
  d.onSlice s (fun d =>
    let x := d.tslice s
    if !x.tblSweep then d
    else
      let b := d.oldestVer
      let d := (d.walkEm s (fun _ => true)).2.walkLpm s
      let d := d.emMap s (fun e => if e.learned then e else { e with ver := e.ver.swept b })
      let d := d.lpmMap s (fun v => v.swept b)
      (d.setTslice s { d.tslice s with tblSweep := false }).raiseBit R.TBL_EVENTS s 0)

/-- One learned entry at an ageing pass (R245). -/
def Dev.ageEntry (d : Dev) (s : Nat) (r : Place16) (loc : Nat) : Dev :=
  let e := d.eme s loc
  let lim := (d.tcfg r).ageLimit
  if lim = 0 then d
  else if e.hit then d.setEme s loc { e with hit := false, age := 0 }
  else if lim ≤ e.age + 1 then
    ((d.setEme s loc { e with ver := { e.ver with v := false } }).inc R.TBL_AGED s 1).learnEvent s 3 r.id e.key e.result
  else d.setEme s loc { e with age := e.age + 1 }

/-- An ageing pass of a slice waits for a sweep or has fallen due (R245, R246). -/
def Dev.ageDue (d : Dev) (s : Nat) : Bool :=
  let x := d.tslice s
  d.bitOf R.TBL_AGE_CTRL s 31 && (x.ageWait || decide (x.ageLast + max 1 (d.fldOf R.TBL_AGE_CTRL s 0 16) * 100000000 ≤ d.now))

/-- AGEING_PASS (R245, R246): due every TICK * 100 ms; a pass that falls due during a sweep waits and counts as late. A
slice that does not run is woken for it (R537). -/
def Dev.ageingPass (d : Dev) (s : Nat) : Dev :=
  let x := d.tslice s
  if !d.ageDue s then d
  else if (d.slc s).st ≠ .run then d.wake s
  else if x.tblSweep then d.setTslice s { x with ageWait := true }
  else
    let d := if x.ageWait then d.inc R.TBL_AGE_LATE s 1 else d
    let d := d.setTslice s { x with ageWait := false, ageLast := d.now }
    let d := (d.walkEm s (fun r => decide ((d.tcfg r).ageLimit ≠ 0))).2
    let rs := d.livePlaces
    let d := d.tbl.em.foldl (fun d e =>
      if e.1 / 2 ^ 22 = s ∧ e.2.ver.v = true ∧ e.2.learned = true then
        match ownerOf rs s (e.1 % 2 ^ 22) e.2 with
        | some r => d.ageEntry s r (e.1 % 2 ^ 22)
        | none => d
      else d) d
    d.raiseBit R.TBL_EVENTS s 5

/-- TBL_STATUS (R255): AGE_BUSY from when a pass falls due to its end, FLUSH_BUSY while a FLUSH_LEARNED is the oldest
command (log 120). -/
def Dev.tblStatusReg (d : Dev) (s : Nat) : Nat :=
  packFields [(0, 1, b2n (d.tslice s).tblSweep), (1, 1, b2n (d.ageDue s)), (2, 1, b2n (d.cmdHead .tbl s 7).isSome), (16, 13, (d.tslice s).learnQ.length)]

end Sys2Proof.Machine
end

