-- ==== Sys2Proof/Machine/Stages.lean ====
section
/-! DEFINITION. Match-action stages: descriptors, keys, lookups, dispatch, operations, edits and verdicts
(07_action_stages, R256 to R280, R284 to R287, R644). -/
namespace Sys2Proof.Machine

/-- What one stage works on: where it is, the frame's or copy's tag and pass, FRAME_LEN (0 while unknown), the H of R275 and
the byte counts that wait for the length. -/
structure Work where
  egress : Bool
  s : Nat
  p : Nat
  n : Nat
  tag : Tag
  ps : Pass
  flen : Nat
  hlen : Nat
  deferred : List Deferred
  /-- Patches that the word's operations asked for (R274): raw IMM, MISC, value, whether LEN_AFTER. -/
  patches : List (Nat × Nat × Nat × Bool) := []
  deriving DecidableEq, Repr

/-! ## Errors that stages count (R260, R269, R275, R287) -/

/-- STG_LAST_ERR (R288). -/
def Dev.stgLast (d : Dev) (egress : Bool) (s p stage kind word : Nat) : Dev :=
  d.wr R.STG_LAST_ERR s (packFields [(31, 1, 1), (30, 1, b2n egress), (28, 2, p), (23, 5, stage), (20, 3, kind), (0, 10, word)])

/-- Kinds of stage errors. -/
inductive StgErr where
  | badAddr | edit | mem | badOp
  deriving DecidableEq, Repr

/-- Count a stage error, set its event and STG_LAST_ERR. -/
def Dev.stgErr (d : Dev) (egress : Bool) (s p stage : Nat) (e : StgErr) (word : Nat) : Dev :=
  let (ctr, bit, kind) := match e, egress with
    | .badAddr, false => (R.STG_I_BAD_ADDR, 0, 1)
    | .badAddr, true => (R.STG_E_BAD_ADDR, 0, 1)
    | .edit, false => (R.STG_I_EDIT_ERRS, 1, 2)
    | .edit, true => (R.STG_E_EDIT_ERRS, 1, 2)
    | .mem, false => (R.STG_I_MEM_ERRS, 2, 3)
    | .mem, true => (R.STG_E_MEM_ERRS, 2, 3)
    | .badOp, false => (R.STG_I_BAD_OPS, 3, 4)
    | .badOp, true => (R.STG_E_BAD_OPS, 3, 4)
  ((d.inc ctr (s * 4 + p) 1).raiseBit R.STG_EVENTS s bit).stgLast egress s p stage kind word

def Work.err (w : Work) (d : Dev) (e : StgErr) (word : Nat) : Dev := d.stgErr w.egress w.s w.p w.n e word

/-! ## Selectors (R268) -/

/-- Width of container `c` in one direction (R162, R271). -/
def Work.contW (w : Work) (c : Nat) : Nat := if w.egress then 32 else contWidth c
/-- Containers of one direction. -/
def Work.contN (w : Work) : Nat := if w.egress then 32 else 208

/-- Field `f` of a result slot. -/
def Slot.field (x : Slot) (f : Nat) : Nat :=
  match f with
  | 0 => x.result | 1 => b2n x.hit | 2 => b2n x.multi | 3 => b2n x.tie | 4 => b2n x.err | 5 => x.addr | 6 => b2n x.learned | _ => 0

/-- The value of a selector; 0 for one that R268 does not define. -/
def Work.read (w : Work) (sel : Nat) : Nat :=
  let t := w.tag
  if sel < w.contN then SMap.get 0 w.ps.cont sel
  else match sel with
    | 0x100 => t.queue | 0x101 => t.bin | 0x102 => t.colour | 0x103 => t.reason | 0x104 => b2n t.ct | 0x105 => b2n t.mcast
    | 0x106 => t.repl | 0x107 => t.puntHost | 0x108 => t.user0 | 0x109 => t.user1 | 0x10A => t.user2 | 0x10B => t.lport
    | 0x10C => t.epoch | 0x10D => t.version | 0x10E => t.pass | 0x10F => b2n t.hostInj + 2 * b2n t.aeRet
    | 0x110 => t.ts % 2 ^ 32 | 0x111 => t.copy | 0x112 => w.flen
    | _ => if 0x180 ≤ sel ∧ sel < 0x1A0 then (SMap.get {} w.ps.slots ((sel - 0x180) / 8)).field (sel % 8) else 0

/-- A write to a selector (R268, R269): none where it has no effect and counts BAD_OP. -/
def Work.write (w : Work) (sel v : Nat) : Option Work :=
  let t := w.tag
  let setTag := fun (t : Tag) => some { w with tag := t }
  let ing := fun (t : Tag) => if w.egress then none else setTag t
  if sel < w.contN then
    some { w with ps := { w.ps with
      cont := SMap.set 0 w.ps.cont sel (v % 2 ^ w.contW sel)
      dirty := if w.ps.dirty.contains sel then w.ps.dirty else sel :: w.ps.dirty } }
  else match sel with
    | 0x100 => ing { t with queue := v % 8192 }
    | 0x101 => ing { t with bin := v % 64 }
    | 0x103 => if v % 64 = 0 ∨ 0x20 ≤ v % 64 then ing { t with reason := v % 64 } else none
    | 0x104 => ing { t with ct := decide (v % 2 = 1) }
    | 0x105 => ing { t with mcast := decide (v % 2 = 1) }
    | 0x106 => ing { t with repl := v % 65536 }
    | 0x107 => ing { t with puntHost := v % 4 }
    | 0x108 => setTag { t with user0 := v % 2 ^ 32 }
    | 0x109 => setTag { t with user1 := v % 2 ^ 32 }
    | 0x10A => setTag { t with user2 := v % 2 ^ 32 }
    | _ => none

/-! ## Keys (R261) -/

/-- A metadata source of a key piece: value and width. -/
def metaPiece (t : Tag) (code : Nat) : Nat × Nat :=
  match code with
  | 0 => (t.lport, 9) | 1 => (t.reason, 6) | 2 => (t.user0, 32) | 3 => (t.user1, 32) | 4 => (t.user2, 32) | 5 => (t.copy, 9) | 6 => (t.queue, 13)
  | _ => (0, 0)

/-- The key that a template builds, before it is cut to the table's width. -/
def Work.key (w : Work) (tpl : Nat) : Nat :=
  (List.range 21).foldl (fun k i =>
    let x := fld tpl (24 * i) 24
    if fld x 23 1 = 0 then k
    else
      let src := fld x 14 8
      let v := if fld x 22 1 = 1 then (metaPiece w.tag src).1 else if src < w.contN then SMap.get 0 w.ps.cont src else 0
      k ||| (v * 2 ^ fld x 0 10)) 0

/-! ## Stage memory (R256, R287) -/

/-- UNIT of the action store of a stage in the bank of the frame's epoch. -/
def Work.unit (w : Work) : Nat := unitOf w.s (b2n w.egress) w.p w.n (w.tag.epoch % 2) 0
/-- A word of the action store, with its check. -/
def Work.word (w : Work) (d : Dev) (a : Nat) : Nat × Bool × Dev :=
  let (ue, d) := d.memCheck 0x0A w.unit a
  (stageWord (d.imageOf w.tag.epoch) w.egress w.s w.p w.n a, ue, d)

/-- LOOKUP_k of a descriptor. -/
structure LookupF where
  en : Bool
  gateC : Nat
  gateB : Nat
  table : Nat
  tpl : Nat
  slot : Nat
  deriving DecidableEq, Repr
def lookupF (desc k : Nat) : LookupF :=
  let x := fld desc (64 + 40 * k) 40
  ⟨decide (fld x 0 1 = 1), fld x 1 8, fld x 9 5, fld x 15 12, fld x 27 4, fld x 31 2⟩

/-- A lookup is issued: enabled, of the direction, its gate open (R262, R263). -/
def Work.issues (w : Work) (k : Nat) (l : LookupF) : Bool :=
  l.en && (!w.egress || decide (k = 1)) && (decide (l.gateC = 0xFF) || decide (fld (w.read l.gateC) l.gateB 1 = 1 ∧ l.gateC < w.contN))

/-- Issue lookup `k` with a key (R180, R217, R218, R235): its record is on its way to its slot. -/
def Work.issue (w : Work) (d : Dev) (k : Nat) (l : LookupF) (tpl : Nat) : Work × Dev :=
  let key := w.key tpl
  let img := d.imageOf w.tag.epoch
  let land := fun (w : Work) (st : Nat) (tcam : Bool) (rec_ : Slot) (reason : Nat) =>
    { w with ps := { w.ps with landing := w.ps.landing ++ [Landing.mk st tcam l.slot rec_ reason] } }
  match k with
  | 0 =>
    let (rec_, delay, reason, d) := d.tcamLookup w.s w.p l.table key w.tag.version img
    (land w (w.n + delay) true rec_ reason, d)
  | 3 =>
    let (rec_, reason, d) := d.lpmLookup w.s w.p l.table key w.tag.version img
    (land w (w.n + 2) false rec_ reason, d)
  | _ =>
    let (rec_, reason, d) := d.emLookup w.s w.p (!w.egress) l.table key w.tag.version img
    (land w (w.n + 1) false rec_ reason, d)

/-- Records that reach this stage at cycle 0 (exact match, LPM) or cycle 4 (TCAM) land in their slots; a REASON that goes
with one is written where REASON is 0 (R188, R221, R263). -/
def Work.land (w : Work) (tcam : Bool) : Work :=
  let mine := fun (l : Landing) => decide (l.stage = w.n) && decide (l.tcam = tcam)
  (w.ps.landing.filter mine).foldl (fun w l =>
    { w with
      ps := { w.ps with slots := SMap.set {} w.ps.slots l.slot l.record }
      tag := if l.reason ≠ 0 ∧ w.tag.reason = 0 then { w.tag with reason := l.reason } else w.tag })
    { w with ps := { w.ps with landing := w.ps.landing.filter (fun l => !mine l) } }

/-! ## Dispatch (R259, R260) -/

/-- The word W that dispatch chooses. -/
def Work.dispatch (w : Work) (desc : Nat) : Nat :=
  let base := fld desc 24 10
  let pick := fun (v : Nat) => base + (v >>> fld desc 36 5) % 2 ^ fld desc 41 4
  match fld desc 1 2 with
  | 0 => fld desc 4 10
  | 1 => let x := SMap.get {} w.ps.slots (fld desc 34 2); if x.hit then pick x.result else fld desc 14 10
  | _ => pick (w.read (if fld desc 45 8 < w.contN then fld desc 45 8 else 0x3FF))

/-! ## Counters and registers (R284, R644) -/

/-- COUNT (R644): one frame at once; bytes at once where FRAME_LEN is known, else when it becomes known. -/
def Work.count (w : Work) (d : Dev) (i : Nat) : Work × Dev :=
  let key := stageKey w.egress w.s w.p w.n i
  let d := d.stageTouch w.egress w.s w.p w.n i
  let d := { d with stageFrames := SMap.modify 0 d.stageFrames key (· + 1) }
  let x : Deferred := ⟨w.egress, w.s, w.p, w.n, i⟩
  if w.flen = 0 then ({ w with deferred := w.deferred ++ [x] }, d) else (w, d.addStageBytes x w.flen)

/-- REGADD: the old value, and the register advanced. -/
def Work.regAdd (w : Work) (d : Dev) (i v : Nat) : Nat × Dev :=
  let key := stageKey w.egress w.s w.p w.n i
  let d := d.stageTouch w.egress w.s w.p w.n (1024 + i)
  ((SMap.get 0 d.stageRegs key).toNat, { d with stageRegs := SMap.modify 0 d.stageRegs key (· + BitVec.ofNat 32 v) })

/-! ## Operations (R267, R269, R274, R280) -/

/-- One operation of word `wd`. `old` is the work as it stood at cycle 0, for LEARN keys, and `tpl` gives the templates. -/
def Work.op (old : Work) (tpl : Nat → Nat) (wd : Nat) (w : Work) (d : Dev) (x : Nat) : Work × Dev :=
  let sel := fld x 4 10
  let imm := fld x 24 16
  let misc := fld x 40 8
  let a := w.read (fld x 14 10)
  let bad := fun (_ : Unit) => (w, w.err d .badOp wd)
  let put := fun (d : Dev) (v : Nat) => match w.write sel (v % 2 ^ 32) with
    | some w' => (w', d)
    | none => (w, w.err d .badOp wd)
  let sh := fld misc 0 5
  match fld x 0 4 with
  | 0x0 => (w, d)
  | 0x1 => put d imm
  | 0x2 => put d a
  | 0x3 => put d (a + ofInt 32 (sext 16 imm))
  | 0x4 => put d (a + w.read (fld imm 0 10))
  | 0x5 => put d (a &&& (imm <<< sh) % 2 ^ 32)
  | 0x6 => put d (a ||| (imm <<< sh) % 2 ^ 32)
  | 0x7 => put d (a ^^^ (imm <<< sh) % 2 ^ 32)
  | 0x8 => put d (a <<< sh)
  | 0x9 => put d (a >>> sh)
  | 0xA => w.count d ((a + imm) % 1024)
  | 0xB => let (o, d) := w.regAdd d (fld imm 0 10) a; put d o
  | 0xC =>
    if w.egress then ({ w with ps := { w.ps with tscap := some imm, ts1 := none } }, d)
    else if fld imm 12 4 ≠ 0 then bad ()
    else (w, d.learnRequest w.s (fld imm 0 12) (old.key (tpl (fld misc 0 4)) % 2 ^ 64) a (d.imageOf w.tag.epoch))
  | 0xD =>
    if fld imm 11 5 ≠ 0 then bad ()
    else ({ w with patches := w.patches ++ [(imm, misc, a, decide (fld x 14 10 = 0x3F0))] }, d)
  | 0xE =>
    if w.egress then
      let c := fld x 14 10
      ({ w with ps := { w.ps with tscap := none, ts1 := some (fld imm 0 9, if c = 0x3FF then none else some c) } }, d)
    else bad ()
  | _ => bad ()

/-- The operations OP_0 to OP_7 in order. -/
def Work.ops (old : Work) (tpl : Nat → Nat) (wd word : Nat) (w : Work) (d : Dev) : Work × Dev :=
  (List.range 8).foldl (fun (w, d) k => Work.op old tpl wd w d (fld word (8 + 48 * k) 48)) (w, d)

/-! ## Edits (R273, R275) -/

/-- Bytes pushed so far in the pipeline. -/
def pushedBytes (es : List Edit) : Nat := (es.map (fun e => match e with | .push _ bs => bs.length | _ => 0)).foldl (· + ·) 0

/-- An edit as its word asks for it: none where its KIND is none, otherwise the edit if it is valid. `prev` is the index
that EDIT_0's PUSH took, where it was valid; `second` says EDIT_1; `tplBytes` are the template's first bytes. -/
def Work.edit (w : Work) (x : Nat) (second : Bool) (prev : Option Nat) (tplBytes : Nat → List Byte) : Option (Option Edit) :=
  let kind := fld x 0 3
  let anchor := fld x 3 2
  let len := if fld x 29 1 = 1 then w.read (if fld x 30 8 < w.contN then fld x 30 8 else 0x3FF) else fld x 22 7
  let at_ := match anchor with
    | 0 => 0
    | 1 => w.ps.parseLen
    | 2 => w.read (if fld x 5 8 < w.contN then fld x 5 8 else 0x3FF)
    | _ => 0
  let pos := at_ + fld x 13 9
  let es := w.ps.edits
  let ok := decide (es.length < 4) && !(w.egress && decide (anchor = 1))
  match kind with
  | 1 =>
    let inPop := es.any (fun e => match e with | .pop p l => decide (p < pos ∧ pos < p + l) | _ => false)
    some (if ok && decide (anchor ≠ 3) && decide (pos ≤ w.hlen) && decide (1 ≤ len ∧ len ≤ 64) && !inPop
        && decide (pushedBytes es + len ≤ 128) then some (.push pos (tplBytes len)) else none)
  | 2 =>
    let overPush := es.any (fun e => match e with | .push p _ => decide (pos < p ∧ p < pos + len) | _ => false)
    some (if ok && decide (anchor ≠ 3) && decide (1 ≤ len ∧ len ≤ 127) && decide (pos + len ≤ w.hlen) && !overPush
        then some (.pop pos len) else none)
  | 3 =>
    if anchor = 3 then some (match second, prev with
      | true, some k => if ok && decide (len ≤ 127) then some (.csum (fld x 13 9) (some k) len) else none
      | _, _ => none)
    else some (if ok && decide (pos ≤ w.hlen) && decide (len ≤ 127) then some (.csum pos none len) else none)
  | _ => none

/-- Take one edit of a word: where it is invalid the frame is discarded and counted. The index of a valid PUSH. -/
def Work.takeEdit (w : Work) (d : Dev) (wd x : Nat) (second : Bool) (prev : Option Nat) (tplBytes : Nat → List Byte) :
    Option Nat × Work × Dev :=
  match w.edit x second prev tplBytes with
  | none => (none, w, d)
  | some none => (none, { w with ps := { w.ps with disp := .discard } }, w.err d .edit wd)
  | some (some e) =>
    let w' := { w with ps := { w.ps with edits := w.ps.edits ++ [e] } }
    (match e with | .push _ _ => some w.ps.edits.length | _ => none, w', d)

/-- The patches of a word, once its edits are known (R274). -/
def Work.takePatches (w : Work) (d : Dev) (wd : Nat) (e0 e1 : Option Nat) : Work × Dev :=
  w.patches.foldl (fun (w, d) (imm, misc, v, after) =>
    match (if fld imm 10 1 = 0 then e0 else e1) with
    | none => (w, w.err d .badOp wd)
    | some k =>
      let size := match w.ps.edits[k]? with | some (.push _ bs) => bs.length | _ => 0
      let n := fld imm 8 2 + 1
      if size < fld imm 0 8 + n then (w, w.err d .badOp wd)
      else ({ w with ps := { w.ps with patches := w.ps.patches ++ [Patch.mk k (fld imm 0 8) n v (if after then some misc else none)] } }, d))
    ({ w with patches := [] }, d)

/-- DISP (R266), after the word's operations; BAD_OP where the direction has no such disposition. -/
def Work.takeDisp (w : Work) (d : Dev) (wd disp : Nat) : Work × Dev :=
  let set := fun (x : Disp) => (if w.ps.disp = .discard then w else { w with ps := { w.ps with disp := x } }, d)
  match disp, w.egress with
    | 1, _ => set .forward
    | 2, _ => set .discard
    | 3, false => set .toAe
    | 4, false => set .punt
    | 5, true => set .recirc
    | 3, true | 4, true | 5, false => (w, w.err d .badOp wd)
    | _, _ => (w, d)

/-- An uncorrectable error of the action store (R287). -/
def Work.memErr (w : Work) (d : Dev) (wd : Nat) : Work × Dev :=
  let d := w.err d .mem wd
  if w.egress then ({ w with ps := { w.ps with disp := .discard } }, d)
  else ({ w with tag := if w.tag.reason = 0 then { w.tag with reason := 0x12 } else w.tag }, d)

/-- What an action word reads besides itself (R287, R280): its push templates, and the key templates of its LEARNs. -/
def Work.wordUses (w : Work) (word : Nat) : List Nat :=
  if fld word 0 1 = 0 then []
  else
    ([fld word 392 56, fld word 448 56].filterMap (fun x => if fld x 0 3 = 1 then some (fld x 38 10) else none))
    ++ (if w.egress then [] else (List.range 8).filterMap (fun k =>
      let x := fld word (8 + 48 * k) 48
      if fld x 0 4 = 0xC ∧ fld x 36 4 = 0 then some (1008 + fld x 40 4) else none))

/-- Read an action word and what it uses: the word, and whether one of them is uncorrectable. -/
def Work.readWord (w : Work) (d : Dev) (wd : Nat) : Nat × Bool × Dev :=
  let (word, ue, d) := w.word d wd
  let (ue, d) := (w.wordUses word).eraseDups.foldl (fun (x : Bool × Dev) a => let (_, u, d) := w.word x.2 a; (x.1 || u, d)) (ue, d)
  (word, ue, d)

/-- Execute the action word `word` that stands at `wd` (R265): operations, edits, patches, DISP. -/
def Work.exec (w old : Work) (tpl : Nat → Nat) (d : Dev) (wd word : Nat) : Work × Dev :=
  let x0 := fld word 392 56
  let x1 := fld word 448 56
  let img := d.imageOf w.tag.epoch
  let pushed := fun (x : Nat) => stageWord img w.egress w.s w.p w.n (fld x 38 10)
  if fld word 0 1 = 0 then (w, d)
  else
    let (w, d) := Work.ops old tpl wd word w d
    let (e0, w, d) := w.takeEdit d wd x0 false none (fun n => leBytes n (pushed x0))
    let (e1, w, d) := w.takeEdit d wd x1 true e0 (fun n => leBytes n (pushed x1))
    let (w, d) := w.takePatches d wd e0 e1
    w.takeDisp d wd (fld word 1 3)

/-! ## One stage (R264) -/

/-- Read the templates of a descriptor's issued lookups; true where one is uncorrectable. -/
def Work.templates (w : Work) (d : Dev) (desc : Nat) : Bool × Dev :=
  (List.range 4).foldl (fun (ue, d) k =>
    let l := lookupF desc k
    if w.issues k l then let (u, d) := d.memCheck 0x0A w.unit (1008 + l.tpl); (ue || u, d) else (ue, d)) (false, d)

/-- A stage processes a frame: landing, lookups, dispatch, action. Keys are built from the work as the stage before left it
(`old`). An error in the descriptor, a template, or the word that the lookups lead to leaves the stage without lookups and
without a word (R287, log 21). -/
def Work.stage (w : Work) (d : Dev) : Work × Dev :=
  let old := w
  let w := w.land false
  if w.ps.disp = .discard then (w.land true, d)
  else
    let (desc, ue, d) := w.word d 0
    if ue then (w.land true).memErr d 0
    else if fld desc 0 1 = 0 then (w.land true, d)
    else
      let img := d.imageOf w.tag.epoch
      let tpl := fun (k : Nat) => stageWord img w.egress w.s w.p w.n (1008 + k)
      let (ue, d) := old.templates d desc
      if ue then (w.land true).memErr d 0
      else
        let unissued := w.land true
        let d0 := d
        let (w, d) := (List.range 4).foldl (fun (w, d) k =>
          let l := lookupF desc k
          if old.issues k l then
            let (x, d) := old.issue d k l (tpl l.tpl)
            ({ w with ps := { w.ps with landing := w.ps.landing ++ x.ps.landing.drop old.ps.landing.length } }, d)
          else (w, d)) (w, d)
        let w := w.land true
        let wd := w.dispatch desc
        if wd = 0 then (w, d)
        else if 1008 ≤ wd ∨ (w.egress = true ∧ w.n = 0 ∧ wd = 1007) then (w, w.err d .badAddr (wd % 1024))
        else match w.readWord d wd with
          | (_, true, _) => unissued.memErr (w.readWord d0 wd).2.2 wd
          | (word, false, d) => w.exec old tpl d wd word

/-- The egress load map fills the egress containers (R271, R272). An uncorrectable error discards the copy (R287). -/
def Work.load (w : Work) (d : Dev) : Work × Dev :=
  let (m, ue, d) := w.word d 1007
  if ue then w.memErr d 1007
  else
    let user := w.tag.user0 + w.tag.user1 * 2 ^ 32 + w.tag.user2 * 2 ^ 64
    ((List.range 32).foldl (fun w e =>
      let x := fld m (16 * e) 16
      let k := fld x 8 3
      let pos := (if k = 0 then 0 else fld user (8 * k - 8) 8) + fld x 0 8
      if fld x 15 1 = 1 ∧ pos + 4 ≤ w.hlen then
        { w with ps := { w.ps with
          cont := SMap.set 0 w.ps.cont e (beAt w.ps.head pos 4), wb := SMap.set ⟨0, 0⟩ w.ps.wb e ⟨pos * 8, 32⟩ } }
      else w) w, d)

/-! ## Punts at the verdict (R518, R524) -/

/-- EtherType of a frame as R524 reads it. -/
def amilerType (bs : List Byte) : Bool :=
  let t := beAt bs 12 2
  decide ((if t = 0x8100 ∨ t = 0x88A8 then beAt bs 16 2 else t) = 0x88B5)

/-- Cells of a frame of `n` bytes (R351). -/
def cellsOf (n : Nat) : Nat := ceilDiv n 256

/-- Cells in the punt queue of host port `h`. -/
def Dev.puntCells (d : Dev) (h : Nat) : Nat := ((d.host h).punt.map (·.cells)).foldl (· + ·) 0

/-- A punted frame of `n` bytes is diverted to Amiler, queued for its host port, or refused (R518, R524): where it is
bound; none where it is to be discarded. -/
def Dev.puntEnqueue (d : Dev) (fid h n : Nat) (amiler whole : Bool) : Option Dest × Dev :=
  if d.bitOf R.AML_CTRL 0 0 && amiler then
    if 16 ≤ d.amlQ.length then (none, (d.inc R.AML_QFULL 0 1).raiseBit R.AML_EVENTS 0 1)
    else (some (.amiler h), { d with amlQ := d.amlQ ++ [fid] })
  else
    let x := d.host h
    if d.fldOf R.HPL_PUNT_CTRL h 8 24 < d.puntCells h + cellsOf n then (none, (d.inc R.HPL_PUNT_DROPS h 1).raiseBit R.HPL_EVENTS h 1)
    else (some (.punt h), d.setHost h { x with punt := x.punt ++ [PuntEntry.mk fid (cellsOf n) whole] })

/-! ## Verdicts (R278, R279) -/

/-- At the end of ingress stage 23 the disposition and the tag give the verdict (R278, R150, R154). -/
def Dev.ingressVerdict (d : Dev) (fid : Nat) : Dev :=
  match d.frame fid with
  | none => d
  | some f =>
    let i := f.slice * 4 + f.pipe
    match f.ps.disp with
    | .discard => ((d.dropRem fid).inc R.STG_I_DISCARDS i 1).pmc f.slice 0x011 f.pipe 1
    | disp =>
      let d := match disp with
        | .punt => d.inc R.STG_I_PUNTS i 1
        | .toAe => d.inc R.STG_I_TO_AE i 1
        | _ => if f.tag.reason = 0 then d else d.inc R.STG_I_REASON_AE i 1
      let d := d.pmc f.slice 0x010 f.pipe 1
      match d.hopRelease fid with
      | (false, d) => d
      | (true, d) =>
        let go := fun (d : Dev) (x : Dest) => d.modFrame fid (fun f => { f with place := .deparse, dest := x })
        match disp with
        | .punt =>
          match d.puntEnqueue fid f.tag.puntHost (d.frameLen 16 fid) (amilerType f.ps.head) false with
          | (some x, d) => go d x
          | (none, d) => d.endFrame fid
        | .toAe => go d (.array (f.tag.queue % 256))
        | _ => if f.tag.reason = 0 then go d .queue else go d (.array (d.fldOf R.STG_CTRL f.slice 0 8))

/-- STAGE_PASS of an ingress frame: its next stage, and after stage 23 its verdict. -/
def Dev.ingressStage (d : Dev) (fid : Nat) : Dev :=
  match d.frame fid with
  | none => d
  | some f =>
    match f.place with
    | .ingress n =>
      if (d.slc f.slice).st ≠ .run ∨ d.mustWait f = true then d
      else match (if f.bad = 9 then none else d.forced f.tag) with
        | some ctr => (d.forcedDrop fid ctr).pmc f.slice 0x011 f.pipe 1
        | none =>
          let w : Work := {
            egress := false, s := f.slice, p := f.pipe, n := n, tag := f.tag, ps := f.ps
            flen := if f.whole then f.bytes.length else 0, hlen := min 256 (d.frameLen 16 fid - 4), deferred := f.deferred }
          let (w, d) := w.stage d
          let d := d.setFrame fid { f with tag := w.tag, ps := w.ps, deferred := w.deferred, place := .ingress (n + 1) }
          if n = 23 then d.ingressVerdict fid else d
    | _ => d

/-! ## Egress (R271, R279) -/

/-- Slice and pipeline that serve a queue's logical port (R16, R23). -/
def sliceOfQueue (q : Nat) : Nat := sliceOf (q / 16)
def pipeOfQueue (q : Nat) : Nat := pipeOf (q / 16) % 4

/-- Cells of a copy that stand in its resequencer's slots. -/
def Dev.slotCells (d : Dev) (cid : Nat) (c : Copy) : List Cell :=
  (d.rsq (streamOf true (sliceOfQueue c.queue) (pipeOfQueue c.queue))).slots.filterMap
    (fun e => match e.2 with | some x => if x.owner = cid then some x else none | none => none)

/-- Length of a copy's frame, once its last cell has reached the egress slice (DEDUCED from R268 and R644, log 23). -/
def Dev.copyLen (d : Dev) (cid : Nat) (c : Copy) : Nat :=
  let cells := d.slotCells cid c
  if c.relWhole then c.rel.length
  else if cells.any (·.last) then c.rel.length + (cells.map (fun x => x.data.length)).foldl (· + ·) 0 else 0

/-- Length of a copy's frame as it stands in the buffer, FCS included: known once its last cell is admitted, and before
that as far as the frame's own bytes tell. -/
def Dev.heldLen (d : Dev) (c : Copy) : Nat :=
  match d.frame c.fid with
  | some f => if f.bufWhole then f.blen else min 16383 (f.head.length + (d.frameLen 16 c.fid - f.headIn))
  | none => 0

/-- A copy whose forced retire falls to the egress block that handles it, with the counter (R86, R91): not one that has been
counted already, nor one that has become a frame again. -/
def Dev.egressForced (d : Dev) (c : Copy) : Option RegInfo :=
  if c.ended = true ∨ c.bad = 9 ∨ c.recircTo.isSome = true then none else d.forced c.tag

/-- The head of a copy leaves the egress stages with a verdict: its slot is ready (R362). -/
def Dev.egressEnd (d : Dev) (cid : Nat) (c : Copy) (v : EgressVerdict) : Dev :=
  let k := streamOf true (sliceOfQueue c.queue) (pipeOfQueue c.queue)
  let q := d.rsq k
  let slots := q.slots.map (fun e => (e.1, e.2.map (fun x => if x.owner = cid && x.first then { x with ready := true } else x)))
  (d.setCpy cid { c with stage := none, verdict := v }).setRsq k { q with slots := slots }

/-- STAGE_PASS of a copy: its next egress stage; the load map before stage 0; after stage 15 the slot is ready (R362). -/
def Dev.egressStage (d : Dev) (cid : Nat) : Dev :=
  match d.cpy cid with
  | none => d
  | some c =>
    match c.stage with
    | none => d
    | some n =>
      let s := sliceOfQueue c.queue
      let p := pipeOfQueue c.queue
      if (d.slc s).st ≠ .run then d
      else match d.egressForced c with
      | some ctr => (((d.inc ctr 0 1).slotUsed s (32 + p)).pmc s 0x019 p 1).egressEnd cid c .discard
      | none =>
        let len := d.copyLen cid c
        let w : Work := {
          egress := true, s := s, p := p, n := n, tag := c.tag, ps := c.ps, flen := len
          hlen := min c.ps.head.length ((if len = 0 then d.heldLen c else len) - 4), deferred := c.deferred }
        let (w, d) := if n = 0 then w.load d else (w, d)
        let (w, d) := w.stage d
        let c := { c with tag := w.tag, ps := w.ps, deferred := w.deferred, stage := some (n + 1) }
        if n < 15 then d.setCpy cid c
        else
          let i := s * 4 + p
          let d := d.slotUsed s (32 + p)
          let (v, d) := match c.ps.disp with
            | .discard => (EgressVerdict.discard, (d.inc R.STG_E_DISCARDS i 1).pmc s 0x019 p 1)
            | .recirc => (EgressVerdict.recirc, (d.inc R.STG_E_RECIRCS i 1).pmc s 0x018 p 1)
            | _ => (EgressVerdict.forward, d.pmc s 0x018 p 1)
          d.egressEnd cid c v

/-- STAGE_PASS: ingress frames by frame number, copies by copy number. -/
def Dev.stagePass (d : Dev) (egress : Bool) (id : Nat) : Dev := if egress then d.egressStage id else d.ingressStage id

/-- COUNT_BYTES_DEFERRED (R644): the length of a frame or copy has become known; its waiting byte counts gain it. -/
def Dev.countDeferred (d : Dev) (egress : Bool) (id : Nat) : Dev :=
  if egress then
    match d.cpy id with
    | some c => let n := d.copyLen id c
      if n = 0 then d else (d.settle c.deferred n).setCpy id { c with deferred := [] }
    | none => d
  else
    match d.frame id with
    | some f => if f.whole then (d.settle f.deferred f.bytes.length).setFrame id { f with deferred := [] } else d
    | none => d

end Sys2Proof.Machine
end

