-- ==== Sys2Proof/Machine/Deparse.lean ====
section
/-! DEFINITION. The deparser (R270, R273 to R277) and the stage and replication command sets (R281 to R290). -/
namespace Sys2Proof.Machine

/-! ## Write-back (R276 step 1) -/

/-- The byte `k` of `bs` with the bits of [o, o + w), numbered from the first byte's top bit, replaced by those of `v`. -/
def writeByte (o w v k : Nat) (b : Byte) : Byte :=
  (List.range 8).foldl (fun (b : Byte) j =>
    let i := 8 * k + j
    if o ≤ i ∧ i < o + w then
      let bit := fld v (o + w - 1 - i) 1
      BitVec.ofNat 8 (putFld b.toNat (7 - j) 1 bit)
    else b) b

/-- `w` bits of `v` written at bit offset `o` of a byte string. -/
def writeBits (bs : List Byte) (o w v : Nat) : List Byte :=
  let k := o / 8
  let n := ceilDiv (o % 8 + w) 8
  bs.take k ++ ((slice bs k n).zipIdx.map (fun e => writeByte o w v (k + e.2) e.1)) ++ bs.drop (k + n)

/-- Dirty containers with a write-back record write their values back, lowest container number first. -/
def Pass.writeBack (ps : Pass) (n : Nat) (head : List Byte) : List Byte :=
  (List.range n).foldl (fun h c =>
    let r := SMap.get ⟨0, 0⟩ ps.wb c
    if ps.dirty.contains c && decide (r.width ≠ 0) then (writeBits h r.off r.width (SMap.get 0 ps.cont c)).take h.length else h) head

/-! ## Pushes and pops (R276 step 2) -/

/-- A POP removes byte `p`. -/
def popped (es : List Edit) (p : Nat) : Bool := es.any (fun e => match e with | .pop q l => decide (q ≤ p ∧ p < q + l) | _ => false)

/-- Pushed bytes that stand before byte `p`, in the order of their edits, with the index of each edit. -/
def pushesAt (es : List Edit) (p : Nat) : List (Nat × List Byte) :=
  es.zipIdx.filterMap (fun x => match x.1 with | .push q bs => if q = p then some (x.2, bs) else none | _ => none)

/-- The head as it is put together: the bytes so far, where each input byte came to lie, where each edit's bytes begin. -/
structure Built where
  out : List Byte := []
  places : List Nat := []
  starts : SMap Nat := []

/-- Put in what stands before input byte `p`. -/
def Built.insert (b : Built) (es : List Edit) (p : Nat) : Built :=
  (pushesAt es p).foldl (fun b x =>
    { b with out := b.out ++ x.2, starts := SMap.put b.starts x.1 b.out.length }) b

/-- The deparsed head of `head`: pops taken out, pushes put in. `places` has one more entry, for the byte after the head. -/
def build (es : List Edit) (head : List Byte) : Built :=
  let b := head.zipIdx.foldl (fun b x =>
    let b := b.insert es x.2
    let b := { b with places := b.places ++ [b.out.length] }
    if popped es x.2 then b else { b with out := b.out ++ [x.1] }) ({} : Built)
  let b := b.insert es head.length
  { b with places := b.places ++ [b.out.length] }

/-! ## Patches and checksums (R276 steps 3 and 4) -/

/-- PATCH writes. `total` is the length of the final frame, FCS excluded. -/
def applyPatch (b : Built) (total : Nat) (p : Patch) : Built :=
  let start := SMap.get 0 b.starts p.edit
  let v := match p.after with | none => p.value | some m => total - (start + m)
  { b with out := spliceAt b.out (start + p.at_) (beBytes p.len v) }

/-- Ones' complement sum of 16-bit words; an odd last byte is padded with 0 (PRESUMED, RFC 1071, log 24). -/
def onesSum (bs : List Byte) : Nat :=
  let rec go : List Byte → Nat
    | a :: b :: rest => a.toNat * 256 + b.toNat + go rest
    | [a] => a.toNat * 256
    | [] => 0
  let s := go bs
  let s := s % 65536 + s / 65536
  s % 65536 + s / 65536

/-- The IPv4 header checksum of a header whose checksum field is taken as 0. -/
def ip4Csum (h : List Byte) : Nat := 65535 - onesSum (spliceAt h 10 [0, 0])

/-- One CSUM_IP4 edit on a deparsed head; none where it leaves the bytes unchanged and counts. -/
def applyCsum (b : Built) (es : List Edit) (p : Nat) (ins : Option Nat) (len : Nat) : Option Built :=
  let at_ := match ins with
    | some k => SMap.get 0 b.starts k + p
    | none => b.places.getD p b.out.length
  let gone := ins = none ∧ popped es p = true
  let n := if len = 0 then byteAt b.out at_ % 16 * 4 else len
  if gone ∨ b.out.length < at_ + n ∨ b.out.length ≤ at_ ∨ n < 12 then none
  else
    let h := slice b.out at_ n
    some { b with out := spliceAt b.out (at_ + 10) (beBytes 2 (ip4Csum h)) }

/-- Deparse a head of `head` bytes: the new head and how many CSUM_IP4 edits were left out. `rest` is the number of bytes of
the frame after the head, FCS excluded. -/
def deparseHead (ps : Pass) (nCont rest : Nat) (head : List Byte) : List Byte × Nat :=
  let b := build ps.edits (ps.writeBack nCont head)
  let total := b.out.length + rest
  let b := ps.patches.foldl (fun b p => applyPatch b total p) b
  let r := ps.edits.foldl (fun (b, n) e =>
    match e with
    | .csum p ins len => match applyCsum b ps.edits p ins len with
      | some b => (b, n)
      | none => (b, n + 1)
    | _ => (b, n)) (b, 0)
  (r.1.out, r.2)

/-- Errors that the deparser counts: STAGE 0x1F, WORD 0, KIND 2 (R276, R277). -/
def Dev.deparseErr (d : Dev) (egress : Bool) (s p : Nat) : Dev := d.stgErr egress s p 0x1F .edit 0

/-- The deparser of an ingress frame (R276). -/
def Dev.deparseIngress (d : Dev) (fid : Nat) : Dev :=
  match d.frame fid with
  | none => d
  | some f =>
    if f.place ≠ .deparse ∨ (d.slc f.slice).st ≠ .run ∨ d.mustWait f = true then d
    else
      let n := d.frameLen 16 fid - 4
      let h := min 256 n
      let (out, errs) := deparseHead f.ps 208 (n - h) (f.bytes.take h)
      let d := d.setFrame fid { f with place := .fabric, head := out, headIn := h }
      forN errs (fun _ d => d.deparseErr false f.slice f.pipe) d

/-- The deparser of a copy (R276), once its verdict is given. -/
def Dev.deparseCopy (d : Dev) (cid : Nat) : Dev :=
  match d.cpy cid with
  | none => d
  | some c =>
    let s := sliceOfQueue c.queue
    let p := pipeOfQueue c.queue
    if c.deparsed ∨ c.verdict = .none ∨ c.verdict = .discard then d
    else
      let len := d.copyLen cid c
      let len := if len = 0 then d.heldLen c else len
      let h := min c.ps.head.length (len - 4)
      let (out, errs) := deparseHead c.ps 32 (len - 4 - h) (c.ps.head.take h)
      let d := d.setCpy cid { c with deparsed := true, head := out, headIn := h }
      forN errs (fun _ d => d.deparseErr true s p) d

/-! ## Stage command sets (R289) -/

/-- Stage commands: READ_CTR 1, READ_CLEAR_CTR 2, READ_REG 3, WRITE_REG 4. The status, and the effects. -/
def Dev.stgExec (d : Dev) (s h cmd : Nat) : Nat × Dev :=
  let i := s * 4 + h
  let op := cmd % 16
  let egress := decide (fld cmd 4 1 = 1)
  let p := fld cmd 5 2
  let n := fld cmd 8 5
  let ix := fld cmd 16 10
  if (if egress then 15 else 23) < n then (1, d)
  else
    let key := stageKey egress s p n ix
    let unit := unitOf s (b2n egress) p n 0 0
    if op = 4 then
      (0, { (d.memWritten 0x13 unit (1024 + ix)) with
        stageRegs := SMap.set 0 d.stageRegs key (BitVec.ofNat 32 (d.rd R.STG_CMD_REGVAL i)) })
    else
      let (ue, d) := d.memCheck 0x13 unit (if op ≤ 2 then ix else 1024 + ix)
      if ue then (8, d)
      else if op = 3 then (0, d.wr R.STG_CMD_REGVAL i (SMap.get 0 d.stageRegs key).toNat)
      else
        let d := (d.wr64 R.STG_CMD_FRAMES i (SMap.get 0 d.stageFrames key).toNat).wr64 R.STG_CMD_BYTES i (SMap.get 0 d.stageBytes key).toNat
        if op = 2 then (0, { (d.memWritten 0x13 unit ix) with
          stageFrames := SMap.set 0 d.stageFrames key 0, stageBytes := SMap.set 0 d.stageBytes key 0 })
        else (0, d)

/-- The slice executes the stage command at the head of its queue, if its OP is `op`. -/
def Dev.stgCmd (d : Dev) (s op : Nat) : Dev := d.onSlice s (fun d => d.cmdRun .stg s op (fun h v d => d.stgExec s h v))

/-! ## Replication lists (R281 to R283, R290) -/

/-- Replication commands: WRITE_MEMBER 1, READ_MEMBER 2, SET_LIST 3, READ_LIST 4. -/
def Dev.rplExec (d : Dev) (h cmd : Nat) : Nat × Dev :=
  let ix := d.rd R.RPL_CMD_INDEX h
  let l := d.rd R.RPL_CMD_LIST h
  let hd := d.rd R.RPL_CMD_HEAD h
  match cmd % 16 with
  | 1 =>
    if 262143 < ix then (3, d)
    else (0, { (d.memWritten 0x12 0 (65536 + ix)) with
      members := SMap.set 0 d.members ix (BitVec.ofNat 32 (d.rd R.RPL_CMD_MEMBER h) &&& 0x80001FFF) })
  | 2 =>
    if 262143 < ix then (3, d)
    else
      let (ue, d) := d.memCheck 0x12 0 (65536 + ix)
      if ue then (8, d) else (0, d.wr R.RPL_CMD_MEMBER h (SMap.get 0 d.members ix).toNat)
  | 3 =>
    if 512 < fld hd 18 10 ∨ 262144 < fld hd 0 18 + fld hd 18 10 then (3, d)
    else (0, { (d.memWritten 0x12 0 l) with lists := SMap.set 0 d.lists l (BitVec.ofNat 32 (hd % 2 ^ 28)) })
  | _ =>
    let (ue, d) := d.memCheck 0x12 0 l
    if ue then (8, d) else (0, d.wr R.RPL_CMD_HEAD h (SMap.get 0 d.lists l).toNat)

/-- The fabric runs while it is not asleep (R543). -/
def Dev.onFabric (d : Dev) (f : Dev → Dev) : Dev := if d.fan.fabricAsleep then d else f d

/-- The replication command at the head of the queue executes, if its OP is `op`. -/
def Dev.rplCmd (d : Dev) (op : Nat) : Dev := d.onFabric (fun d => d.cmdRun .rpl 0 op (fun h v d => d.rplExec h v))

/-- The copies that a list yields (R282): COPY number and QUEUE of each valid member. True where the head yields none by an
uncorrectable error or no member was valid is told by the empty list. -/
def Dev.listCopies (d : Dev) (l : Nat) : List (Nat × Nat) × Dev :=
  let (ue, d) := d.memCheck 0x12 0 l
  if ue then ([], d)
  else
    let hd := (SMap.get 0 d.lists l).toNat
    (List.range (fld hd 18 10)).foldl (fun (xs, d) i =>
      let ix := fld hd 0 18 + i
      let (ue, d) := d.memCheck 0x12 0 (65536 + ix)
      if ue then (xs, d)
      else
        let m := (SMap.get 0 d.members ix).toNat
        if fld m 31 1 = 1 then (xs ++ [(i, m % 8192)], d) else (xs, d.inc R.RPL_INVALID_MEMBERS 0 1)) ([], d)

end Sys2Proof.Machine
end

