-- ==== Sys2Proof/Machine/Pool.lean ====
section
/-! DEFINITION. The queue plan in force, the pool manager and its command set, and the PFC counts that follow the cells
(R368 to R381, R403, R404, R446 to R452, R488, R489). -/
namespace Sys2Proof.Machine

/-! ## The queue plan (R446 to R452) -/

/-- A queue record. -/
structure QRec where
  pool : Nat
  grouped : Bool
  prio : Nat
  pfc : Bool
  anchor : Nat
  quantum : Nat
  deriving DecidableEq, Repr

/-- A queue record from its 16 bytes as a number. -/
def qrecOf (v : Nat) : QRec :=
  ⟨fld v 0 4, decide (fld v 4 1 = 1), fld v 8 3, decide (fld v 11 1 = 1), fld v 12 3, max 1 (fld v 32 20)⟩

/-- A location of the plan memory is read: the value, or nothing where it is uncorrectable (R452). -/
def Dev.planRead (d : Dev) (e a n : Nat) : Option Nat × Dev :=
  let (ue, d) := d.memCheck 0x10 (unitOf 0 0 0 0 (e % 2) 0) (a / 16)
  if ue then (none, (d.inc R.TM_PLAN_MEM_ERRS 0 1).raiseBit R.TM_EVENTS 0 6)
  else (some (planNat (d.imageOf e) a n), d)

/-- The record of queue `q` in one epoch's plan. -/
def Dev.qrecIn (d : Dev) (e q : Nat) : QRec × Dev :=
  match d.planRead e (0x10000 + q * 16) 16 with
  | (some v, d) => (qrecOf v, d)
  | (none, d) => ({ qrecOf 0 with pool := 13 }, d)

/-- The record of queue `q` in the plan in force. -/
def Dev.qrec (d : Dev) (q : Nat) : QRec × Dev :=
  match d.tm.plan with
  | some e => d.qrecIn e q
  | none => (qrecOf 0, d)

/-- A location of the plan in force as selection sees it: none where it is uncorrectable (R452). -/
def Dev.planView (d : Dev) (a n : Nat) : Option Nat :=
  match d.tm.plan with
  | some e =>
    if d.errs.upsets.any (fun u => u.ue && decide (u.cls = 0x10) && decide (u.unit = unitOf 0 0 0 0 (e % 2) 0) && decide (u.loc = a / 16))
    then none else some (planNat (d.imageOf e) a n)
  | none => some 0

/-- The same record without the read: what selection sees. -/
def Dev.qrecView (d : Dev) (q : Nat) : QRec :=
  match d.planView (0x10000 + q * 16) 16 with
  | some v => qrecOf v
  | none => { qrecOf 0 with pool := 13 }

/-- Plan offset of the quantum of bin `b` of queue `q`: flow bin q × 64 + b (R446, R24). -/
def binAddr (q b : Nat) : Nat := 0x40000 + (q * 64 + b) * 2

/-- Quantum of a bin of a queue in bytes (R449, R452). -/
def Dev.binQuantum (d : Dev) (q b : Nat) : Nat :=
  match d.planView (binAddr q b) 2 with
  | some v => 16 * max 1 v
  | none => 16

/-- The quantum of the bin that is served is read: an error is corrected or reported (R452; DEDUCED, log 75). -/
def Dev.binRead (d : Dev) (q b : Nat) : Dev :=
  match d.tm.plan with
  | some e => (d.planRead e (binAddr q b) 2).2
  | none => d

/-- The pool of cells of frames of a queue (R368). -/
def poolOf (q : Nat) (r : QRec) : Nat := if q % 16 = 15 then 15 else if 14 ≤ r.pool then 13 else r.pool
/-- BPM_MC_CTRL.POOL (R400). -/
def Dev.mcPool (d : Dev) : Nat := min 13 (d.fldOf R.BPM_MC_CTRL 0 0 4)

/-! ## PFC transmission (R488, R489) -/

def Dev.tmp (d : Dev) (n : Nat) : TmPort := SMap.get {} d.tm.ports n
def Dev.setTmp (d : Dev) (n : Nat) (x : TmPort) : Dev := { d with tm := { d.tm with ports := SMap.set {} d.tm.ports n x } }

/-- MAC rate of a logical port in Gbit/s (R110). -/
def Dev.macRate (d : Dev) (n : Nat) : Nat := 200 * d.lpLanes n

/-- TIME of a priority among those that a PFC frame carries. -/
def pfcTime (ts : List (Nat × Nat)) (p : Nat) : Nat := match ts.find? (fun t => decide (t.1 = p)) with | some t => t.2 | none => 0

/-- A PFC frame without its FCS (R489), from the priorities below 8 that it carries with their TIMEs. -/
def pfcBytes (sa : Nat) (ts : List (Nat × Nat)) : List Byte :=
  beBytes 6 0x0180C2000001 ++ beBytes 6 sa ++ beBytes 2 0x8808 ++ beBytes 2 0x0101
  ++ [0, BitVec.ofNat 8 (((List.range 8).map (fun p => if ts.any (fun t => decide (t.1 = p)) then 2 ^ p else 0)).foldl (· + ·) 0)]
  ++ (List.range 8).flatMap (fun p => beBytes 2 (pfcTime ts p)) ++ List.replicate 26 0

/-- A PFC frame leaves logical port `n`. -/
def Dev.pfcEmit (d : Dev) (n : Nat) (ts : List (Nat × Nat)) : Dev :=
  let bs := pfcBytes (d.rd R.TMP_PFC_SA_LO n + d.rd R.TMP_PFC_SA_HI n * 2 ^ 32) ts
  let d := d.emit n (bs ++ fcsBytes bs) false
  let x := d.tmp n
  (d.setTmp n { x with xoffSent := ts.foldl (fun m t => SMap.set 0 m t.1 d.now) x.xoffSent }).inc R.TMP_PFC_TX_FRAMES n 1

/-- A PFC frame is called for (R488): sent by a port that is UP, at the end of a quiet interval (R130), and by no other (R118). -/
def Dev.pfcSend (d : Dev) (n : Nat) (ts : List (Nat × Nat)) : Dev :=
  if ts = [] ∨ (d.lp n).st ≠ .up then d
  else if (d.lp n).txQuiet then
    let x := d.tmp n
    d.setTmp n { x with pfcDue := x.pfcDue ++ [ts], xoffSent := ts.foldl (fun m t => SMap.set 0 m t.1 d.now) x.xoffSent }
  else d.pfcEmit n ts

/-- PFC frames that waited for the end of a quiet interval leave ahead of queued data; those of a port that is no longer UP do not. -/
def Dev.pfcDueSent (d : Dev) : Dev :=
  d.tm.ports.foldl (fun d e =>
    if e.2.pfcDue = [] ∨ (d.lp e.1).txQuiet = true then d
    else e.2.pfcDue.foldl (fun d ts => d.pfcSend e.1 ts) (d.setTmp e.1 { d.tmp e.1 with pfcDue := [] })) d

/-- The PFC state of a priority follows its count (R488): what it calls for, and the device. -/
def Dev.pfcStep (d : Dev) (n prio : Nat) : List (Nat × Nat) × Dev :=
  if !d.bitOf R.TMP_CTRL n (16 + prio) then ([], d)
  else
    let c := SMap.get 0 d.tm.pfcIng (n * 8 + prio)
    let x := d.tmp n
    let on := decide (fld x.xoff prio 1 = 1)
    if !on && decide (d.rd R.TMP_PFC_XOFF n ≤ c) then
      ([(prio, d.fldOf R.TMP_PFC_TIME n 0 16)],
        ((d.setTmp n { x with xoff := x.xoff + 2 ^ prio }).raiseBit R.TM_EVENTS 0 1).raiseBit R.TMP_EVENTS n 0)
    else if on && decide (c ≤ d.rd R.TMP_PFC_XON n) then ([(prio, 0)], d.setTmp n { x with xoff := x.xoff - 2 ^ prio })
    else ([], d)

/-- One priority's count has changed. -/
def Dev.pfcState (d : Dev) (n prio : Nat) : Dev :=
  let (ts, d) := d.pfcStep n prio
  d.pfcSend n ts

/-- The conditions of a port have changed: one frame carries every priority that this concerns (R488). -/
def Dev.pfcStates (d : Dev) (n : Nat) : Dev :=
  let (ts, d) := (List.range 8).foldl (fun (r : List (Nat × Nat) × Dev) p =>
    let (ts, d) := r.2.pfcStep n p
    (r.1 ++ ts, d)) ([], d)
  d.pfcSend n ts

/-- One more cell is held for a frame that counts under `key` (logical port * 8 + priority). -/
def Dev.pfcUp (d : Dev) (key : Option Nat) : Dev :=
  match key with
  | none => d
  | some k => { d with tm := { d.tm with pfcIng := SMap.modify 0 d.tm.pfcIng k (· + 1) } }.pfcState (k / 8) (k % 8)

/-- One cell fewer. -/
def Dev.pfcDown (d : Dev) (key : Option Nat) : Dev :=
  match key with
  | none => d
  | some k => { d with tm := { d.tm with pfcIng := SMap.modify 0 d.tm.pfcIng k (· - 1) } }.pfcState (k / 8) (k % 8)

/-- PFC_REFRESH (R488): in XOFF, REFRESH pause quanta of 512 bit times after the last frame, the frame is sent again. -/
def Dev.pfcRefresh (d : Dev) (n prio : Nat) : Dev :=
  let x := d.tmp n
  let quanta := max 1 (d.fldOf R.TMP_PFC_TIME n 16 16)
  if fld x.xoff prio 1 = 1 ∧ d.bitOf R.TMP_CTRL n (16 + prio) = true
      ∧ quanta * 512 ≤ (d.now - SMap.get 0 x.xoffSent prio) * d.macRate n then
    d.pfcSend n [(prio, d.fldOf R.TMP_PFC_TIME n 0 16)]
  else d

/-! ## Free cells and pools (R369 to R371) -/

/-- Cells of the shared buffer. -/
def cellCount : Nat := 786432

/-- FREE. -/
def Dev.freeCells (d : Dev) : Nat :=
  cellCount - d.buf.fresh + (d.buf.freed.filter (fun c => !d.buf.withheld.contains c)).length
  - (d.buf.withheld.eraseDups.filter (fun c => decide (d.buf.fresh ≤ c))).length

def Dev.used (d : Dev) (p : Nat) : Nat := SMap.get 0 d.buf.used p
def Dev.guard (d : Dev) : Nat := d.fldOf R.BPM_GUARD 0 0 20
def Dev.reserve (d : Dev) (p : Nat) : Nat := d.fldOf R.BPM_POOL_RSV p 0 20
/-- Sum of the reserves and GUARD. -/
def Dev.committed (d : Dev) : Nat := ((List.range 16).map d.reserve).foldl (· + ·) 0 + d.guard
def Dev.shared (d : Dev) : Nat := cellCount - d.committed
def Dev.sharedUsed (d : Dev) : Nat := ((List.range 16).map (fun p => d.used p - d.reserve p)).foldl (· + ·) 0

/-- Colour limit of a pool (R371): colour 0 green, 1 yellow, 2 red. -/
def Dev.poolLimit (d : Dev) (p colour : Nat) : Nat :=
  let m := d.fldOf R.BPM_POOL_MAX p 0 20
  match colour with
  | 0 => m
  | 1 => m * d.fldOf R.BPM_POOL_CLR p 0 8 / 256
  | _ => m * d.fldOf R.BPM_POOL_CLR p 8 8 / 256

/-- Verdicts of the pool check. -/
inductive PoolSays where
  | ok | limit | sharedFull | guard
  deriving DecidableEq, Repr

/-- Step 2 of R370. -/
def Dev.poolCheck (d : Dev) (p colour : Nat) : PoolSays :=
  if d.used p < d.reserve p then .ok
  else if d.poolLimit p colour ≤ d.used p then .limit
  else if d.shared ≤ d.sharedUsed then .sharedFull
  else if d.freeCells ≤ d.guard then .guard
  else .ok

/-! ## Allocation (R374, R375) -/

def Dev.cellRec (d : Dev) (c : Nat) : CellRec := SMap.get {} d.buf.recs c
def Dev.setCellRec (d : Dev) (c : Nat) (r : CellRec) : Dev := { d with buf := { d.buf with recs := SMap.set {} d.buf.recs c r } }

/-- FREE has been `was`: where it has fallen, its lowest value, and the event of its reaching GUARD (R400). -/
def Dev.freeFell (d : Dev) (was : Nat) : Dev :=
  let n := d.freeCells
  let d := if n < was ∧ n < d.fldOf R.BPM_MIN_FREE 0 0 20 then d.wr R.BPM_MIN_FREE 0 n else d
  if d.guard < was ∧ n ≤ d.guard then d.raiseBit R.BPM_EVENTS 0 1 else d

/-- A read of a buffer memory, whose report may withhold a cell from the free list (R578, R580). -/
def Dev.bufCheck (d : Dev) (cls loc : Nat) : Bool × Dev :=
  let (ue, x) := d.memCheck cls 0 loc
  (ue, x.freeFell d.freeCells)

/-- An uncorrectable cell state record: the cell is withheld (R380). -/
def Dev.stateLost (d : Dev) (c : Nat) : Dev :=
  (({ d with buf := { d.buf with withheld := c :: d.buf.withheld } }.inc R.BPM_STATE_MEM_ERRS 0 1).raiseBit R.BPM_EVENTS 0 3).freeFell d.freeCells

/-- The cell at the head of the free list, taken off it (R375): cells never allocated first, in order. -/
def Buffer.take (b : Buffer) : Nat → Option (Nat × Buffer)
  | 0 => none
  | n + 1 =>
    if b.fresh < cellCount then
      if b.withheld.contains b.fresh then Buffer.take { b with fresh := b.fresh + 1 } n
      else some (b.fresh, { b with fresh := b.fresh + 1 })
    else match takeFirst (fun c => !b.withheld.contains c) b.freed with
      | none => none
      | some (c, rest) => some (c, { b with freed := rest })

/-- Allocate one cell; a cell whose state record is uncorrectable is withheld and the next one taken. `n` bounds the tries. -/
def Dev.allocRaw (d : Dev) : Nat → Option Nat × Dev
  | 0 => (none, d)
  | n + 1 =>
    match d.buf.take (d.buf.withheld.length + 1) with
    | none => (none, d)
    | some (c, b) =>
      let (ue, x) := { d with buf := b }.memCheck 0x02 0 c
      let d := x.freeFell d.freeCells
      if ue then (d.stateLost c).allocRaw n else (some c, d)

/-- A cell is charged to a pool. -/
def Dev.chargePool (d : Dev) (p : Nat) : Dev :=
  let n := d.used p + 1
  let d := { d with buf := { d.buf with used := SMap.set 0 d.buf.used p n } }
  let d := if d.rd R.BPM_POOL_PEAK p < n then d.wr R.BPM_POOL_PEAK p n else d
  (d.inc R.BPM_P_CELLS p 1).pmcFab 0x120 p 1

/-- Allocate a cell with its record; `pool` none for a raw cell of a host port. None where the free list is empty. -/
def Dev.allocCell (d : Dev) (pool : Option Nat) (ref owner : Nat) (pfc : Option Nat) (charge : Nat) : Option Nat × Dev :=
  match d.allocRaw (d.errs.upsets.length + 1) with
  | (none, d) => (none, d)
  | (some c, d) =>
    let (pn, d) := match pool with | some p => (p, d.chargePool p) | none => d.free 4
    let d := (d.memWritten 0x02 0 c).setCellRec c {
      alloc := true, pool := pn, ref := ref, owner := owner
      pfc := (match pfc with | some k => k + 1 | none => 0), charge := charge }
    (some c, d.pfcUp pfc)

/-- A cell takes data. -/
def Dev.writeCell (d : Dev) (c : Nat) (bs : List Byte) : Dev :=
  let d := d.memWritten 0x01 0 c
  { d with buf := { d.buf with data := SMap.set [] d.buf.data c bs } }

/-- A cell is read; true where it is uncorrectable (R380). -/
def Dev.readCell (d : Dev) (c : Nat) : List Byte × Bool × Dev :=
  let (ue, d) := d.bufCheck 0x01 c
  (SMap.get [] d.buf.data c, ue, if ue then d.raiseBit R.BPM_EVENTS 0 3 else d)

/-! ## Frees (R376 to R378) -/

/-- Freeing parties (R374). -/
def partyFrame : Nat := 0x2000
def partyThread (s t : Nat) : Nat := 0x4000 + s * 256 + t
def partyHost (h : Nat) : Nat := 0x6000 + h

/-- A cell rejoins the free list, unless it is withheld, and its charges end. -/
def Dev.reallyFree (d : Dev) (c : Nat) (r : CellRec) : Dev :=
  let d := (d.memWritten 0x02 0 c).setCellRec c { owner := r.owner }
  let d := if r.owner / 8192 = 3 then
      { d with buf := { d.buf with hostCells := SMap.modify 0 d.buf.hostCells (r.owner % 4) (· - 1) } }
    else { d with buf := { d.buf with used := SMap.modify 0 d.buf.used r.pool (· - 1) } }
  let d := { d with buf := { d.buf with freed := d.buf.freed ++ [c] } }
  d.pfcDown (if r.pfc = 0 then none else some (r.pfc - 1))

/-- A free by `party` (R377): the reason code of R378, 0 where it is good. -/
def Dev.freeCell (d : Dev) (c party : Nat) : Nat × Dev :=
  let bad := fun (d : Dev) (code owner : Nat) (ctr : RegInfo) =>
    (code, (((d.inc ctr 0 1).wr R.BPM_LAST_BAD_FREE0 0 (packFields [(31, 1, 1), (27, 4, code), (0, 20, c)])).wr R.BPM_LAST_BAD_FREE1 0
      (packFields [(16, 16, owner), (0, 16, party)])).raiseBit R.BPM_EVENTS 0 0)
  if cellCount ≤ c then bad d 3 0 R.BPM_BAD_FREE_RANGE
  else
    let (ue, d) := d.bufCheck 0x02 c
    if ue then (8, d.stateLost c)
    else
      let r := d.cellRec c
      if !r.alloc then bad d 1 r.owner R.BPM_BAD_FREE_DOUBLE
      else if r.owner / 8192 ≠ party / 8192 ∨ (party / 8192 ≠ 1 ∧ r.owner ≠ party) then bad d 2 r.owner R.BPM_BAD_FREE_OWNER
      else if party / 8192 = 1 ∧ 1 < r.ref then (0, d.setCellRec c { r with ref := r.ref - 1 })
      else (0, d.reallyFree c r)

/-- A copy finishes with a cell: the free waits for the pool manager (R375). -/
def Dev.askFree (d : Dev) (c party : Nat) : Dev := { d with buf := { d.buf with freeReq := d.buf.freeReq ++ [(c, party)] } }

/-- Frees of every cell of a frame by one copy. -/
def Dev.askFrees (d : Dev) (cs : List Nat) : Dev := cs.foldl (fun d c => d.askFree c partyFrame) d

/-! ## The pool command set (R403, R404) -/

/-- Pool commands: ALLOC 1, BPM_FREE_CMD 2 (with the cell in bits 23:4), READ_STATE 3, SET_ATOMIC 4, CLEAR_ATOMIC 5,
READ_ATOMIC 6. -/
def Dev.bpmExec (d : Dev) (h cmd : Nat) : Nat × Dev :=
  let l := d.fldOf R.BPM_CMD_LIST h 0 16
  match cmd % 16 with
  | 1 =>
    if d.fldOf R.BPM_HOST_CTRL 0 0 20 ≤ SMap.get 0 d.buf.hostCells h ∨ d.freeCells ≤ d.guard then (1, d)
    else match d.allocCell none 1 (partyHost h) none 0 with
      | (none, d) => (1, d)
      | (some c, d) => (0, { d with buf := { d.buf with hostCells := SMap.modify 0 d.buf.hostCells h (· + 1) } }.wr R.BPM_CMD_CELL h c)
  | 2 =>
    let (r, d) := d.freeCell (cmd / 16) (partyHost h)
    (match r with | 1 => 4 | 2 => 5 | n => n, d)
  | 3 =>
    let c := d.fldOf R.BPM_CMD_CELL h 0 20
    if cellCount ≤ c then (3, d)
    else
      let (ue, d) := d.bufCheck 0x02 c
      if ue then (8, d.stateLost c)
      else
        let r := d.cellRec c
        (0, d.wr R.BPM_RD_STATE h (packFields [(31, 1, b2n r.alloc), (27, 4, r.pool), (16, 10, r.ref), (0, 16, r.owner)]))
  | 4 => (0, { d with buf := { d.buf with atomicLists := if d.buf.atomicLists.contains l then d.buf.atomicLists else l :: d.buf.atomicLists } })
  | 5 => (0, { d with buf := { d.buf with atomicLists := d.buf.atomicLists.filter (· ≠ l) } })
  | _ => (0, d.wr R.BPM_RD_ATOMIC h (b2n (d.buf.atomicLists.contains l)))

/-- The pool command at the head of the queue executes, if its OP is `op`. -/
def Dev.bpmCmd (d : Dev) (op : Nat) : Dev := d.onFabric (fun d => d.cmdRun .bpm 0 op (fun h v d => d.bpmExec h v))

end Sys2Proof.Machine
end

