-- ==== Sys2Proof/Machine/Copies.lean ====
section
/-! DEFINITION. Copies and frames that end on the fabric die, and the lines of parked copies (R376, R386, R407, R414,
R454, R464). -/
namespace Sys2Proof.Machine

/-! ## HBM pages and lines (R405, R407) -/

def Dev.stk (d : Dev) (k : Nat) : Hbm := SMap.get {} d.hbm k
def Dev.setStk (d : Dev) (k : Nat) (x : Hbm) : Dev := { d with hbm := SMap.set {} d.hbm k x }
def Dev.page (d : Dev) (k p : Nat) : Page := SMap.get {} (d.stk k).pages p
def Dev.setPage (d : Dev) (k p : Nat) (x : Page) : Dev :=
  d.setStk k { d.stk k with pages := SMap.set {} (d.stk k).pages p x }

/-- Pages of a stack in FREE. -/
def Dev.pagesFree (d : Dev) (k : Nat) : Nat :=
  1048576 - ((d.stk k).pages.filter (fun e => decide (e.2.st ≠ .free))).length

/-- A page table entry is read (R431): one that is uncorrectable is noted. -/
def Dev.pageTouch (d : Dev) (k p : Nat) : Dev :=
  let (ue, d) := d.memCheck 0x04 (unitOf 0 0 0 0 0 k) p
  if ue ∧ !d.errs.tableLost.contains (k, p) then { d with errs := { d.errs with tableLost := d.errs.tableLost ++ [(k, p)] } } else d

/-- The page leaves use: RETIRED where that was asked for, else FREE (R407, R432), and a write-back of the scrubber to a page that is
freed is dropped (R421). HIGH stands until the page is allocated again. -/
def Dev.endPage (d : Dev) (k p : Nat) : Dev :=
  let x := d.page k p
  if x.retiring then (d.setPage k p { st := .retired, high := x.high }).raiseBit R.HBM_EVENTS k 5
  else
    let d := d.setPage k p { high := x.high }
    if (d.stk k).repair.any (fun a => decide (a / 64 = p)) then d.setStk k { d.stk k with repair := none } else d

/-- A page whose lines are all free and into which no frame is written ends, unless a spill engine still fills it. -/
def Dev.pageCheckEnd (d : Dev) (k p : Nat) : Dev :=
  let x := d.page k p
  match x.st with
  | .closed => if x.live = 0 ∧ x.writing = 0 then d.endPage k p else d
  | .open_ => if x.retiring = true ∧ x.live = 0 ∧ x.writing = 0 then d.endPage k p else d
  | _ => d

/-- A line is released (R414). -/
def Dev.releaseLine (d : Dev) (k a : Nat) : Dev :=
  let p := a / 64
  let d := d.pageTouch k p
  let x := d.page k p
  ((d.memWritten 0x04 (unitOf 0 0 0 0 0 k) p).setPage k p { x with live := x.live - 1 }).pageCheckEnd k p

/-- A frame is no longer written into a page. -/
def Dev.pageWritten (d : Dev) (k p : Nat) : Dev :=
  let x := d.page k p
  (d.setPage k p { x with writing := x.writing - 1 }).pageCheckEnd k p

/-- A line that was given to a frame and will not be written goes back, where no later one has been given. -/
def Dev.lineBack (d : Dev) (k a : Nat) : Dev :=
  let x := d.page k (a / 64)
  if x.given = a % 64 + 1 then d.setPage k (a / 64) { x with given := a % 64 } else d

/-- Pages of a list of lines, each once. -/
def pagesOf (lines : List Nat) : List Nat := (lines.map (· / 64)).eraseDups

/-- HBM_POOL_PARKED of a pool falls by `n`. -/
def Dev.parkedDown (d : Dev) (p n : Nat) : Dev := d.wr R.HBM_POOL_PARKED p (d.rd R.HBM_POOL_PARKED p - n)

/-- The lines of a frame that are still held are released; a frame whose cells are not all written is given up by its spill engine. -/
def Dev.releaseLines (d : Dev) (fid : Nat) (filled : Nat) : Dev :=
  match d.frame fid with
  | none => d
  | some f =>
    match f.stack with
    | none => d
    | some k =>
      let held := f.lines.drop filled
      let d := held.foldl (fun d a => d.releaseLine k a) d
      let d := if f.stageData = [] then d
        else
          let d := (f.lines.drop (f.lines.length - f.staged)).reverse.foldl (fun d a => d.lineBack k a) d
          (pagesOf f.lines).foldl (fun d p => d.pageWritten k p) d
      let d := d.parkedDown f.pool held.length
      let d := forN (if f.pfc.isSome then held.length else 0) (fun _ d => d.pfcDown f.pfc) d
      d.modFrame fid (fun f => { f with lines := [], staged := 0, stageData := [], stageSeq := [], stack := none })

/-! ## Queue depth (R454) and empty members (R464) -/

def Dev.depthOf (d : Dev) (q : Nat) : Nat := SMap.get 0 d.tm.depth q

/-- D of a queue changes; its peak follows. -/
def Dev.setDepth (d : Dev) (q n : Nat) : Dev :=
  let d := { d with tm := { d.tm with depth := SMap.set 0 d.tm.depth q n } }
  if d.rd R.TMQ_PEAK q < n then d.wr R.TMQ_PEAK q n else d

/-- Copies that wait in a bin of a queue, in admission order. -/
def Dev.binCopies (d : Dev) (q b : Nat) : List Nat :=
  d.copies.filterMap (fun e => match e.2 with
    | some c => if c.queue = q ∧ c.bin = b ∧ c.place = .queued then some e.1 else none
    | none => none)

/-- Bins of a queue that hold copies, in order. -/
def Dev.busyBins (d : Dev) (q : Nat) : List Nat :=
  (List.range 64).filter (fun b => d.copies.any (fun e => match e.2 with
    | some c => decide (c.queue = q) && decide (c.bin = b) && decide (c.place = .queued)
    | none => false))

/-- A positive deficit of a member that has become empty becomes 0. -/
def Drr.emptied (x : Drr) (m : Nat) : Drr :=
  if 0 < SMap.get 0 x.deficit m then { x with deficit := SMap.set 0 x.deficit m 0 } else x

/-- A copy is SPILLING, PARKED or FILLING: at the head of its bin it makes it as good as empty (R413). -/
def Copy.away (c : Copy) : Bool := decide (c.spill = 1 ∨ c.spill = 2 ∨ c.spill = 3)

/-- A bin that the scheduler treats as empty: no copy waits in it, or its head is away (R413). -/
def Dev.binEmpty (d : Dev) (q b : Nat) : Bool :=
  match d.binCopies q b with
  | [] => true
  | cid :: _ => match d.cpy cid with
    | some c => c.away
    | none => true

/-- A turn ends and the pointer moves on (R464). -/
def Drr.ended (x : Drr) : Drr := if x.turn then { x with turn := false, ptr := x.ptr + 1 } else x

/-- The turns of a queue that is not eligible end: its own among the weighted group and that of the bin it serves (R464). -/
def Dev.turnsEnd (d : Dev) (q : Nat) : Dev := { d with tm := { d.tm with
  bins := SMap.modify {} d.tm.bins q Drr.ended
  groups := SMap.modify {} d.tm.groups (q / 16) (fun x => if x.ptr = q % 16 then x.ended else x) } }

/-- After a copy has left bin `b` of queue `q` (R413, R464). -/
def Dev.leftBin (d : Dev) (q b : Nat) : Dev :=
  let d := if d.binEmpty q b then
      { d with tm := { d.tm with bins := SMap.modify {} d.tm.bins q (fun x => x.emptied b) } } else d
  if (d.busyBins q).all (d.binEmpty q) then
    { d with tm := { d.tm with groups := SMap.modify {} d.tm.groups (q / 16) (fun x => x.emptied (q % 16)) } }
  else d

/-! ## The end of frames and copies -/

/-- A frame of which nothing remains to be done is forgotten. -/
def Dev.frameDone (d : Dev) (fid : Nat) : Dev :=
  match d.frame fid with
  | none => d
  | some f =>
    if f.whole = true ∧ f.sentLast = true ∧ f.bufWhole = true ∧ f.nCopies = 0 ∧ f.atomic = false
        ∧ (f.dest = .queue ∨ f.fate = .discarded ∨ f.fwd.isSome = true) then d.dropFrame fid
    else d

/-- A copy is forgotten; its frame with it when it was the last. -/
def Dev.copyGone (d : Dev) (cid : Nat) : Dev :=
  match d.cpy cid with
  | none => d
  | some c => ((d.dropCpy cid).modFrame c.fid (fun f => { f with nCopies := f.nCopies - 1 })).frameDone c.fid

/-- A copy that has not started is discarded: its cells are freed, its lines released, its tag removed (R376, R396, R414). -/
def Dev.copyDiscard (d : Dev) (cid : Nat) : Dev :=
  match d.cpy cid with
  | none => d
  | some c =>
    match d.frame c.fid with
    | none => d.dropCpy cid
    | some f =>
      let d := d.askFrees f.cells
      let d := if c.spill = 0 ∨ c.spill = 4 then d else d.releaseLines c.fid c.filled
      let d := (d.setDepth c.queue (d.depthOf c.queue - f.nCells)).tagDown c.tag
      let d := d.modFrame c.fid (fun f => { f with cells := if c.mcast then f.cells else [] })
      (d.copyGone cid).leftBin c.queue c.bin

/-- A frame is discarded before any copy of it has been made: its tag is removed, its later cells are discarded as they
arrive (R370, R472). -/
def Dev.frameRefuse (d : Dev) (fid : Nat) : Dev :=
  match d.frame fid with
  | none => d
  | some f =>
    ((d.setFrame fid { f with fate := .discarded }).frameTagDown f).frameDone fid

/-- A copy that has started leaves the egress side: its tag is removed. It is forgotten once all its cells have been read. -/
def Dev.copyEnd (d : Dev) (cid : Nat) : Dev :=
  match d.cpy cid with
  | none => d
  | some c =>
    if c.ended then d
    else
      let waiting := if c.relWhole then [] else (d.slotCells cid c).map (fun x => x.data.length)
      let d := (d.settle c.deferred (c.rel.length + waiting.foldl (· + ·) 0)).tagDown c.tag
      let d := d.setCpy cid { c with ended := true, deferred := [] }
      if c.sentLast then d.copyGone cid else d

/-- A bad mark reaches the fabric die (R386): unstarted copies are discarded, started ones carry it. -/
def Dev.badArrive (d : Dev) (fid reason : Nat) : Dev :=
  match d.frame fid with
  | none => d
  | some f =>
    let cs := d.copies.filterMap (fun e => match e.2 with | some c => if c.fid = fid then some (e.1, c) else none | none => none)
    cs.foldl (fun d e =>
      if e.2.place = .started then d.setCpy e.1 { e.2 with bad := if e.2.bad = 0 then reason else e.2.bad }
      else
        let d := if e.2.mcast then d.inc R.BPM_MC_COPY_BAD 0 1 else d.inc R.BPM_P_DROP_BAD f.pool 1
        d.copyDiscard e.1) d

end Sys2Proof.Machine
end

