-- ==== Sys2Proof/Machine/Governor.lean ====
section
/-! DEFINITION. The governor's policers, their command sets, shapers and the refill (R444, R445, R464, R466 to R477, R81). -/
namespace Sys2Proof.Machine

/-- A byte count in the units of buckets: 2^-16 byte (R467). -/
def units (n : Nat) : Int := (n * 65536 : Nat)

/-! ## Policers (R470 to R474) -/

def Policer.en (p : Policer) : Bool := decide (fld p.flags 2 1 = 1)
def Policer.dropRed (p : Policer) : Bool := decide (fld p.flags 1 1 = 1)
def Policer.ca (p : Policer) : Bool := decide (fld p.flags 0 1 = 1)

def Dev.policer (d : Dev) (k : Nat) : Policer := SMap.get {} d.tm.policers k
def Dev.setPolicer (d : Dev) (k : Nat) (p : Policer) : Dev := { d with tm := { d.tm with policers := SMap.set {} d.tm.policers k p } }

/-- Colour of a frame whose first cell has `b1` bytes (R471): 0 green, 1 yellow, 2 red; the buckets as it leaves them. -/
def Policer.colour (p : Policer) (pre b1 : Nat) : Nat × Policer :=
  let b := units b1
  if (p.ca = true ∧ 2 ≤ pre) ∨ p.tp < b then (2, p)
  else if (p.ca = true ∧ pre = 1) ∨ p.tc < b then (1, { p with tp := p.tp - b })
  else (0, { p with tp := p.tp - b, tc := p.tc - b })

/-- A frame counts under its colour. -/
def Policer.countFrame (p : Policer) (c : Nat) : Policer :=
  match c with
  | 0 => { p with greenFr := p.greenFr + 1 }
  | 1 => { p with yelFr := p.yelFr + 1 }
  | _ => { p with redFr := p.redFr + 1 }

/-- Its bytes count at its last cell (R476), and the buckets pay the rest (R471) unless it has been discarded before (R445). -/
def Policer.lastCell (p : Policer) (c b1 len : Nat) (gone : Bool) : Policer :=
  let rest := if gone then 0 else units len - units b1
  match c with
  | 0 => { p with greenBy := p.greenBy + len, tp := p.tp - rest, tc := p.tc - rest }
  | 1 => { p with yelBy := p.yelBy + len, tp := p.tp - rest }
  | _ => { p with redBy := p.redBy + len }

/-- USER[95:0] of a tag. -/
def Tag.user (t : Tag) : Nat := t.user0 + t.user1 * 2 ^ 32 + t.user2 * 2 ^ 64

/-- What metering says of a frame: its colour, its policer where one charges it, whether it is discarded. -/
structure Metered where
  colour : Nat := 0
  policer : Option Nat := none
  drop : Bool := false
  deriving DecidableEq, Repr

/-- The governor meters a frame at its first cell (R470 to R474). -/
def Dev.meter (d : Dev) (t : Tag) (b1 : Nat) : Metered × Dev :=
  let off := planNat (d.imageOf t.epoch) 0 1
  let sel := fld t.user off 18
  if t.queue % 16 = 15 ∨ off = 0xFF ∨ fld sel 15 1 = 0 then ({}, d)
  else
    let s := sliceOf t.lport
    let k := s * 32768 + fld sel 0 15
    let p := d.policer k
    let (ue, d) := d.memCheck 0x11 (unitOf s 0 0 0 0 0) (k % 32768)
    if ue then ({}, (d.setPolicer k { p with flags := p.flags % 4 }).raiseBit R.TM_EVENTS 0 5)
    else if !p.en then ({}, d)
    else
        let (c, p) := p.colour (fld sel 16 2) b1
        let drop := decide (c = 2) && p.dropRed
        let p := p.countFrame c
        let p := if drop then { p with drops := p.drops + 1 } else p
        ({ colour := c, policer := some k, drop := drop }, (d.memWritten 0x11 (unitOf s 0 0 0 0 0) (k % 32768)).setPolicer k p)

/-- The last cell of a metered frame of `len` bytes. A frame that was discarded before it is charged no more (R445). -/
def Dev.meterRest (d : Dev) (f : Frame) (len : Nat) : Dev :=
  match f.meter with
  | none => d
  | some k => d.setPolicer k ((d.policer k).lastCell f.tag.colour f.b1 len (decide (f.fate = .discarded)))

/-- A policer at `n` refills: a waiting WRITE or RESET_BUCKETS takes effect, or tokens come in (R471, R476). -/
def Policer.refill (n : Nat) (p : Policer) : Policer :=
  match p.pending with
  | some (cir, pir, cbs, pbs, flags) =>
    { p with cir := cir, pir := pir, cbs := cbs, pbs := pbs, flags := flags, tc := units cbs, tp := units pbs, pending := none, resetDue := false }
  | none =>
    if p.resetDue then { p with tc := units p.cbs, tp := units p.pbs, resetDue := false }
    else { p with tc := min (p.tc + n * p.cir) (units p.cbs), tp := min (p.tp + n * p.pir) (units p.pbs) }

/-! ## Governor commands (R475 to R477) -/

/-- A signed number of whole bytes, as a 32-bit word. -/
def wholeBytes (t : Int) : Nat := ofInt 32 (t / 65536)

/-- Governor commands: WRITE 1, READ 2, READ_STATS 3, READ_CLEAR_STATS 4, RESET_BUCKETS 5. -/
def Dev.govExec (d : Dev) (s h cmd : Nat) : Nat × Dev :=
  let i := s * 4 + h
  let ix := d.fldOf R.GOV_CMD_INDEX i 0 15
  let k := s * 32768 + ix
  let p := d.policer k
  let op := cmd % 16
  if op = 1 then
    let cir := d.rd R.GOV_CIR i
    let pir := d.rd R.GOV_PIR i
    let cbs := d.rd R.GOV_CBS i
    let pbs := d.rd R.GOV_PBS i
    let flags := d.rd R.GOV_FLAGS i
    if fld flags 2 1 = 1 ∧ (pir < cir ∨ cbs = 0 ∨ pbs = 0) then (4, d)
    else (0, (d.memWritten 0x11 (unitOf s 0 0 0 0 0) ix).setPolicer k { p with pending := some (cir, pir, cbs, pbs, flags) })
  else
    let (ue, d) := d.memCheck 0x11 (unitOf s 0 0 0 0 0) ix
    if ue then (8, (d.setPolicer k { p with flags := p.flags % 4 }).raiseBit R.TM_EVENTS 0 5)
    else if op = 2 then
      (0, ((((((d.wr R.GOV_CIR i p.cir).wr R.GOV_PIR i p.pir).wr R.GOV_CBS i p.cbs).wr R.GOV_PBS i p.pbs).wr R.GOV_FLAGS i p.flags).wr
        R.GOV_TC i (wholeBytes p.tc)).wr R.GOV_TP i (wholeBytes p.tp))
    else if op = 5 then (0, d.setPolicer k { p with resetDue := true })
    else
      let d := ((((((d.wr64 R.GOV_ST_GREEN_FR i p.greenFr).wr64 R.GOV_ST_GREEN_BY i p.greenBy).wr64 R.GOV_ST_YEL_FR i p.yelFr).wr64
        R.GOV_ST_YEL_BY i p.yelBy).wr64 R.GOV_ST_RED_FR i p.redFr).wr64 R.GOV_ST_RED_BY i p.redBy).wr64 R.GOV_ST_DROPS i p.drops
      if op = 4 then (0, (d.memWritten 0x11 (unitOf s 0 0 0 0 0) ix).setPolicer k { p with
        greenFr := 0, greenBy := 0, yelFr := 0, yelBy := 0, redFr := 0, redBy := 0, drops := 0 })
      else (0, d)

/-- The governor command at the head of a slice's queue executes, if its OP is `op`. -/
def Dev.govCmd (d : Dev) (s op : Nat) : Dev := d.onFabric (fun d => d.cmdRun .gov s op (fun h v d => d.govExec s h v))

/-! ## Shapers (R466 to R469) -/

def Dev.portShaper (d : Dev) (n : Nat) : Shaper := SMap.get {} d.tm.portShapers n
def Dev.queueShaper (d : Dev) (q : Nat) : Shaper := SMap.get {} d.tm.queueShapers q

/-- A shaper allows a start (R466, R468). -/
def Shaper.allows (x : Shaper) : Bool := decide (x.rate = 0) || decide (0 ≤ x.t)

/-- `n` bytes are charged; a shaper that is off is not charged (DEDUCED from R466, log 28). -/
def Shaper.charge (x : Shaper) (n : Nat) : Shaper := if x.rate = 0 then x else { x with t := x.t - units n }

/-- `n` refills with the register values `rate` and `burst`, which take effect at it (R469). -/
def Shaper.refill (x : Shaper) (n rate burst : Nat) : Shaper :=
  { t := min (x.t + n * rate) (units burst), rate := rate, burst := burst }

/-- Elements of a register that stand off their reset value. -/
def Dev.offReset (d : Dev) (r : RegInfo) : List Nat :=
  d.regs.words.filterMap (fun e => if e.1 / 2 ^ 20 = r.id then some (e.1 % 2 ^ 20) else none)

/-- All shapers at `n` refills. A queue that its shaper has not allowed to start has lost its turn (R464). -/
def Dev.refillShapers (d : Dev) (n : Nat) : Dev :=
  let qs := (d.offReset R.TMQ_SHAPE_RATE ++ d.offReset R.TMQ_SHAPE_BURST ++ d.tm.queueShapers.map (·.1)).eraseDups
  let ps := (d.offReset R.TMP_SHAPE_RATE ++ d.offReset R.TMP_SHAPE_BURST ++ d.tm.portShapers.map (·.1)).eraseDups
  let d := qs.foldl (fun d q => if (d.queueShaper q).allows then d else d.turnsEnd q) d
  let d := qs.foldl (fun d q => { d with tm := { d.tm with
    queueShapers := SMap.modify {} d.tm.queueShapers q (fun x => x.refill n (d.rd R.TMQ_SHAPE_RATE q) (d.rd R.TMQ_SHAPE_BURST q)) } }) d
  ps.foldl (fun d i => { d with tm := { d.tm with
    portShapers := SMap.modify {} d.tm.portShapers i (fun x => x.refill n (d.rd R.TMP_SHAPE_RATE i) (d.rd R.TMP_SHAPE_BURST i)) } }) d

/-- The queue plan of the running epoch takes force (R81, R451): the deficit of a queue whose MODE changes becomes 0. -/
def Dev.planSwitch (d : Dev) : Dev :=
  if !d.tm.planDue then d
  else
    let new := { d with tm := { d.tm with plan := d.epochs.run, planDue := false } }
    let groups := SMap.mapV {} (fun n (x : Drr) => { x with
      deficit := SMap.keep (fun c _ => decide ((d.qrecView (n * 16 + c)).grouped = (new.qrecView (n * 16 + c)).grouped)) x.deficit }) new.tm.groups
    { new with tm := { new.tm with groups := groups } }.raiseBit R.TM_EVENTS 0 0

/-- What `n` refill instants do (R466, R469, R471, R476, R81); a switch of the queue plan falls in the first. -/
def Dev.refill (d : Dev) (n : Nat) : Dev :=
  let d := { d with tm := { d.tm with policers := SMap.mapV {} (fun _ p => p.refill n) d.tm.policers, lastRefill := d.now } }
  ((d.refillShapers n).planSwitch).inc R.TM_REFILLS 0 n

/-- Refills that have fallen due since the last one: one in every 256 traffic-manager clocks of 1.35 GHz (R466). -/
def Dev.refillsDue (d : Dev) : Nat := d.now * 135 / 25600 - d.tm.lastRefill * 135 / 25600

/-- SHAPER_REFILL (R466): the refills that have fallen due. -/
def Dev.shaperRefill (d : Dev) : Dev := d.onFabric (fun d => if d.refillsDue = 0 then d else d.refill d.refillsDue)

end Sys2Proof.Machine
end

