-- ==== Sys2Proof/Machine/Shares.lean ====
section
/-! DEFINITION. Control store records and the shares of an Action Engine array (R300, R301, R314, R315, R373). -/
namespace Sys2Proof.Machine

def Dev.thr (d : Dev) (s t : Nat) : Thread := SMap.get {} d.ae.threads (s * 256 + t)
def Dev.setThr (d : Dev) (s t : Nat) (x : Thread) : Dev :=
  { d with ae := { d.ae with threads := SMap.set {} d.ae.threads (s * 256 + t) x } }
def Dev.modThr (d : Dev) (s t : Nat) (f : Thread → Thread) : Dev := d.setThr s t (f (d.thr s t))
def Dev.chan (d : Dev) (s c : Nat) : Chan := SMap.get {} d.ae.chans (s * 256 + c)
def Dev.setChan (d : Dev) (s c : Nat) (x : Chan) : Dev := { d with ae := { d.ae with chans := SMap.set {} d.ae.chans (s * 256 + c) x } }

/-! ## Records (R299 to R301) -/

/-- A thread record. -/
structure ThrRec where
  entry : Nat
  trapVec : Nat
  idleCont : Nat
  prio : Nat
  en : Bool
  bridge : Bool
  reportAll : Bool
  sigInt : Bool
  bufStatic : Nat
  bufMax : Nat
  outStatic : Nat
  outMax : Nat
  deriving DecidableEq, Repr

/-- The thread record of a microword of the control store; the miller's PRIO is 3. -/
def thrRecOf (w t : Nat) : ThrRec :=
  ⟨fld w 0 16, fld w 16 16, fld w 32 16, if t = 7 then 3 else fld w 48 2, decide (fld w 50 1 = 1), decide (fld w 51 1 = 1),
    decide (fld w 52 1 = 1), decide (fld w 53 1 = 1), fld w 64 16, fld w 80 16, fld w 96 11, fld w 107 11⟩

/-- Record of thread `t` of slice `s` in an image. -/
def thrRec (img : List Byte) (s t : Nat) : ThrRec := thrRecOf (aeWord img s (0xFE00 + t)) t

/-- Record of a thread in its fetch bank. -/
def Dev.recOf (d : Dev) (s t : Nat) : ThrRec := thrRec (d.imageOf (d.thr s t).epoch) s t

/-- A channel record: EN, CAP, READERS. -/
def chanRec (img : List Byte) (s c : Nat) : Bool × Nat × Nat :=
  let w := aeWord img s (0xFF00 + c)
  (decide (fld w 0 1 = 1), fld w 1 5, fld w 8 32)

/-- The array record: UCODE_ID, UCODE_VER, AE_CELLS. -/
def arrayRec (img : List Byte) (s : Nat) : Nat × Nat × Nat :=
  let w := aeWord img s 0xFFFF
  (fld w 0 32, fld w 32 32, fld w 64 20)

/-! ## Shares -/

/-- Cell charge marks: slice * 512 + thread, and thread 256 for the common part's steered frames (R314). -/
def chargeOf (s t : Nat) : Nat := s * 512 + t + 1
def Dev.charged (d : Dev) (s t : Nat) : Nat := (d.buf.recs.filter (fun e => decide (e.2.charge = chargeOf s t))).length

/-- Cells that the array of slice `s` holds. -/
def Dev.aeCells (d : Dev) (s : Nat) : Nat :=
  (d.buf.recs.filter (fun e => decide (s * 512 < e.2.charge ∧ e.2.charge ≤ s * 512 + 257))).length

/-- Cells of the common part that are free: none while FREE is at or below GUARD (R314, R373). -/
def Dev.commonFree (d : Dev) (s : Nat) : Nat :=
  if d.freeCells ≤ d.guard then 0
  else
    let img := d.runImage
    let statics := ((List.range 256).map (fun t => (thrRec img s t).bufStatic)).foldl (· + ·) 0
    let above := ((List.range 256).map (fun t => d.charged s t - (d.recOf s t).bufStatic)).foldl (· + ·) 0
    (arrayRec img s).2.2 - statics - (d.charged s 256 + above)

/-- What an allocation of `n` cells by a thread meets (R314). -/
inductive ShareSays where
  | ok | above | wait
  deriving DecidableEq, Repr

def Dev.shareFor (d : Dev) (s t n : Nat) : ShareSays :=
  let r := d.recOf s t
  let held := d.charged s t
  if r.bufMax < held + n then .above
  else if held + n ≤ r.bufStatic then .ok
  else if held + n - max held r.bufStatic ≤ d.commonFree s then .ok
  else .wait

/-- Cells available to a thread (R320): up to BUF_MAX, from its own part and the common one. -/
def Dev.shareAvail (d : Dev) (s t : Nat) : Nat :=
  let r := d.recOf s t
  let held := d.charged s t
  min (r.bufMax - held) ((r.bufStatic - held) + d.commonFree s)

/-- Outbound entries held: returned frames that wait for a lane (R315). -/
def Dev.outHeld (d : Dev) (s t : Nat) : Nat :=
  (d.framesBy (fun f => decide (f.src = .aeRet) && decide (f.place = .offered) && decide (f.slice = s) && decide (f.outThr = t))).length

/-- Outbound entries held in the slice. -/
def Dev.outUsed (d : Dev) (s : Nat) : Nat :=
  (d.framesBy (fun f => decide (f.src = .aeRet) && decide (f.place = .offered) && decide (f.slice = s))).length

/-- An outbound entry is there for a thread (R315). -/
def Dev.outFree (d : Dev) (s t : Nat) : Bool :=
  let r := d.recOf s t
  let held := d.outHeld s t
  let statics := ((List.range 256).map (fun u => (d.recOf s u).outStatic)).foldl (· + ·) 0
  let above := ((List.range 256).map (fun u => d.outHeld s u - (d.recOf s u).outStatic)).foldl (· + ·) 0
  decide (held < r.outMax) && (decide (held < r.outStatic) || decide (statics + above < 1536))

end Sys2Proof.Machine
end

