-- ==== Sys2Proof/Machine/Admit.lean ====
section
/-! DEFINITION. Admission of frames and cells: pools, queue admission, ECN, spilling, multicast (R282, R368 to R373, R386,
R391 to R395, R408 to R412, R455 to R459). -/
namespace Sys2Proof.Machine

/-! ## ECN (R458, R459) -/

/-- One step of the shift register x^16 + x^14 + x^13 + x^11 + 1 (PRESUMED direction, log 29). -/
def lfsrStep (n : Nat) : Nat :=
  let b := (fld n 0 1 + fld n 2 1 + fld n 3 1 + fld n 5 1) % 2
  n / 2 + b * 32768

/-- The copy is treated at depth `depth` (R458); the shift register advances. -/
def Dev.ecnTreats (d : Dev) (q depth : Nat) : Bool × Dev :=
  let r := lfsrStep d.tm.lfsr
  let d := { d with tm := { d.tm with lfsr := r } }
  let lo := d.rd R.TMQ_ECN_MIN q
  let hi := max (lo + 1) (d.rd R.TMQ_ECN_MAX q)
  let pmax := d.fldOf R.TMQ_ECN_CTRL q 8 8
  (if depth < lo then false
   else if hi ≤ depth then true
   else decide (r * 256 * (hi - lo) < pmax * (depth - lo) * 65536), d)

/-- A checksum updated for a 16-bit word that changes (RFC 1624). -/
def csumUpdate (hc old new : Nat) : Nat :=
  let s := (65535 - hc) + (65535 - old) + new
  let s := s % 65536 + s / 65536
  65535 - (s % 65536 + s / 65536)

/-- What ECN finds in a first cell (R459): none where it is non-ECT; else whether it is already CE, and the cell marked CE. -/
def ecnField (cell : List Byte) (o : Nat) : Option (Bool × List Byte) :=
  let hi := byteAt cell o / 16
  let b1 := byteAt cell (o + 1)
  if o = 0xFF then none
  else if hi = 4 ∧ o + 12 ≤ cell.length then
    if b1 % 4 = 0 then none
    else
      let m := beAt cell o 2
      let m' := m / 4 * 4 + 3
      let hc := csumUpdate (beAt cell (o + 10) 2) m m'
      some (decide (b1 % 4 = 3), spliceAt (spliceAt cell o (beBytes 2 m')) (o + 10) (beBytes 2 hc))
  else if hi = 6 ∧ o + 2 ≤ cell.length then
    let e := fld b1 4 2
    if e = 0 then none else some (decide (e = 3), spliceAt cell (o + 1) [BitVec.ofNat 8 (putFld b1 4 2 3)])
  else none

/-! ## Queue admission (R455 to R457) -/

/-- Colour limit of a queue (R455). -/
def Dev.queueLimit (d : Dev) (q colour : Nat) : Nat :=
  let m := d.rd R.TMQ_LIMIT q
  match colour with
  | 0 => m
  | 1 => m * d.fldOf R.TMQ_CLR q 0 8 / 256
  | _ => m * d.fldOf R.TMQ_CLR q 8 8 / 256

/-- Queue admission of one copy: admitted or not, and the first cell as it is then written. -/
def Dev.queueAdmit (d : Dev) (q : Nat) (t : Tag) (mcast : Bool) (cell : List Byte) : Bool × List Byte × Dev :=
  let yes := fun (c : List Byte) (d : Dev) => (true, c, d.inc R.TMQ_ENQ_FRAMES q 1)
  let depth := d.depthOf q
  if q % 16 = 15 then yes cell d
  else if d.queueLimit q t.colour ≤ depth then (false, cell, d.inc R.TMQ_DROP_LIMIT q 1)
  else
    let (r, d) := d.qrecIn t.epoch q
    if !d.bitOf R.TMQ_ECN_CTRL q 0 || decide (r.anchor = 0) then yes cell d
    else
      let (treated, d) := d.ecnTreats q depth
      if !treated then yes cell d
      else
        let o := fld t.user (8 * (r.anchor - 1)) 8
        match (if mcast then none else ecnField cell o) with
        | some (true, _) => yes cell d
        | some (false, c) => yes c (d.inc R.TMQ_ECN_MARKS q 1)
        | none =>
          if d.bitOf R.TMQ_ECN_CTRL q 1 then (false, cell, d.inc R.TMQ_ECN_DROPS q 1) else yes cell d

/-- A copy joins its bin. -/
def Dev.newCopy (d : Dev) (fid : Nat) (t : Tag) (q : Nat) (mcast : Bool) (spill : Nat) : Dev :=
  let cid := d.nextCid
  { d with nextCid := cid + 1 }.setCpy cid { fid := fid, tag := t, queue := q, bin := t.bin, mcast := mcast, spill := spill }

/-- One more cell of a frame is counted in the depth of each of its copies' queues. -/
def Dev.depthCell (d : Dev) (fid : Nat) : Dev :=
  d.copies.foldl (fun d e => match e.2 with
    | some c => if c.fid = fid ∧ c.ended = false then d.setDepth c.queue (d.depthOf c.queue + 1) else d
    | none => d) d

/-! ## Spilling (R408 to R412) -/

def Dev.spf (d : Dev) (s : Nat) : SpillFill := SMap.get {} d.spill s
def Dev.setSpf (d : Dev) (s : Nat) (x : SpillFill) : Dev := { d with spill := SMap.set {} d.spill s x }

/-- Cells in the spill staging of slice `s`, in all and for one stack. -/
def Dev.staged (d : Dev) (s : Nat) (k : Option Nat) : Nat :=
  (d.frames.map (fun e => match e.2 with
    | some f => if f.slice = s ∧ f.stack.isSome = true ∧ (k = none ∨ f.stack = k) then f.staged else 0
    | none => 0)).foldl (· + ·) 0

/-- Stack `k` is eligible for a spill (R411). -/
def Dev.stackOk (d : Dev) (k : Nat) : Bool :=
  let st := (d.stk k).st
  (decide (st = .run) || decide (st = .sleep)) && decide (max 1024 (d.fldOf R.HBM_PAGE_GUARD 0 0 21) < d.pagesFree k)

/-- The stack that a spill engine picks (R411). -/
def Dev.pickStack (d : Dev) (s : Nat) : Option Nat :=
  let order := (List.range 4).map (fun i => ((d.spf s).lastStack + 1 + i) % 4)
  (order.filter d.stackOk).foldl (fun best k => match best with
    | none => some k
    | some b => if d.staged s (some k) < d.staged s (some b) then some k else some b) none

/-- Lowest-numbered free page of a stack (R407). -/
def Dev.lowestPage (d : Dev) (k : Nat) : Option Nat :=
  ((List.range ((d.stk k).pages.length + 1)).find? (fun p => decide ((d.page k p).st = .free))).filter (· < 1048576)

/-- A frame whose last cell is still to come has its latest line in a page: the lines after it are that frame's, so that its first
line, its count and NEXT find them all (R407). -/
def Dev.pageTaken (d : Dev) (k p : Nat) : Bool :=
  d.frames.any (fun e => match e.2 with
    | some f => decide (f.stack = some k) && !f.bufWhole && (f.lines.getLast?).any (fun a => decide (a / 64 = p))
    | none => false)

/-- The page in which a spill engine begins a frame: the lowest-numbered of its OPEN pages that has lines left, is not to be retired
and into which no frame is in progress (R411, R432; DEDUCED, log 164). -/
def Dev.openPage (d : Dev) (s k : Nat) : Option Nat :=
  ((d.stk k).pages.find? (fun e => decide (e.2.st = .open_) && decide (e.2.engine = s + 1) && decide (e.2.given < 64) && !e.2.retiring
    && !d.pageTaken k e.1)).map (·.1)

/-- A page gives its next line to a frame, which `begins` in it. -/
def Dev.giveLine (d : Dev) (k p : Nat) (begins : Bool) : Option Nat × Dev :=
  let x := d.page k p
  (some (p * 64 + x.given), (d.memWritten 0x04 (unitOf 0 0 0 0 0 k) p).setPage k p
    { x with given := x.given + 1, live := x.live + 1, writing := x.writing + b2n begins })

/-- A frame begins in the lowest-numbered free page of a stack, which becomes OPEN (R407). -/
def Dev.freshPage (d : Dev) (s k : Nat) : Option Nat × Dev :=
  match d.lowestPage k with
  | none => (none, d)
  | some p => ((d.pageTouch k p).setPage k p { st := .open_, engine := s + 1 }).giveLine k p true

/-- The next line for a cell of a frame (R411): for its first cell in the engine's open page or, with none, in a new one; after
that behind its latest line, and past the end of a page in a new page that NEXT names. -/
def Dev.nextLine (d : Dev) (s k : Nat) (last : Option Nat) : Option Nat × Dev :=
  match last with
  | none => match d.openPage s k with
    | some p => (d.pageTouch k p).giveLine k p true
    | none => d.freshPage s k
  | some a =>
    let d := d.pageTouch k (a / 64)
    if (d.page k (a / 64)).given < 64 then d.giveLine k (a / 64) false
    else
      let (r, d) := d.freshPage s k
      (r, match r with | some b => d.setPage k (a / 64) { d.page k (a / 64) with next := b / 64 } | none => d)

/-- One cell of a spilled frame goes to staging and is given its line (R412). -/
def Dev.stageCell (d : Dev) (fid : Nat) (data : List Byte) : Dev :=
  match d.frame fid with
  | none => d
  | some f =>
    match f.stack with
    | none => d
    | some k =>
      match d.nextLine f.slice k f.lines.getLast? with
      | (none, d) => d
      | (some a, d) =>
        let d := (d.wr R.HBM_POOL_PARKED f.pool (d.rd R.HBM_POOL_PARKED f.pool + 1)).inc R.SPE_CELLS f.slice 1
        let n := (d.spf f.slice).cells
        let d := (d.setSpf f.slice { d.spf f.slice with cells := n + 1 }).setFrame fid { f with
          lines := f.lines ++ [a], staged := f.staged + 1, stageData := f.stageData ++ [data], stageSeq := f.stageSeq ++ [n]
          nCells := f.nCells + 1, blen := f.blen + data.length }
        (d.pfcUp f.pfc).depthCell fid

/-- A refused frame is offered to the spill path (R408, R409): its stack, which then is the one chosen last (R411), or nothing
after counting why not. DEDUCED (log 93): a frame that is bound for no queue (`unqueued`: steered, punted or diverted) has no
queue class, and the second condition fails for it. -/
def Dev.spillOffer (d : Dev) (f : Frame) (pool : Nat) (mcast unqueued : Bool) : Option Nat × Dev :=
  let s := f.slice
  if !d.bitOf R.HBM_SPILL_CTRL 0 0 || decide (13 < pool) || decide (fld (d.rd R.HBM_SPILL_CTRL 0) (16 + pool) 1 = 0)
      || mcast || decide (f.tag.queue % 16 = 15) || unqueued || (decide (2 ≤ f.tag.colour) && !d.bitOf R.HBM_SPILL_CTRL 0 1) then
    (none, d.inc R.SPE_NOT_ELIGIBLE s 1)
  else if d.rd R.HBM_POOL_PARK_MAX pool ≤ d.rd R.HBM_POOL_PARKED pool then (none, d.inc R.SPE_PARK_LIMIT s 1)
  else match d.pickStack s with
    | none => (none, d.inc R.SPE_NO_STACK s 1)
    | some k =>
      if min 4096 (d.fldOf R.SPE_STG_MARK s 0 14) ≤ d.staged s none then (none, d.inc R.SPE_STAGING s 1)
      else (some k, d.setSpf s { d.spf s with lastStack := k })

/-! ## The first cell (R370) -/

/-- A refusal of the pool check, counted in the pool (R370). -/
def Dev.poolDrop (d : Dev) (p : Nat) (v : PoolSays) : Dev :=
  match v with
  | .ok => d
  | .limit => d.inc R.BPM_P_DROP_LIMIT p 1
  | .sharedFull => d.inc R.BPM_P_DROP_SHARED p 1
  | .guard => d.inc R.BPM_P_DROP_GUARD p 1

/-- A cell of an admitted frame is written into its pool (R372, R376); `counts` where D does not hold it yet. An empty free list
discards the cell. -/
def Dev.putCell (d : Dev) (fid ref : Nat) (data : List Byte) (counts : Bool := true) : Dev :=
  let uncounted := fun (d : Dev) => if counts then d else d.copies.foldl (fun d e => match e.2 with
    | some c => if c.fid = fid then d.setDepth c.queue (d.depthOf c.queue - 1) else d
    | none => d) d
  match d.frame fid with
  | none => d
  | some f =>
    let charge := match f.dest with | .array _ => chargeOf f.slice 256 | _ => 0
    match d.allocCell (some f.pool) ref partyFrame f.pfc charge with
    | (none, d) =>
      let d := (d.inc R.BPM_EXHAUST_CELLS 0 1).raiseBit R.BPM_EVENTS 0 2
      (uncounted d).setFrame fid { f with bufBad := if f.bufBad = 0 then 10 else f.bufBad }
    | (some c, d) =>
      let d := (d.writeCell c data).setFrame fid { f with cells := f.cells ++ [c], nCells := f.nCells + 1, blen := f.blen + data.length }
      if counts then d.depthCell fid else d

/-- Copies of a list on a frame without the atomic attribute are admitted each on its own (R392, R394, R395); each counts its first
cell in D before the next one is decided (R457). -/
def Dev.replicate (d : Dev) (fid : Nat) (f : Frame) (cs : List (Nat × Nat)) (cell : List Byte) : Dev :=
  cs.foldl (fun d c =>
    if !d.lpInUse (c.2 / 16) then d.inc R.BPM_MC_COPY_UNUSED 0 1
    else
      let t := { f.tag with copy := c.1, queue := c.2 }
      match d.queueAdmit c.2 t true cell with
      | (true, _, d) =>
        (((d.newCopy fid t c.2 true 0).setDepth c.2 (d.depthOf c.2 + 1)).modFrame fid (fun f => { f with nCopies := f.nCopies + 1 })).wake
          (sliceOfQueue c.2)
      | (false, _, d) => d.inc R.BPM_MC_COPY_QUEUE 0 1) d

/-- Live tags of the copies beyond the first (R395); a frame with none is discarded, with its cells (R394). -/
def Dev.replicated (d : Dev) (fid : Nat) (listEmpty : Bool) : Dev :=
  match d.frame fid with
  | none => d
  | some f =>
    if f.nCopies = 0 then
      let d := if listEmpty then (d.inc R.BPM_MC_NOCOPY 0 1).raiseBit R.BPM_EVENTS 0 5 else d
      ((d.askFrees f.cells).modFrame fid (fun f => { f with cells := [] })).frameRefuse fid
    else d.tagUp f.tag.epoch f.tag.version (f.nCopies - 1)

/-- A unicast frame, past the pool check or spilled to `stack`, meets its queue (R370 step 3, R410). -/
def Dev.admitUnicast (d : Dev) (fid : Nat) (f : Frame) (stack : Option Nat) (data : List Byte) : Dev :=
  let q := f.tag.queue
  match d.queueAdmit q f.tag false data with
  | (false, _, d) => d.frameRefuse fid
  | (true, data, d) =>
    let f := { f with fate := .admitted, nCopies := 1, stack := stack }
    let d := (d.setFrame fid f).newCopy fid f.tag q false (if stack.isSome then 1 else 0)
    let d := match stack with
      | some _ => (d.inc R.SPE_FRAMES f.slice 1).stageCell fid data
      | none => (d.inc R.BPM_P_FRAMES f.pool 1).putCell fid 1 data
    d.wake (sliceOfQueue q)

/-- A multicast frame past the pool check (R391 to R394). -/
def Dev.admitMulticast (d : Dev) (fid : Nat) (f : Frame) (data : List Byte) : Dev :=
  let d := d.inc R.BPM_P_FRAMES f.pool 1
  if d.buf.atomicLists.contains f.tag.repl then
    let (cs, d) := d.listCopies f.tag.repl
    (d.setFrame fid { f with fate := .admitted, atomic := true, members := cs }).putCell fid 1 data
  else
    let (cs, d) := d.listCopies f.tag.repl
    let d := (d.setFrame fid { f with fate := .admitted }).replicate fid f cs data
    let d := d.replicated fid (decide (cs = []))
    match d.frame fid with
    | some g => if g.nCopies = 0 then d else d.putCell fid g.nCopies data false
    | none => d

/-- A punted or diverted frame leaves its queue when it is refused. -/
def Dev.puntForget (d : Dev) (fid : Nat) : Dev :=
  let d := { d with amlQ := d.amlQ.filter (· ≠ fid) }
  forN 4 (fun h d => d.setHost h { d.host h with punt := (d.host h).punt.filter (fun e => decide (e.fid ≠ fid)) }) d

/-- A steered frame that the array cannot take: its message or slot is gone (R310, R336, R373). -/
def Dev.arrayForget (d : Dev) (s fid : Nat) : Dev :=
  { d with ae := { d.ae with
      chans := SMap.mapV {} (fun k (c : Chan) =>
        if k / 256 = s then { c with msgs := c.msgs.filter (fun m => decide (m.frame ≠ some fid)) } else c) d.ae.chans
      threads := SMap.mapV {} (fun k (t : Thread) =>
        if k / 256 = s then { t with slots := SMap.keep (fun _ v => decide (v ≠ fid + 1)) t.slots } else t) d.ae.threads } }

/-- The first cell of a frame, once metered (R370, R373, R518). `f` is the frame with its colour. -/
def Dev.admitFirst (d : Dev) (fid : Nat) (f : Frame) (data : List Byte) : Dev :=
  let q := f.tag.queue
  let (r, d) := d.qrec q
  let pfc := if r.pfc = true ∧ q % 16 ≠ 15 then some (f.tag.lport * 8 + r.prio) else none
  match f.dest with
  | .queue =>
    if !f.tag.mcast && !d.lpInUse (q / 16) then (d.inc R.BPM_UNUSED_LPORT 0 1).frameRefuse fid
    else
      let pool := if f.tag.mcast then d.mcPool else poolOf q r
      let f := { f with pool := pool, pfc := pfc }
      let d := d.setFrame fid f
      match d.poolCheck pool f.tag.colour with
      | .ok => if f.tag.mcast then d.admitMulticast fid f data else d.admitUnicast fid f none data
      | .guard => (d.poolDrop pool .guard).frameRefuse fid
      | v =>
        match d.spillOffer f pool f.tag.mcast false with
        | (some k, d) => d.admitUnicast fid f (some k) data
        | (none, d) => (d.poolDrop pool v).frameRefuse fid
  | .array _ =>
    let f := { f with pool := 14, pfc := pfc }
    match d.poolCheck 14 f.tag.colour with
    | .ok =>
      if d.commonFree f.slice = 0 then ((d.inc R.BPM_P_DROP_SHARED 14 1).arrayForget f.slice fid).frameRefuse fid
      else ((d.inc R.BPM_P_FRAMES 14 1).setFrame fid { f with fate := .admitted }).putCell fid 1 data
    | .guard => ((d.poolDrop 14 .guard).arrayForget f.slice fid).frameRefuse fid
    | v => (((d.spillOffer f 14 f.tag.mcast true).2.poolDrop 14 v).arrayForget f.slice fid).frameRefuse fid
  | _ =>
    let pool := if f.tag.mcast then d.mcPool else poolOf q r
    let f := { f with pool := pool, pfc := pfc }
    match d.poolCheck pool f.tag.colour with
    | .ok => ((d.inc R.BPM_P_FRAMES pool 1).setFrame fid { f with fate := .admitted }).putCell fid 1 data
    | .guard => ((d.poolDrop pool .guard).puntForget fid).frameRefuse fid
    | v => (((d.spillOffer f pool f.tag.mcast true).2.poolDrop pool v).puntForget fid).frameRefuse fid

/-! ## The last cell -/

/-- On an atomic list all copies meet queue admission together (R393), in copy order: each decision sees D with the copies before it
(R457), which it keeps only if all are admitted. -/
def Dev.atomicDeliver (d : Dev) (fid : Nat) (f : Frame) : Dev :=
  let data := match f.cells with | c :: _ => SMap.get [] d.buf.data c | [] => []
  let cs := f.members
  let used := cs.filter (fun c => d.lpInUse (c.2 / 16))
  let d := d.inc R.BPM_MC_COPY_UNUSED 0 (cs.length - used.length)
  let depth := d.tm.depth
  let (refused, d) := used.foldl (fun (n, d) c =>
    match d.queueAdmit c.2 { f.tag with copy := c.1, queue := c.2 } true data with
    | (true, _, d) => (n, { d with tm := { d.tm with depth := SMap.set 0 d.tm.depth c.2 (d.depthOf c.2 + f.nCells) } })
    | (false, _, d) => (n + 1, d.inc R.BPM_MC_COPY_QUEUE 0 1)) (0, d)
  let d := { d with tm := { d.tm with depth := depth } }
  let drop := fun (d : Dev) => ((d.askFrees f.cells).setFrame fid { f with atomic := false, cells := [] }).frameRefuse fid
  if used = [] then
    drop (if cs = [] then (d.inc R.BPM_MC_NOCOPY 0 1).raiseBit R.BPM_EVENTS 0 5 else d)
  else if 0 < refused then drop (d.inc R.BPM_MC_ATOMIC_DROPS 0 1)
  else
    let d := d.setFrame fid { f with atomic := false, nCopies := used.length }
    let d := f.cells.foldl (fun d c => d.setCellRec c { d.cellRec c with ref := used.length }) d
    let d := used.foldl (fun d c =>
      let d := d.newCopy fid { f.tag with copy := c.1, queue := c.2 } c.2 true 0
      (d.setDepth c.2 (d.depthOf c.2 + f.nCells)).wake (sliceOfQueue c.2)) d
    d.tagUp f.tag.epoch f.tag.version (used.length - 1)

/-- The second part of two-part charges (R445): L - 256 to the shapers, deficits and byte counters of started copies. -/
def Dev.chargeRest (d : Dev) (fid len : Nat) : Dev :=
  d.copies.foldl (fun d e => match e.2 with
    | none => d
    | some c =>
      if c.fid ≠ fid ∨ c.owes = false then d
      else
        let q := c.queue
        let n := q / 16
        let rest : Int := (len : Int) - 256
        let (r, d) := d.qrec q
        let pay := fun (x : Shaper) => if x.rate = 0 then x else { x with t := x.t - rest * 65536 }
        let debit := fun (m : Nat) (x : Drr) => { x with deficit := SMap.modify 0 x.deficit m (· - rest) }
        let d := { d with tm := { d.tm with
          queueShapers := SMap.modify {} d.tm.queueShapers q pay, portShapers := SMap.modify {} d.tm.portShapers n pay
          bins := SMap.modify {} d.tm.bins q (debit c.bin)
          groups := if r.grouped && decide (q % 16 ≠ 15) then SMap.modify {} d.tm.groups n (debit (q % 16)) else d.tm.groups } }
        ((d.inc R.TMP_DEQ_BYTES n (len - 256)).inc R.TMQ_DEQ_BYTES q (len - 256)).setCpy e.1 { c with owes := false }) d

/-- The last cell of a frame is in: lengths, charges, marks, delivery (R386, R393, R412, R445, R471, R519). -/
def Dev.lastIn (d : Dev) (fid bad : Nat) : Dev :=
  match d.frame fid with
  | none => d
  | some f =>
    let f := { f with bufWhole := true, bufBad := if f.bufBad = 0 then bad else f.bufBad }
    let d := ((d.setFrame fid f).meterRest f f.blen).chargeRest fid f.blen
    match f.fate, f.dest with
    | .admitted, .queue =>
      if f.bufBad ≠ 0 then
        if f.atomic then ((d.askFrees f.cells).setFrame fid { f with atomic := false, cells := [] }).frameRefuse fid
        else (d.badArrive fid f.bufBad).frameDone fid
      else if f.atomic then d.atomicDeliver fid f
      else d.frameDone fid
    | .admitted, .punt h =>
      d.setHost h { d.host h with punt := (d.host h).punt.map (fun e => if e.fid = fid then { e with whole := true } else e) }
    | .admitted, _ => d
    | _, _ => d.frameDone fid

/-- Bytes of a frame returned before its last cell go on to the frame that it became (R316). -/
def Dev.forwardBytes (d : Dev) (g : Nat) (data : List Byte) (last : Bool) (bad : Nat) : Dev :=
  d.modFrame g (fun x => { x with
    bytes := x.bytes ++ data, whole := x.whole || last, bad := if x.bad = 0 then bad else x.bad })

/-! ## The two commands -/

/-- The first cell `c`, taken off the queue, is metered and its frame admitted, refused, spilled or replicated. None where the
frame is admitted but its cell must wait for a free one (R375): `free` says whether there was one. -/
def Dev.firstIn (d : Dev) (free : Bool) (c : AdmitCell) : Option Dev :=
  match d.frame c.owner with
  | none => some d
  | some f =>
    let fid := c.owner
    if f.fate ≠ .none then some (if c.last then d.lastIn fid c.bad else d)
    else
      let d := match (if f.hasTag then d.forced f.tag else none) with
        | some ctr => ((((d.inc ctr 0 1).puntForget fid).arrayForget f.slice fid).frameRefuse fid)
        | none =>
          let (m, d) := d.meter f.tag c.data.length
          let f := { f with tag := { f.tag with colour := m.colour }, meter := m.policer, b1 := c.data.length }
          let d := d.setFrame fid f
          if m.drop then ((d.puntForget fid).arrayForget f.slice fid).frameRefuse fid
          else d.admitFirst fid f c.data
      let waits := match d.frame fid with
        | some f => decide (f.fate = .admitted) && f.stack.isNone
        | none => false
      if waits && !free then none
      else
        let d := d.modFrame fid (fun f => if f.fate = .discarded then { f with blen := c.data.length } else f)
        some (if c.last then d.lastIn fid c.bad else d)

/-- The oldest first cell of the queue that need not wait: `past` are the entries before it, newest first. -/
def Dev.frameAdmitFrom (d : Dev) (past : List AdmitCell) : List AdmitCell → Dev
  | [] => d
  | c :: rest =>
    if c.first then
      match { d with admitQ := past.reverse ++ rest }.firstIn (decide (d.freeCells ≠ 0)) c with
      | some d' => d'
      | none => d.frameAdmitFrom (c :: past) rest
    else if past = [] then d else d.frameAdmitFrom (c :: past) rest

/-- FRAME_ADMIT (R370): the first cell of a frame is metered and admitted, refused, spilled or replicated. A frame that passes
its checks but finds the free list empty waits (R375), and a later one that need not wait goes before it. -/
def Dev.frameAdmit (d : Dev) : Dev := d.onFabric (fun d => d.frameAdmitFrom [] d.admitQ)

/-- The later cell that is next: the oldest of the queue or, while first cells wait for a free cell (R372), the first of a
frame none of whose cells stands before it. `past` are the entries before, newest first. -/
def laterCell (past : List AdmitCell) (wait : Bool) : List AdmitCell → Option (AdmitCell × List AdmitCell)
  | [] => none
  | c :: rest =>
    if c.first then (if wait then laterCell (c :: past) wait rest else none)
    else if past.any (fun x => decide (x.owner = c.owner)) then laterCell (c :: past) wait rest
    else some (c, past.reverse ++ rest)

/-- CELL_ADMIT (R372, R385): a later cell of a frame, or the end that a resequencer gave it. -/
def Dev.cellAdmit (d : Dev) : Dev :=
  d.onFabric (fun d =>
  match laterCell [] (decide (d.freeCells = 0)) d.admitQ with
  | none => d
  | some (c, q) =>
    let d := { d with admitQ := q }
    match d.frame c.owner with
    | none => d
    | some f =>
      let fid := c.owner
      let d := match f.fate, f.fwd with
          | .admitted, some g => (d.forwardBytes g c.data c.last c.bad).setFrame fid { f with blen := f.blen + c.data.length }
          | .admitted, none =>
            if !c.hasCell then d
            else if f.stack.isSome then d.stageCell fid c.data
            else if f.dest = .queue ∧ f.atomic = false ∧ f.nCopies = 0 then d.setFrame fid { f with blen := f.blen + c.data.length }
            else d.putCell fid (if f.dest = .queue ∧ f.atomic = false then f.nCopies else 1) c.data
          | _, _ => d.setFrame fid { f with blen := f.blen + c.data.length }
      let d := if c.bad ≠ 0 then d.modFrame fid (fun f => { f with bufBad := if f.bufBad = 0 then c.bad else f.bufBad }) else d
      if c.last then d.lastIn fid c.bad else d)

/-- CELL_FREE (R377): the pool manager takes the oldest free that waits. -/
def Dev.cellFree (d : Dev) : Dev :=
  d.onFabric (fun d =>
  match d.buf.freeReq with
  | [] => d
  | (c, p) :: rest => ({ d with buf := { d.buf with freeReq := rest } }.freeCell c p).2)

end Sys2Proof.Machine
end

