-- ==== Sys2Proof/Machine/Millrace.lean ====
section
/-! DEFINITION. The millrace: cells, links, planes, streams and resequencers (R351 to R367, R386 to R389). -/
namespace Sys2Proof.Machine

/-! ## Data-path FIFO words (R365, R367, R645) -/

/-- LOC of a FIFO entry. -/
def fifoLoc (inst entry : Nat) : Nat := inst * 65536 + entry

/-! ## Sending (R353 to R358) -/

/-- The plane of a cell (R355): the link in service with the most free space; ties go to the first after the plane used last. -/
def Dev.pickPlane (d : Dev) (outbound : Bool) (s last : Nat) : Option Nat :=
  let order := ((List.range 4).map (fun i => (last + 1 + i) % 4)).filter
    (fun k => d.linkOn outbound s k && decide (d.onLink outbound s k < linkDepth outbound))
  order.foldl (fun best k => match best with
    | none => some k
    | some b => if d.onLink outbound s k < d.onLink outbound s b then some k else some b) none

/-- Send one cell of a stream, if a credit and a link allow: `mk` makes it from its sequence number and plane. True where it
went. -/
def Dev.sendCell (d : Dev) (outbound : Bool) (s p : Nat) (mk : Nat → Nat → Cell) : Bool × Dev :=
  let k := streamOf outbound s p
  let x := d.snd k
  if 4096 ≤ x.outstanding then (false, d)
  else match d.pickPlane outbound s x.lastPlane with
    | none => (false, d)
    | some pl =>
      let c := mk x.seq pl
      let d := d.setSnd k { x with seq := (x.seq + 1) % 65536, outstanding := x.outstanding + 1, lastPlane := pl }
      let d := if outbound then d else d.memWritten 0x14 (unitOf s 0 0 0 0 0) (fifoLoc (24 + pl) (x.seq % 16))
      let d := { d with links := d.links ++ [c] }
      (true, d.pmcFab (if outbound then 0x111 else 0x110) s (ceilDiv c.data.length 64))

/-- Bytes of an ingress frame as its deparser passes them, as far as they have come; and whether that is all of it (R277). -/
def Frame.output (f : Frame) : List Byte × Bool :=
  let bs := f.head ++ f.bytes.drop f.headIn
  (bs.take 16383, f.whole || decide (16383 < bs.length))

/-- A frame whose output passes 16,383 bytes is cut, marked and counted once (R277). -/
def Dev.cutCheck (d : Dev) (fid : Nat) : Dev :=
  match d.frame fid with
  | none => d
  | some f =>
    if f.cut = false ∧ 16383 < f.head.length + (f.bytes.length - f.headIn) then
      (d.setFrame fid { f with cut := true, bad := if f.bad = 0 then 2 else f.bad }).deparseErr false f.slice f.pipe
    else d

/-- Frames of an ingress stream that have cells to send, in order. -/
def Dev.senderFrames (d : Dev) (s p : Nat) : List Nat :=
  d.framesInOrder (fun f => decide (f.place = .fabric) && decide (f.slice = s) && decide (f.pipe = p) && !f.sentLast)

/-- The context of a frame's cells (R361): of a port frame its logical port within the pipeline; of another, kept from its
first cell on, the lowest of 16 to 31 that no frame under way uses (DESIGN CHOICE, log 26). None while it must wait. -/
def Dev.ctxOf (d : Dev) (s p fid : Nat) (f : Frame) : Option Nat :=
  let others := (d.senderFrames s p).filter (· ≠ fid)
  if 0 < f.sent then some f.ctx
  else if f.src = .port then
    let same := others.any (fun g => match d.frame g with
      | some x => decide (x.src = .port) && decide (x.lport = f.lport) && (decide (0 < x.sent) || decide (x.order < f.order))
      | none => false)
    if same then none else some (f.lport % 16)
  else
    let taken := others.filterMap (fun g => match d.frame g with | some x => if 0 < x.sent then some x.ctx else none | none => none)
    ((List.range 16).map (· + 16)).find? (fun c => !taken.contains c)

/-- Send what cells of a frame can go; `n` bounds their number. -/
def Dev.pumpFrame (d : Dev) (fid : Nat) : Nat → Dev
  | 0 => d
  | n + 1 =>
    match d.frame fid with
    | none => d
    | some f =>
      let (out, all) := f.output
      let k := f.sent
      if f.sentLast ∨ ¬ (256 * (k + 1) < out.length ∨ (all = true ∧ (k = 0 ∨ 256 * k < out.length))) then d
      else match d.ctxOf f.slice f.pipe fid f with
        | none => d
        | some ctx =>
          let last := all && decide (out.length ≤ 256 * (k + 1))
          let (went, d') := d.sendCell false f.slice f.pipe (fun seq pl => {
            outbound := false, slice := f.slice, pipe := f.pipe, seq := seq, ctx := ctx, cidx := k, first := decide (k = 0)
            last := last, bad := if last then f.bad else 0, owner := fid, epoch := f.tag.epoch, version := f.tag.version, plane := pl, data := slice out (256 * k) 256
            poison := false, ready := true })
          if !went then d
          else
            let seq := (d.snd (streamOf false f.slice f.pipe)).seq
            (d'.setFrame fid { f with
              sent := k + 1, sentLast := last, ctx := ctx
              tag := if k = 0 then { f.tag with seq := seq } else f.tag }).pumpFrame fid n

/-- Everything that a stream's frames can send goes onto its links. -/
def Dev.pumpIn (d : Dev) (s p : Nat) : Dev :=
  (d.senderFrames s p).foldl (fun d fid => (((d.cutCheck fid).pumpFrame fid 66).frameDone fid)) d

/-- Started copies of an egress pipeline with cells to send, in order. -/
def Dev.senderCopies (d : Dev) (s p : Nat) : List Nat :=
  d.copies.filterMap (fun e => match e.2 with
    | some c => if c.place = .started ∧ c.sentLast = false ∧ sliceOfQueue c.queue = s ∧ pipeOfQueue c.queue = p then some e.1 else none
    | none => none)

/-- Read and send what cells of a started copy can go (R376, R380, R383, R386). -/
def Dev.pumpCopy (d : Dev) (cid : Nat) : Nat → Dev
  | 0 => d
  | n + 1 =>
    match d.cpy cid with
    | none => d
    | some c =>
      match d.frame c.fid with
      | none => d
      | some f =>
        let k := c.sent
        let s := sliceOfQueue c.queue
        let p := pipeOfQueue c.queue
        if c.sentLast ∨ (f.cells.length ≤ k ∧ f.bufWhole = false) then d
        else
          let last := f.bufWhole && decide (f.cells.length ≤ k + 1)
          let cell := f.cells[k]?
          let (data, ue, dr) := match cell with | some x => d.readCell x | none => ([], false, d)
          let bad := if c.bad = 0 ∧ ue = true then 6 else c.bad
          let (bad, dr) := match (if last && decide (bad = 0) && !c.ended then dr.egressForced c else none) with
            | some ctr => (9, dr.inc ctr 0 1)
            | none => (bad, dr)
          let (went, d') := dr.sendCell true s p (fun seq pl => {
            outbound := true, slice := s, pipe := p, seq := seq, ctx := (c.queue / 16) % 16, cidx := k, first := decide (k = 0)
            last := last, bad := if last then bad else 0, owner := cid, epoch := c.tag.epoch, version := c.tag.version, plane := pl, data := data, poison := false, ready := false })
          if !went then d
          else
            let seq := (d.snd (streamOf true s p)).seq
            let d' := match cell with
              | some x => (d'.askFree x partyFrame).setDepth c.queue (d'.depthOf c.queue - 1)
              | none => d'
            let d' := if ue then (d'.modFrame c.fid (fun f => { f with bufBad := if f.bufBad = 0 then 6 else f.bufBad })).badArrive c.fid 6 else d'
            let d' := d'.setCpy cid { c with
              sent := k + 1, sentLast := last, bad := bad
              tag := if k = 0 then { c.tag with seq := seq } else c.tag }
            (if last && c.ended then d'.copyGone cid else d').pumpCopy cid n

/-- Everything that a stream's copies can send goes onto its links. -/
def Dev.pumpOut (d : Dev) (s p : Nat) : Dev :=
  d.onFabric (fun d => (d.senderCopies s p).foldl (fun d cid => d.pumpCopy cid 66) d)

/-- Every stream sends what it can: after a change of enables (R356). -/
def Dev.pumpAll (d : Dev) : Dev := forN 8 (fun s d => forN 4 (fun p d => (d.pumpIn s p).pumpOut s p) d) d

/-! ## Frames and copies cut short -/

/-- A cell is lost at a receiver. Losing the first cell of a crossing discards the frame or copy (R27, log 27). -/
def Dev.cellLost (d : Dev) (c : Cell) : Dev :=
  if !c.first then d
  else if c.outbound then d.copyEnd c.owner
  else match d.frame c.owner with
    | none => d
    | some f =>
      if f.fate ≠ .none then d
      else (((d.puntForget c.owner).arrayForget f.slice c.owner).modFrame c.owner (fun f => { f with bufWhole := true })).frameRefuse c.owner

/-- One credit of a stream returns (R358). -/
def Dev.creditBack (d : Dev) (k : Nat) : Dev := d.setSnd k { d.snd k with outstanding := (d.snd k).outstanding - 1 }

/-! ## Receiving (R353, R356, R359, R362) -/

/-- A CRC failure on a link (R353, R356): counted, and at ERR_MAX of them in 1 ms the direction goes out of service. -/
def Dev.crcFail (d : Dev) (outbound : Bool) (s k : Nat) : Dev :=
  let i := s * 4 + k
  let d := (d.inc (if outbound then R.MRC_CRC_OUT else R.MRC_CRC_IN) i 1).raiseBit R.MRC_EVENTS 0 1
  let key := b2n outbound * 32 + i
  let e := SMap.get {} d.linkErrs key
  let e : LinkErr := if e.count = 0 ∨ e.since + 1000000 ≤ d.now then ⟨d.now, 1⟩ else ⟨e.since, e.count + 1⟩
  if max 1 (d.fldOf R.MRC_CTRL 0 8 8) ≤ e.count then
    let d := { d with linkErrs := SMap.set {} d.linkErrs key {} }
    (d.setFld R.MRC_LINK i (b2n outbound) 1 0).raiseBit R.MRC_EVENTS 0 0
  else { d with linkErrs := SMap.set {} d.linkErrs key e }

/-- TIMEOUT_NS of a resequencer. -/
def Dev.rsqTimeout (d : Dev) (outbound : Bool) (s : Nat) : Nat :=
  max 1 (if outbound then d.fldOf R.MRS_CTRL s 0 16 else d.fldOf R.MRC_RSQ_CTRL 0 0 16)

/-- The gap timer after a change (R360): it runs while the slot of NEXT is empty and another holds a cell. `moved` says that
NEXT has advanced. -/
def Dev.gapTimer (d : Dev) (k : Nat) (moved : Bool) : Dev :=
  let q := d.rsq k
  let gap := decide (SMap.get none q.slots (q.next % 4096) = none) && decide (q.slots ≠ [])
  let t := if !gap then none else if moved then some d.now else match q.gapSince with | some t => some t | none => some d.now
  d.setRsq k { q with gapSince := t }

/-- Count and event registers of a resequencer: (counter, index, event register, index, bit). -/
def rsqCtr (outbound : Bool) (s p which : Nat) : RegInfo × Nat × RegInfo × Nat × Nat :=
  let i := s * 4 + p
  match which, outbound with
  | 0, false => (R.MRC_LOST, i, R.MRC_EVENTS, 0, 2)
  | 1, false => (R.MRC_ORPHAN, i, R.MRC_EVENTS, 0, 3)
  | 2, false => (R.MRC_LATE, i, R.MRC_EVENTS, 0, 5)
  | _, false => (R.MRC_WINDOW, i, R.MRC_EVENTS, 0, 4)
  | 0, true => (R.MRS_LOST, i, R.MRS_EVENTS, s, 0)
  | 1, true => (R.MRS_ORPHAN, i, R.MRS_EVENTS, s, 1)
  | 2, true => (R.MRS_LATE, i, R.MRS_EVENTS, s, 2)
  | _, true => (R.MRS_WINDOW, i, R.MRS_EVENTS, s, 3)

/-- Count at a resequencer: 0 LOST, 1 ORPHAN, 2 LATE, 3 WINDOW. -/
def Dev.rsqCount (d : Dev) (outbound : Bool) (s p which : Nat) : Dev :=
  let (c, i, e, j, b) := rsqCtr outbound s p which
  (d.inc c i 1).raiseBit e j b

/-- FIFO instance and UNIT of a resequencer (R645). -/
def rsqFifo (outbound : Bool) (s p : Nat) : Nat × Nat :=
  if outbound then (28 + p, unitOf s 0 0 0 0 0) else (64 + s * 4 + p, 0)

/-- Both ends of a crossing are clocked: the fabric, and for outbound cells the slice. -/
def Dev.endsRun (d : Dev) (outbound : Bool) (s : Nat) : Bool :=
  !d.fan.fabricAsleep && (!outbound || decide ((d.slc s).st = .run))

/-- CELL_RECEIVE (R353, R359, R362): the oldest cell on a link reaches the receiving edge; `crcFail` says that its check
fails. -/
def Dev.cellReceive (d : Dev) (outbound : Bool) (s plane : Nat) (crcFail : Bool) : Dev :=
  if !d.endsRun outbound s then d else
  match takeFirst (fun c => decide (c.outbound = outbound) && decide (c.slice = s) && decide (c.plane = plane)) d.links with
  | none => d
  | some (c, rest) =>
    let d := { d with links := rest }
    let k := streamOf outbound s c.pipe
    let (ue, d) := if outbound then (false, d)
      else
        let (u1, d) := d.memCheck 0x14 (unitOf s 0 0 0 0 0) (fifoLoc (24 + plane) (c.seq % 16))
        let d := d.memWritten 0x14 0 (fifoLoc (32 + s * 4 + plane) (c.seq % 32))
        let (u2, d) := d.memCheck 0x14 0 (fifoLoc (32 + s * 4 + plane) (c.seq % 32))
        (u1 || u2, d)
    let c := { c with poison := c.poison || ue }
    let again := fun (d : Dev) => if outbound then d.pumpOut s c.pipe else d.pumpIn s c.pipe
    let drop := fun (d : Dev) => again ((d.cellLost c).creditBack k)
    if crcFail then drop (d.crcFail outbound s plane)
    else
      let q := d.rsq k
      let dist := (c.seq + 65536 - q.next) % 65536
      let slot := c.seq % 4096
      if 61440 ≤ dist then drop (d.rsqCount outbound s c.pipe 2)
      else if 4096 ≤ dist ∨ SMap.get none q.slots slot ≠ none then drop (d.rsqCount outbound s c.pipe 3)
      else
        let (inst, unit) := rsqFifo outbound s c.pipe
        let d := d.memWritten 0x14 unit (fifoLoc inst slot)
        let d := d.setRsq k { q with slots := SMap.set none q.slots slot (some { c with ready := !outbound || !c.first }) }
        let d := if outbound && c.first then
            match d.cpy c.owner with
            | some x => d.setCpy c.owner { x with stage := some 0, ps := { head := c.data } }
            | none => d
          else d
        again (d.gapTimer k false)

/-! ## Releasing (R359 to R363, R385, R386) -/

/-- What a context makes of a cell (R361): the frame in progress ends bad, the cell starts a frame, is passed, is discarded,
or ends the frame bad. -/
inductive CtxSays where
  | start (endsOld : Option Nat) | pass (owner : Nat) | orphan | discard | endBad (owner : Nat)
  deriving DecidableEq, Repr

/-- The context table of R361 for a released cell: what it says and the next state. -/
def ctxStep (x : CtxState) (c : Cell) : CtxSays × CtxState :=
  let started := if c.last then CtxState.idle else .inFrame 1 c.owner
  match x, c.first with
  | .idle, true => (.start none, started)
  | .idle, false => (.orphan, .idle)
  | .inFrame _ o, true => (.start (some o), started)
  | .inFrame k o, false =>
    if c.cidx = k then (.pass o, if c.last then .idle else .inFrame (k + 1) o)
    else (.endBad o, if c.last then .idle else .discard)
  | .discard, true => (.start none, started)
  | .discard, false => (.discard, if c.last then .idle else .discard)

/-- Change one copy, if it is there. -/
def Dev.modCpy (d : Dev) (cid : Nat) (g : Copy → Copy) : Dev :=
  match d.cpy cid with
  | some c => d.setCpy cid (g c)
  | none => d

/-- The frame of a context ends bad with CELL_LOST (R361). -/
def Dev.endLost (d : Dev) (outbound : Bool) (owner : Nat) : Dev :=
  if !outbound then
    { d with admitQ := d.admitQ ++ [AdmitCell.mk owner false true 7 false []] }
  else match d.cpy owner with
    | none => d
    | some c =>
      let d := d.setCpy owner { c with
        relWhole := true, bad := if c.bad = 0 then 7 else c.bad, tag := { c.tag with stomp := true } }
      match c.recircTo with
      | some g =>
        let d := d.modFrame g (fun f => { f with whole := true, bad := if f.bad = 0 then 7 else f.bad })
        if c.sentLast then d.copyGone owner else d.modCpy owner (fun c => { c with ended := true })
      | none => if c.verdict = .discard then d.copyEnd owner else d

/-- The copy's output from byte `n` on: the deparsed head in place of the bytes it replaces (R276, R277). -/
def Copy.output (c : Copy) : List Byte := (c.head ++ c.rel.drop c.headIn).take 16383

/-- A copy whose output passes 16,383 bytes is cut, marked and counted once (R277). -/
def Dev.copyCut (d : Dev) (cid : Nat) : Dev :=
  match d.cpy cid with
  | none => d
  | some c =>
    if c.cut = false ∧ 16383 < c.head.length + (c.rel.length - c.headIn) then
      (d.setCpy cid { c with cut := true, bad := if c.bad = 0 then 2 else c.bad, tag := { c.tag with stomp := true } }).deparseErr true
        (sliceOfQueue c.queue) (pipeOfQueue c.queue)
    else d

/-- The cells of a copy go to the egress MAC. -/
def Dev.forwards (d : Dev) (cid : Nat) : Bool :=
  match d.cpy cid with | some x => decide (x.verdict = .forward) && !x.ended | none => false

/-- Another head of the same logical port came to the egress MAC earlier. -/
def Dev.earlierHead (d : Dev) (cid : Nat) (c : Copy) : Bool :=
  d.copies.any (fun e => match e.2 with
    | some x => decide (e.1 ≠ cid) && x.headOut && !x.ended && decide (x.queue / 16 = c.queue / 16)
        && decide (0 < (c.tag.seq + 65536 - x.tag.seq) % 65536 ∧ (c.tag.seq + 65536 - x.tag.seq) % 65536 < 32768)
    | none => false)

/-- The egress MAC does not take a copy's bytes as they come: an earlier frame of its port goes first, or the port is in a
quiet interval. -/
def Dev.macHolds (d : Dev) (cid : Nat) (c : Copy) : Bool := d.earlierHead cid c || (d.lp (c.queue / 16)).txQuiet

/-- Entries of 64 bytes in use of a port's egress MAC FIFO (R39): bytes released that the MAC does not yet take. -/
def Dev.macUsed (d : Dev) (port : Nat) : Nat :=
  (d.copies.map (fun e => match e.2 with
    | some x => if physOf (x.queue / 16) = port ∧ x.verdict = .forward ∧ x.ended = false ∧ d.macHolds e.1 x = true
        then ceilDiv x.rel.length 64 else 0
    | none => 0)).foldl (· + ·) 0

/-- The egress MAC FIFO of a port has no room for a cell of a copy (R39): 8 entries. Bytes of the frame that the MAC sends
pass at its pace, as FRAME_TRANSMIT sends a frame at once (log 147). -/
def Dev.macFull (d : Dev) (cid : Nat) (n : Nat) : Bool :=
  match d.cpy cid with
  | some x => d.forwards cid && d.macHolds cid x && decide (8 < d.macUsed (physOf (x.queue / 16)) + ceilDiv n 64)
  | none => false

/-- BUSY of a port (R483): when its egress MAC ends the wire bytes of the copies that it holds. -/
def Dev.busyEnd (d : Dev) (lport : Nat) : Nat := (d.tmp lport).busyFrom + ceilDiv (d.tmp lport).busyBits (d.macRate lport)

/-- Bytes of a copy on the wire as far as the MAC has it: its output after edits, padded once it is whole (R277), and the 20 that
frame it. -/
def Copy.wireBytes (c : Copy) : Nat := 20 + (if c.relWhole then max 64 c.output.length else c.output.length)

/-- BUSY follows what the egress MAC holds of a copy: bytes that have come, and those that the egress stages add or take away
(R483, R484). -/
def Dev.busyTo (d : Dev) (cid : Nat) : Dev :=
  match d.cpy cid with
  | none => d
  | some c =>
    if c.verdict ≠ .forward ∨ c.ended = true then d
    else
      let n := c.queue / 16
      let x := d.tmp n
      let idle := decide (d.busyEnd n ≤ d.now)
      let held := if idle then 0 else x.busyBits
      (d.setTmp n { x with busyFrom := if idle then d.now else x.busyFrom, busyBits := held + c.wireBytes * 8 - c.wired * 8 }).setCpy cid
        { c with wired := c.wireBytes }

/-- A released cell of a copy reaches where the verdict sends it (R279, R362). -/
def Dev.copyTakes (d : Dev) (cid : Nat) (c : Cell) (ue : Bool) : Dev :=
  match d.cpy cid with
  | none => d
  | some x =>
    if x.ended then d else
    let s := c.slice
    let bad := if x.bad ≠ 0 then x.bad else if c.bad ≠ 0 then c.bad else if ue then 5 else 0
    let x := { x with rel := x.rel ++ c.data, relWhole := c.last, bad := bad
                      tag := if c.last && decide (bad ≠ 0) then { x.tag with stomp := true } else x.tag }
    let d := (d.setCpy cid x).copyCut cid
    match x.verdict with
    | .discard => if c.last then d.copyEnd cid else d
    | .recirc =>
      match d.cpy cid with
      | none => d
      | some x =>
        let i := s * 4 + c.pipe
        let bytes := x.output
        let (g, d) := match x.recircTo with
          | some g => (g, d)
          | none =>
            let g := d.nextFid
            let d := { d with nextFid := g + 1, arrivals := d.arrivals + 1 }
            (g, (d.setCpy cid { x with recircTo := some g }).setFrame g {
              src := .recirc, lport := x.tag.lport, slice := s, pipe := c.pipe, place := .fabric, hasTag := true, tag := x.tag
              arrival := d.arrivals, sentLast := true })
        match d.frame g with
        | none => if c.last then d.copyGone cid else d
        | some f =>
          let whole := c.last
          let f := { f with bytes := bytes, whole := whole, bad := if f.bad = 0 then bad else f.bad }
          let offer := decide (f.place = .fabric) && f.sentLast && decide (f.hasTag = true) && (whole || decide (256 ≤ bytes.length))
          let f := if offer then { f with place := .offered, sentLast := false } else f
          let d := d.setFrame g f
          let d := if offer then d.setIsa i { d.isa i with recirc := (d.isa i).recirc ++ [g] } else d
          if c.last then
            let d := d.settle x.deferred x.rel.length
            if x.sentLast then d.copyGone cid else d.setCpy cid { x with ended := true, deferred := [] }
          else d
    | _ => d.busyTo cid

/-- The frame or copy to which the context of a released cell passes it (R361). -/
def CtxSays.taker (a : CtxSays) (c : Cell) : Option Nat :=
  match a with | .start _ => some c.owner | .pass o => some o | _ => none

/-- What the context of a cell says of it now. -/
def Dev.ctxSays (d : Dev) (outbound : Bool) (s p : Nat) (c : Cell) : CtxSays :=
  (ctxStep (SMap.get {} (d.rsq (streamOf outbound s p)).ctx c.ctx).st c).1

/-- The egress FIFO read or write of a cell that goes to the egress MAC (R39, R645). -/
def Dev.macFifo (d : Dev) (s p : Nat) (c : Cell) : Bool × Dev :=
  let unit := unitOf s 0 0 0 0 0
  let loc := fifoLoc (16 + c.ctx / 8 + 2 * p) (c.cidx * 4 % 8)
  (d.memWritten 0x14 unit loc).memCheck 0x14 unit loc

/-- A cell leaves its slot at NEXT: its context decides, and a cell that it passes belongs to its frame in progress (R361). -/
def Dev.releaseCell (d : Dev) (outbound : Bool) (s p : Nat) (c : Cell) : Dev :=
  let k := streamOf outbound s p
  let act := d.ctxSays outbound s p c
  let toMac := outbound && (match act.taker c with | some o => d.forwards o | none => false)
  let (inst, unit) := rsqFifo outbound s p
  let (ue, d) := d.memCheck 0x14 unit (fifoLoc inst (c.seq % 4096))
  let (u, d) := if toMac then d.macFifo s p c else (false, d)
  let ue := ue || u || c.poison
  let d := if ue && outbound then d.raiseBit R.MRS_EVENTS s 5 else d
  let q := d.rsq k
  let st := (ctxStep (SMap.get {} q.ctx c.ctx).st c).2
  let d := (d.setRsq k { q with
    next := (q.next + 1) % 65536, slots := SMap.set none q.slots (c.seq % 4096) none
    ctx := SMap.set {} q.ctx c.ctx { st := st, since := if st = .idle then 0 else d.now } }).creditBack k
  let pass := fun (d : Dev) (o : Nat) =>
    if outbound then d.copyTakes o c ue
    else { d with admitQ := d.admitQ ++ [AdmitCell.mk o c.first c.last (if c.bad ≠ 0 then c.bad else if ue then 5 else 0) true c.data] }
  let d := match act with
    | .start none => pass d c.owner
    | .start (some o) => pass (d.endLost outbound o) c.owner
    | .pass o => pass d o
    | .orphan => (d.rsqCount outbound s p 1).cellLost c
    | .discard => d
    | .endBad o => d.endLost outbound o
  ((if outbound then d.pumpOut s p else d).pumpIn s p).gapTimer k true

/-- The cell in the slot of NEXT, if it is ready. -/
def Dev.cellAtNext (d : Dev) (outbound : Bool) (s p : Nat) : Option Cell :=
  let q := d.rsq (streamOf outbound s p)
  match SMap.get none q.slots (q.next % 4096) with
  | some c => if c.ready then some c else none
  | none => none

/-- A ready cell of an egress pipeline waits because the egress MAC FIFO of its port is full (R590). -/
def Dev.macBlocked (d : Dev) (s p : Nat) : Bool :=
  match d.cellAtNext true s p with
  | none => false
  | some c => match (d.ctxSays true s p c).taker c with | some o => d.macFull o c.data.length | none => false

/-- The verdict of a FIRST cell's copy is to forward it: its head leaves by HEAD_RELEASE (R363). -/
def Dev.headWaits (d : Dev) (outbound : Bool) (c : Cell) : Bool :=
  outbound && c.first && d.forwards c.owner

/-- A started copy under a forced retire is discarded by the egress block that handles it (R86, R91). -/
def Dev.dropForcedCopy (d : Dev) (cid : Nat) : Dev :=
  match d.cpy cid with
  | none => d
  | some c => match d.egressForced c with
    | some ctr => (d.inc ctr 0 1).copyEnd cid
    | none => d

/-- RSQ_RELEASE (R359, R361): the ready cell at NEXT is released, but for a head that waits for R363 and for a cell that waits
for its egress MAC FIFO (R39). -/
def Dev.rsqRelease (d : Dev) (outbound : Bool) (s p : Nat) : Dev :=
  if !d.endsRun outbound s || (outbound && d.macBlocked s p) then d else
  match d.cellAtNext outbound s p with
  | none => d
  | some c =>
    let d := if outbound && c.first then d.dropForcedCopy c.owner else d
    if d.headWaits outbound c then d
    else (if outbound && c.first then d.deparseCopy c.owner else d).releaseCell outbound s p c

/-- HEAD_RELEASE (R363): the head at NEXT goes to the egress MAC when its last cell or LEAD cells after it are ready. -/
def Dev.headRelease (d : Dev) (s p : Nat) : Dev :=
  if !d.endsRun true s || d.macBlocked s p then d else
  match d.cellAtNext true s p with
  | none => d
  | some c =>
    let d := d.dropForcedCopy c.owner
    if !d.headWaits true c then d
    else match d.cpy c.owner with
      | none => d
      | some x =>
        let mine := (d.slotCells c.owner x).filter (fun y => y.ready)
        let lead := d.fldOf R.MRS_CTRL s 16 3
        if mine.any (·.last) || (List.range lead).all (fun i => mine.any (fun y => decide (y.cidx = i + 1))) then
          let d := (d.deparseCopy c.owner).releaseCell true s p c
          match d.cpy c.owner with
          | some x => d.setCpy c.owner { x with headOut := true }
          | none => d
        else d

/-- GAP_TIMEOUT (R360): the gap timer has reached its timeout; NEXT is declared lost. -/
def Dev.gapTimeout (d : Dev) (outbound : Bool) (s p : Nat) : Dev :=
  let k := streamOf outbound s p
  let q := d.rsq k
  match q.gapSince with
  | none => d
  | some t =>
    if d.now < t + d.rsqTimeout outbound s then d
    else ((d.setRsq k { q with next := (q.next + 1) % 65536 }).rsqCount outbound s p 0).gapTimer k true

/-- CONTEXT_TIMEOUT (R361): no cell of a context in a frame for TIMEOUT_NS ends the frame bad. -/
def Dev.ctxTimeout (d : Dev) (outbound : Bool) (s p ctx : Nat) : Dev :=
  let k := streamOf outbound s p
  let q := d.rsq k
  let x := SMap.get {} q.ctx ctx
  match x.st with
  | .inFrame _ o =>
    if d.now < x.since + d.rsqTimeout outbound s then d
    else (d.setRsq k { q with ctx := SMap.set {} q.ctx ctx { st := .discard, since := d.now } }).endLost outbound o
  | _ => d

/-! ## Read-only views (R398, R399) -/

def Dev.mrcStatus (d : Dev) : Nat :=
  (List.range 4).foldl (fun m k => if (List.range 8).any (fun s => d.linkOn false s k || d.linkOn true s k) then m + 2 ^ k else m) 0
def Dev.mrsStatus (d : Dev) (s : Nat) : Nat :=
  (List.range 4).foldl (fun m p => if (d.rsq (streamOf true s p)).gapSince.isSome then m + 2 ^ p else m) 0

/-! ## Deparsing and segments with the link edge behind them -/

/-- DEPARSE (R276): an ingress frame's head is deparsed and its cells begin to cross; a copy's head is deparsed. -/
def Dev.deparse (d : Dev) (egress : Bool) (id : Nat) : Dev :=
  if egress then ((d.dropForcedCopy id).deparseCopy id).busyTo id
  else
    let d := d.deparseIngress id
    match d.frame id with
    | some f => d.pumpIn f.slice f.pipe
    | none => d

/-- Streams of the started copies of a frame send what they can. -/
def Dev.pumpCopies (d : Dev) (fid : Nat) : Dev :=
  (d.copies.filterMap (fun e => match e.2 with
    | some c => if c.fid = fid ∧ c.place = .started then some c.queue else none
    | none => none)).foldl (fun d q => d.pumpOut (sliceOfQueue q) (pipeOfQueue q)) d

/-- CELL_ADMIT with the buffer read path and the link edge behind it. -/
def Dev.cellAdmitted (d : Dev) : Dev :=
  match d.admitQ with
  | [] => d
  | c :: _ =>
    let target := match d.frame c.owner with | some f => f.fwd | none => none
    let d := (d.cellAdmit).pumpCopies c.owner
    match target with
    | some g => match d.frame g with
      | some x => d.pumpIn x.slice x.pipe
      | none => d
    | none => d

/-- STAGE_PASS: a copy whose egress verdict is DISCARD ends there (R279). -/
def Dev.stagePassed (d : Dev) (egress : Bool) (id : Nat) : Dev :=
  let d := d.stagePass egress id
  if egress then
    match d.cpy id with
    | some c => if c.verdict = .discard then d.copyEnd id else d
    | none => d
  else d

/-- HOPPER_SEGMENT with the link edge behind it: a released frame's bytes go on as they arrive. -/
def Dev.hopperSegment (d : Dev) (lport : Nat) : Dev :=
  (d.hopSegment lport).pumpIn (sliceOf lport) (pipeOf lport % 4)

/-- DROP_REM (R151): a frame cut short goes on to its last cell. -/
def Dev.hopperDropRem (d : Dev) (q sub : Nat) : Dev :=
  (d.swDropRem q sub).pumpIn (q / 8) ((q % 8) / 2)

end Sys2Proof.Machine
end

