-- ==== Sys2Proof/Machine/Fill.lean ====
section
/-! DEFINITION. What the scheduler needs to know of fill engines: their prefetch level, PANIC, and heads that a frozen stack
holds (R413, R416, R418, R436). -/
namespace Sys2Proof.Machine

/-- The copy at the head of bin `b` of queue `q`. -/
def Dev.binHead (d : Dev) (q b : Nat) : Option (Nat × Copy) :=
  match d.binCopies q b with
  | [] => none
  | c :: _ => (d.cpy c).map (fun x => (c, x))

/-- Copies whose frames were spilled, of the queues of slice `s`, with their frames. -/
def Dev.fillCopies (d : Dev) (s : Nat) : List (Nat × Copy × Frame) :=
  d.copies.filterMap (fun e => match e.2 with
    | some c => if sliceOfQueue c.queue = s ∧ c.spill ≠ 0 then (d.frame c.fid).map (fun f => (e.1, c, f)) else none
    | none => none)

/-- Sum over a list. -/
def sumOf {α : Type} (f : α → Nat) (l : List α) : Nat := (l.map f).foldl (· + ·) 0

/-- Prefetch level (R416): cells that the fill engine has placed and the scheduler has not read out. -/
def Dev.prefetch (d : Dev) (s : Nat) : Nat := sumOf (fun (e : Nat × Copy × Frame) => e.2.2.cells.length - e.2.1.sent) (d.fillCopies s)

/-- Cells of the reads outstanding of a fill engine. -/
def Dev.readsOut (d : Dev) (s : Nat) : Nat :=
  sumOf (fun (e : Nat × Copy × Frame) => if e.2.1.spill = 3 then e.2.2.lines.length - e.2.1.filled else 0) (d.fillCopies s)

/-- The fill engine of slice `s` has a read outstanding at stack `k`. -/
def Dev.readsAt (d : Dev) (s k : Nat) : Bool :=
  (d.fillCopies s).any (fun e => decide (e.2.1.spill = 3) && decide (e.2.2.stack = some k))

/-- PANIC of a fill engine follows its level (R418). -/
def Dev.panicCheck (d : Dev) (s : Nat) : Dev :=
  let x := d.spf s
  let level := d.prefetch s
  let lo := d.fldOf R.FLE_PANIC s 0 16
  let hi := max (lo + 1) (d.fldOf R.FLE_PANIC s 16 16)
  let unread := (d.fillCopies s).any (fun e =>
    e.2.1.candAt.isSome && (decide (e.2.1.spill = 2) || decide (e.2.1.spill = 3)) && decide (e.2.1.filled < e.2.2.lines.length))
  if !x.panic && decide (level < lo) && unread then
    let d := (d.setSpf s { x with panic := true }).inc R.FLE_PANICS s 1
    forN 4 (fun k d => if d.readsAt s k then d.raiseBit R.HBM_EVENTS k 6 else d) d
  else if x.panic && (decide (hi ≤ level) || !unread) then d.setSpf s { x with panic := false }
  else d

/-- Parked copies of a frozen stack at the heads of a queue's bins are discarded (R436). -/
def Dev.dropFrozenN (d : Dev) (q : Nat) : Nat → Dev
  | 0 => d
  | n + 1 =>
    match (d.busyBins q).findSome? (fun b => match d.binHead q b with
        | some (cid, c) =>
          if c.spill = 2 then match d.frame c.fid with
            | some f => (match f.stack with | some k => if (d.stk k).st = .frozen then some cid else none | none => none)
            | none => none
          else none
        | none => none) with
    | none => d
    | some cid => ((d.inc R.FLE_FROZEN_DISCARDS (sliceOfQueue q) 1).copyDiscard cid).dropFrozenN q n

/-- No stack is frozen, or the heads that one holds go. -/
def Dev.dropFrozen (d : Dev) (q : Nat) : Dev :=
  if d.hbm.any (fun e => decide (e.2.st = .frozen)) then d.dropFrozenN q (d.copies.length + 1) else d

end Sys2Proof.Machine
end

