-- ==== Sys2Proof/Machine/Sched.lean ====
section
/-! DEFINITION. The scheduler, the sluice, received PFC, the ager (R396, R415, R444, R445, R460 to R465, R478 to R487). -/
namespace Sys2Proof.Machine

/-! ## Gate lists (R478 to R482) -/

/-- Gates at offset `o` of a cycle, and the offset at which they end; the last entry holds to the cycle's end. -/
def gateEntry (cycle : Nat) : List (Nat × Nat) → Nat → Nat → Nat × Nat
  | [], _, _ => (0x7FFF, cycle)
  | [(g, _)], _, _ => (g, cycle)
  | (g, i) :: rest, acc, o => if o < acc + i then (g, min (acc + i) cycle) else gateEntry cycle rest (acc + i) o

/-- Gates of a list at time `t` of the time unit, and when they end. -/
def GateList.seg (l : GateList) (t : Nat) : Nat × Nat :=
  let o := (((t : Int) - (l.base : Int)) % (max 1 l.cycle : Nat)).toNat
  let (g, e) := gateEntry (max 1 l.cycle) l.ents 0 o
  (g, t + (e - o))

/-- The last start of a cycle of the list before time `t`. -/
def GateList.lastStart (l : GateList) (t : Nat) : Nat := l.base + (t - 1 - l.base) / max 1 l.cycle * max 1 l.cycle

/-- The cycle that the change cuts is not begun, and the one before it is extended (R481). DESIGN CHOICE (log 32): a cycle
that has no predecessor, or that had begun when the change was configured, is begun. -/
def GateList.extends (l : GateList) (change configured : Nat) : Bool :=
  let b := l.lastStart change
  decide (l.base < b) && decide (configured < b) && decide (change - b < l.ext)

/-- Gates of logical port `n` at time `t` of the time unit, and when they may next change. -/
def Dev.gateSeg (d : Dev) (n t : Nat) : Nat × Nat :=
  let far := t + 2 ^ 20
  if !d.bitOf R.SLU_CTRL n 0 then (0x7FFF, far)
  else
    let x := d.tmp n
    let old := match x.oper with
      | none => (d.fldOf R.SLU_ADMIN_GATES n 0 15, far)
      | some l => l.seg t
    match x.pend with
    | none => old
    | some (l, change, conf) =>
      if change ≤ t then { l with base := change }.seg t
      else match x.oper with
        | none => (old.1, min old.2 change)
        | some o =>
          if o.extends change conf && decide (o.lastStart change ≤ t) then ((o.seg (o.lastStart change - 1)).1, change)
          else (old.1, min old.2 (if o.extends change conf then o.lastStart change else change))

/-- Time for which gate `c` stays open from `t` on, as far as `need` (R483). -/
def Dev.openFor (d : Dev) (n c need : Nat) : Nat → Nat → Nat → Nat
  | 0, _, acc => acc
  | k + 1, t, acc =>
    let (g, e) := d.gateSeg n t
    if fld g c 1 = 0 ∨ need ≤ acc then acc else d.openFor n c need k e (acc + (e - t))

/-- Entries of a cycle with the times for which they run in it. -/
def clipped (cycle : Nat) : List (Nat × Nat) → Nat → List (Nat × Nat)
  | [], _ => []
  | [(g, _)], acc => [(g, cycle - acc)]
  | (g, i) :: rest, acc => (g, min i (cycle - acc)) :: clipped cycle rest (acc + i)

/-- The longest contiguous open time of class `c` in a cycle; none where it is open throughout (R484). -/
def GateList.longest (l : GateList) (c : Nat) : Option Nat :=
  let xs := (clipped l.cycle l.ents 0).filter (fun e => decide (0 < e.2))
  if xs.all (fun e => decide (fld e.1 c 1 = 1)) then none
  else
    some ((xs ++ xs).foldl (fun (b : Nat × Nat) e =>
      let run := if fld e.1 c 1 = 1 then b.1 + e.2 else 0
      (run, max b.2 run)) (0, 0)).2

/-- Latch the gates in force (R482). -/
def Dev.gateLatch (d : Dev) (n : Nat) : Dev := d.setTmp n { d.tmp n with gates := (d.gateSeg n d.ns64).1 }

/-- The admin list of a port (R495). -/
def Dev.adminList (d : Dev) (n : Nat) : GateList :=
  { base := d.rd64 R.SLU_ADMIN_BASE n, cycle := d.rd R.SLU_ADMIN_CYCLE n, ext := d.rd R.SLU_ADMIN_EXT n
    ents := (List.range (min 64 (d.rd R.SLU_ADMIN_LEN n))).map (fun k =>
      (d.rd R.SLU_ADMIN_ENT_GATES (n * 64 + k), d.rd R.SLU_ADMIN_ENT_INTERVAL (n * 64 + k))) }

/-- CONFIG_CHANGE (R480). -/
def Dev.gateConfig (d : Dev) (n : Nat) : Dev :=
  d.onFabric (fun d =>
  let l := d.adminList n
  let len := d.rd R.SLU_ADMIN_LEN n
  if len = 0 ∨ 64 < len ∨ l.cycle = 0 ∨ l.ents.any (fun e => decide (e.2 = 0)) = true then
    (d.raiseBit R.SLU_EVENTS n 1).raiseBit R.TM_EVENTS 0 4
  else
    let now := d.ns64
    let past := decide (l.base < now + 1000)
    let change := if past then l.base + ceilDiv (now + 1000 - l.base) l.cycle * l.cycle else l.base
    let d := (d.setTmp n { d.tmp n with pend := some (l, change, now) }).wr64 R.SLU_CHANGE_TIME n change
    if past then d.raiseBit R.SLU_EVENTS n 3 else d)

/-- CANCEL (R480). -/
def Dev.gateCancel (d : Dev) (n : Nat) : Dev := d.onFabric (fun d => d.setTmp n { d.tmp n with pend := none })

/-- GATE_LIST_CHANGE (R481): at the change time the pending list becomes the oper list. -/
def Dev.gateChange (d : Dev) (n : Nat) : Dev :=
  d.onFabric (fun d =>
  let x := d.tmp n
  match x.pend with
  | none => d
  | some (l, change, _) =>
    if d.ns64 < change then d
    else
      (((d.setTmp n { x with oper := some { l with base := change }, pend := none }).gateLatch n).inc R.SLU_CHANGES n 1
        |>.raiseBit R.SLU_EVENTS n 0).raiseBit R.TM_EVENTS 0 3)

/-- GATE_ENTRY_BOUNDARY (R482): the gates follow the oper list. -/
def Dev.gateBoundary (d : Dev) (n : Nat) : Dev := d.onFabric (fun d => if (d.tmp n).oper.isSome then d.gateLatch n else d)

/-- Gates in force, as SLU_STATUS gives them. -/
def Dev.gatesNow (d : Dev) (n : Nat) : Nat :=
  if d.bitOf R.SLU_CTRL n 0 = true ∧ (d.tmp n).oper.isSome = true then (d.tmp n).gates else (d.gateSeg n d.ns64).1

/-- SLU_STATUS. -/
def Dev.sluStatus (d : Dev) (n : Nat) : Nat :=
  packFields [(0, 1, b2n (d.tmp n).oper.isSome), (1, 1, b2n (d.tmp n).pend.isSome), (16, 15, d.gatesNow n)]

/-! ## Pause (R485 to R487) -/

/-- TMP_PAUSED_NS of a priority, counted up to now. -/
def Dev.accruePause (d : Dev) (n p : Nat) : Dev :=
  let x := d.tmp n
  let upTo := min d.now (SMap.get 0 x.pauseEnd p)
  let from_ := max (SMap.get 0 x.pauseFrom p) (SMap.get 0 x.pauseMark p)
  (d.inc R.TMP_PAUSED_NS (n * 8 + p) (upTo - from_)).setTmp n { x with pauseMark := SMap.set 0 x.pauseMark p (max from_ upTo) }

/-- The pause timer of a priority runs. -/
def Dev.pauseRuns (d : Dev) (n p : Nat) : Bool := decide (d.now < SMap.get 0 (d.tmp n).pauseEnd p)

/-- Copies of priority `p` are held back: 200 ns after the PFC frame, while the timer runs (R487). -/
def Dev.paused (d : Dev) (n p : Nat) : Bool := d.pauseRuns n p && decide (SMap.get 0 (d.tmp n).pauseFrom p ≤ d.now)

/-- A received PFC frame, whose last byte left the receive MAC at time `t`, sets one pause timer. -/
def Dev.setPause (d : Dev) (n p quanta t : Nat) : Dev :=
  let running := d.pauseRuns n p
  let d := d.accruePause n p
  let x := d.tmp n
  if quanta = 0 then d.setTmp n { x with
    pauseEnd := SMap.set 0 x.pauseEnd p 0, pauseFrom := SMap.set 0 x.pauseFrom p 0, pauseMark := SMap.set 0 x.pauseMark p 0 }
  else d.setTmp n { x with
    pauseEnd := SMap.set 0 x.pauseEnd p (d.now + ceilDiv (quanta * 512) (d.macRate n))
    pauseFrom := if running then x.pauseFrom else SMap.set 0 x.pauseFrom p (t + 200)
    pauseMark := if running then x.pauseMark else SMap.set 0 x.pauseMark p 0 }

/-- PFC_FRAME_RX (R486): the oldest frame that R108 has handed over is consumed. -/
def Dev.pfcRxOne (d : Dev) : Dev :=
  d.onFabric (fun d =>
  match d.pfcRx with
  | [] => d
  | (n, bs, t) :: rest =>
    let d := { d with pfcRx := rest }
    if beAt bs 12 2 ≠ 0x8808 ∨ beAt bs 14 2 ≠ 0x0101 ∨ bs.length ≠ 64 then
      (d.inc R.TMP_PFC_RX_BAD n 1).raiseBit R.TMP_EVENTS n 2
    else
      let d := (d.inc R.TMP_PFC_RX_FRAMES n 1).raiseBit R.TMP_EVENTS n 1
      forN 8 (fun p d =>
        if fld (beAt bs 16 2) p 1 = 1 ∧ d.bitOf R.TMP_CTRL n (24 + p) = true then d.setPause n p (beAt bs (18 + 2 * p) 2) t else d) d)

/-- PAUSE_TIMER_EXPIRE (R487). -/
def Dev.pauseExpire (d : Dev) (n p : Nat) : Dev :=
  d.onFabric (fun d =>
  let x := d.tmp n
  if SMap.get 0 x.pauseEnd p = 0 ∨ d.pauseRuns n p = true then d
  else
    let d := d.accruePause n p
    let x := d.tmp n
    d.setTmp n { x with
      pauseEnd := SMap.set 0 x.pauseEnd p 0, pauseFrom := SMap.set 0 x.pauseFrom p 0, pauseMark := SMap.set 0 x.pauseMark p 0 })

/-! ## Eligibility (R460 to R462, R382, R483) -/

/-- A copy's frame is whole in the buffer, or the copy may cut through (R382). -/
def Dev.mayStart (d : Dev) (c : Copy) : Bool :=
  match d.frame c.fid with
  | none => false
  | some f =>
    if c.spill = 4 then true
    else if c.spill ≠ 0 then false
    else f.bufWhole || (d.bitOf R.BPM_CT_CTRL 0 0 && c.tag.ct && !c.tag.hostInj && !c.tag.aeRet && decide (c.tag.pass = 0)
      && decide (d.macRate (c.queue / 16) ≤ d.macRate c.tag.lport))

/-- L of a copy where its last cell has been admitted (R445). -/
def Dev.knownLen (d : Dev) (c : Copy) : Option Nat :=
  match d.frame c.fid with
  | some f => if f.bufWhole then some f.blen else none
  | none => none

/-- What R483 says of a head copy. -/
inductive GuardSays where
  | pass | closed | held
  deriving DecidableEq, Repr

/-- The guard band (R483). -/
def Dev.guardBand (d : Dev) (c : Copy) : GuardSays :=
  let n := c.queue / 16
  let cls := c.queue % 16
  if cls = 15 ∨ d.bitOf R.SLU_CTRL n 0 = false then .pass
  else
    let s := max (d.now + d.fldOf R.SLU_LEAD n 0 16) (d.busyEnd n)
    let t := d.ns64 + (s - d.now)
    let len := match d.knownLen c with | some l => l | none => d.fldOf R.LP_CTRL c.tag.lport 16 14 + 128
    let r := d.macRate n
    let bits := (len + 20) * 8
    if fld (d.gateSeg n t).1 cls 1 = 0 then .closed
    else if bits ≤ d.openFor n cls (ceilDiv bits r) 1100 t 0 * r then .pass else .held

/-- A copy is oversize for its gate (R484). A head that is away makes its bin as good as empty (R413). -/
def Dev.oversize (d : Dev) (c : Copy) : Bool :=
  let n := c.queue / 16
  match d.knownLen c, (d.tmp n).oper with
  | some l, some g =>
    d.bitOf R.SLU_CTRL n 0 && decide (c.queue % 16 ≠ 15) && !c.away
      && (match g.longest (c.queue % 16) with | none => false | some t => decide (t * d.macRate n < (l + 20) * 8))
  | _, _ => false

/-- The port is not UP and flushes (R461). -/
def Dev.flushing (d : Dev) (n : Nat) : Bool := decide ((d.lp n).st ≠ .up) && d.bitOf R.LP_CTRL n 1

/-- A bin of a queue is eligible, but for the guard band. -/
def Dev.binReady (d : Dev) (c : Copy) : Bool :=
  d.mayStart c && (d.flushing (c.queue / 16) || (d.queueShaper c.queue).allows)

/-- The queue is paused (R487). -/
def Dev.queuePaused (d : Dev) (q : Nat) : Bool :=
  let r := d.qrecView q
  decide (q % 16 ≠ 15) && r.pfc && d.paused (q / 16) r.prio

/-- Eligible bins of a queue (R460). -/
def Dev.eligBins (d : Dev) (q : Nat) : List Nat :=
  let flush := d.flushing (q / 16)
  if d.queuePaused q && !flush then []
  else (d.busyBins q).filter (fun b => match d.binHead q b with
    | none => false
    | some (_, c) => d.binReady c && (flush || decide (d.guardBand c = .pass)))

/-- Cells dequeued for a port and not yet sent by its egress MAC (R461): a copy that does not go to the MAC counts the cells
that have not yet been released. -/
def Dev.cellsOut (d : Dev) (n : Nat) : Nat :=
  (d.copies.map (fun e => match e.2 with
    | some c =>
      if c.queue / 16 ≠ n ∨ c.place = .queued then 0
      else if c.ended then 0
      else match c.verdict with
        | .discard => c.sent - ceilDiv c.rel.length 256
        | .recirc => c.sent - ceilDiv c.rel.length 256
        | _ => c.sent
    | none => 0)).foldl (· + ·) 0

/-- The port has a copy that it still sends. -/
def Dev.portSending (d : Dev) (n : Nat) : Bool :=
  d.copies.any (fun e => match e.2 with
    | some c => decide (c.queue / 16 = n) && decide (c.place = .started) && !c.sentLast
    | none => false)

/-- CREDIT of a port (R462). -/
def Dev.credit (d : Dev) (n : Nat) : Nat :=
  let c := d.fldOf R.TMP_CTRL n 0 16
  if c = 0 then 8 * d.lpLanes n else c

/-- The port could start a copy, whatever waits in its queues: its state, its copy in progress, its credit. -/
def Dev.portOpen (d : Dev) (n : Nat) : Bool :=
  (decide ((d.lp n).st = .up) || d.flushing n) && !d.portSending n && decide (d.cellsOut n < d.credit n)

/-- Eligible classes of a port. While its shaper does not allow a start, only class 15 stays (R461, R491; DEDUCED, log 33). -/
def Dev.eligClasses (d : Dev) (n : Nat) : List Nat :=
  if !d.portOpen n then []
  else
    let cs := (List.range 16).filter (fun k => decide (d.eligBins (n * 16 + k) ≠ []))
    if d.flushing n || (d.portShaper n).allows then cs else cs.filter (· = 15)

/-! ## Order of service (R463, R464) -/

/-- Least k of at least 1 with `c + k * q > 0`. -/
def rounds (c : Int) (q : Nat) : Nat := if 0 < c + q then 1 else ((-c) / (max 1 q : Nat)).toNat + 1

/-- Deficit round robin picks a member among `elig` (rising): the members in turn order, each with the rounds that it needs;
the one that needs fewest comes first, and those passed on the way gain their quanta. -/
def Drr.pick (x : Drr) (elig : List Nat) (q : Nat → Nat) : Option (Nat × Drr) :=
  let c := fun (m : Nat) => SMap.get 0 x.deficit m
  if x.turn && elig.contains x.ptr && decide (0 < c x.ptr) then some (x.ptr, x)
  else
    let start := if x.turn then x.ptr + 1 else x.ptr
    let order := elig.filter (fun m => decide (start ≤ m)) ++ elig.filter (fun m => decide (m < start))
    let best := order.zipIdx.foldl (fun (b : Option (Nat × Nat × Nat)) e =>
      let k := rounds (c e.1) (q e.1)
      match b with
      | none => some (k, e.2, e.1)
      | some (k', _, _) => if k < k' then some (k, e.2, e.1) else b) none
    match best with
    | none => none
    | some (k, pos, m) =>
      let deficit := order.zipIdx.foldl (fun ds e =>
        SMap.set 0 ds e.1 (c e.1 + ((if e.2 ≤ pos then k else k - 1) * q e.1 : Nat))) x.deficit
      some (m, { ptr := m, turn := true, deficit := deficit })

/-- A class of a port has been paused, or its gate has been closed, at some time since `t` (R460, R487). -/
def Dev.heldSince (d : Dev) (n cls t : Nat) : Bool :=
  let r := d.qrecView (n * 16 + cls)
  let x := d.tmp n
  let dt := d.now - t
  decide (cls ≠ 15) && !d.flushing n
    && ((r.pfc && decide (max (SMap.get 0 x.pauseFrom r.prio) t < min d.now (SMap.get 0 x.pauseEnd r.prio)))
      || (d.bitOf R.SLU_CTRL n 0 && decide (d.openFor n cls dt 1100 (d.ns64 - dt) 0 < dt)))

/-- Turns of a port whose members have been held back since their last starts have ended, though they are eligible again (R464).
DEDUCED (log 171): the guard band is looked at when a scheduler looks at the head, and not between. -/
def Dev.turnsLost (d : Dev) (n : Nat) : Dev :=
  forN 16 (fun k d =>
    let q := n * 16 + k
    let x : Drr := SMap.get {} d.tm.bins q
    let g : Drr := SMap.get {} d.tm.groups n
    if (x.turn && d.heldSince n k x.since) || (g.turn && decide (g.ptr = k) && d.heldSince n k g.since) then d.turnsEnd q else d) d

/-- The queue records of an open port that holds copies are read: an error is corrected or reported (R452). -/
def Dev.planReads (d : Dev) (n : Nat) : Dev :=
  forN 16 (fun k d => if d.busyBins (n * 16 + k) = [] then d else (d.qrec (n * 16 + k)).2) d

/-- A start takes its charge from a member. -/
def Drr.charge (x : Drr) (m n : Nat) : Drr := { x with deficit := SMap.modify 0 x.deficit m (· - (n : Int)) }

/-- The class that a port serves (R463) and whether it was chosen in the weighted group. -/
def Dev.pickClass (d : Dev) (n : Nat) (cs : List Nat) : Option (Nat × Bool × Drr) :=
  let g : Drr := SMap.get {} d.tm.groups n
  if cs.contains 15 then some (15, false, g)
  else match (cs.filter (fun k => !(d.qrecView (n * 16 + k)).grouped)).getLast? with
    | some k => some (k, false, g)
    | none => (g.pick cs (fun k => (d.qrecView (n * 16 + k)).quantum)).map (fun e => (e.1, true, e.2))

/-- A copy starts (R383, R445, R463): its charges, counters and marks. -/
def Dev.startCopy (d : Dev) (cid : Nat) (c : Copy) (grouped : Bool) : Dev :=
  let q := c.queue
  let n := q / 16
  let free := d.flushing n
  let known := d.knownLen c
  let l := if free then 0 else known.getD 256
  let d := if free then d else
    { d with tm := { d.tm with
        queueShapers := SMap.modify {} d.tm.queueShapers q (fun x => x.charge l)
        portShapers := SMap.modify {} d.tm.portShapers n (fun x => x.charge l)
        bins := SMap.modify {} d.tm.bins q (fun x => x.charge c.bin l)
        groups := if grouped then SMap.modify {} d.tm.groups n (fun x => x.charge (q % 16) l) else d.tm.groups } }
  let d := ((((d.inc R.TMP_DEQ_FRAMES n 1).inc R.TMQ_DEQ_FRAMES q 1).inc R.TMP_DEQ_BYTES n l).inc R.TMQ_DEQ_BYTES q l).pmcFab 0x122 (pipeOf n) 1
  let d := if known = none then (d.inc R.BPM_CT_STARTS 0 1).pmcFabAny 0x121 1 else d
  let d := if q % 16 = 15 then d.inc R.TM_CMD_CLASS_STARTS 0 1 else d
  (d.setCpy cid { c with place := .started, owes := decide (known = none) && !free, candAt := none, ovsSince := none }).leftBin q c.bin

/-- Heads of a port whose gate is open but whose guard band holds them (R483). -/
def Dev.heldHeads (d : Dev) (n : Nat) : Nat :=
  ((List.range 15).map (fun k =>
    ((d.busyBins (n * 16 + k)).filter (fun b => match d.binHead (n * 16 + k) b with
      | some (_, c) => d.binReady c && !d.flushing n && decide (d.guardBand c = .held)
      | none => false)).length)).foldl (· + ·) 0

/-- Head copies of a port that are oversize take the time at which they were first found so (R484). -/
def Dev.markOversize (d : Dev) (q : Nat) : Dev :=
  (d.busyBins q).foldl (fun d b => match d.binHead q b with
    | none => d
    | some (cid, c) =>
      let o := d.oversize c
      if o && decide (c.ovsSince = none) then d.setCpy cid { c with ovsSince := some d.ns64 }
      else if !o && decide (c.ovsSince ≠ none) then d.setCpy cid { c with ovsSince := none }
      else d) d

/-- Head copies of a queue under a forced retire are discarded by the scheduler, the next block that handles them (R86, R91). -/
def Dev.dropForced (d : Dev) (q : Nat) : Nat → Dev
  | 0 => d
  | k + 1 =>
    match (d.busyBins q).findSome? (fun b => match d.binHead q b with
        | some (cid, c) => if c.spill = 0 ∨ c.spill = 4 then (d.forced c.tag).map (fun r => (cid, r)) else none
        | none => none) with
    | none => d
    | some (cid, r) => ((d.inc r 0 1).copyDiscard cid).dropForced q k

/-- What a scheduler does to the heads of its open ports before it chooses: forced and frozen ones go, oversize ones are timed,
held ones are counted (R86, R436, R483, R484). -/
def Dev.schedPrep (d : Dev) (s p : Nat) : Dev :=
  let ports := (List.range 16).map (· + (s * 64 + p * 16))
  let d := ports.foldl (fun d n =>
    if d.portOpen n then forN 16 (fun k d => ((d.dropForced (n * 16 + k) 64).dropFrozen (n * 16 + k)).markOversize (n * 16 + k)) d else d) d
  ports.foldl (fun d n => if d.portOpen n then d.inc R.SLU_GUARD_HOLDS n (d.heldHeads n) else d) d

/-- The port that an egress pipeline serves: the first with an eligible class after the one that it served last (R463). -/
def Dev.schedPort (d : Dev) (s p : Nat) : Option Nat :=
  let ports := (List.range 16).map (· + (s * 64 + p * 16))
  let last := SMap.get 0 d.tm.served (s * 4 + p)
  let order := if last = 0 then ports else ports.filter (fun n => decide (last ≤ n)) ++ ports.filter (fun n => decide (n < last))
  order.find? (fun n => decide (d.eligClasses n ≠ []))

/-- The input FIFO of the recirculation source that egress pipeline `p` feeds is full (R31, R33). -/
def Dev.recircFull (d : Dev) (s p : Nat) : Bool := decide (Config.recircFifo < (d.isa (s * 4 + p)).recirc.length)

/-- COPY_START (R463): the scheduler of an egress pipeline starts one copy. A slice that is not RUN has no eligible copy
(R539). While the recirculation that the pipeline feeds is full nothing is granted (R33; DESIGN CHOICE, log 146: which copies
will recirculate is not known before their egress verdict). -/
def Dev.copyStart (d : Dev) (s p : Nat) : Dev :=
  d.onFabric (fun d =>
  if (d.slc s).st ≠ .run ∨ d.recircFull s p = true then d
  else
    let d := d.schedPrep s p
    let d := (List.range 16).foldl (fun d i => let n := s * 64 + p * 16 + i
      if d.portOpen n then (d.planReads n).turnsLost n else d) d
    match d.schedPort s p with
    | none => d
    | some n =>
      match d.pickClass n (d.eligClasses n) with
      | none => d
      | some (k, grouped, g) =>
        let q := n * 16 + k
        let d := if grouped then { d with tm := { d.tm with groups := SMap.set {} d.tm.groups n { g with since := d.now } } } else d
        match (SMap.get {} d.tm.bins q).pick (d.eligBins q) (d.binQuantum q) with
        | none => d
        | some (b, x) =>
          let d := { d with tm := { d.tm with bins := SMap.set {} d.tm.bins q { x with since := d.now }, served := SMap.set 0 d.tm.served (s * 4 + p) (n + 1) } }
          let d := d.binRead q b
          match d.binHead q b with
          | none => d
          | some (cid, c) => (((d.startCopy cid c grouped).pumpOut s p).dropFrozen q).panicCheck s)

/-! ## Oversize copies and the ager -/

/-- Complete cycles of a list between two times. -/
def GateList.cyclesIn (l : GateList) (t0 t1 : Nat) : Nat :=
  let c := max 1 l.cycle
  (t1 - l.base) / c - ceilDiv (t0 - l.base) c

/-- OVERSIZE_DISCARD (R484): an oversize head copy whose cycles have passed is discarded. -/
def Dev.oversizeDiscard (d : Dev) (q b : Nat) : Dev :=
  d.onFabric (fun d =>
  let d := d.markOversize q
  let n := q / 16
  match d.binHead q b, (d.tmp n).oper with
  | some (cid, c), some l =>
    match c.ovsSince with
    | none => d
    | some t =>
      let k := d.fldOf R.SLU_CTRL n 8 8
      if k = 0 ∨ k ≤ l.cyclesIn t d.ns64 then
        (((d.copyDiscard cid).inc R.TMQ_OVERSIZE q 1).raiseBit R.SLU_EVENTS n 2).raiseBit R.TM_EVENTS 0 2
      else d
  | _, _ => d)

/-- Age of a timestamp in quarters of a nanosecond, modulo 65,536 s (R396). -/
def Dev.ageOf (d : Dev) (ts : Nat) : Nat :=
  let now := (d.time.secs % 65536) * 4000000000 + d.time.ns * 4 + d.time.frac16 / 16384
  let then_ := (ts / 2 ^ 32) * 4000000000 + ts % 2 ^ 32
  (now + 65536 * 4000000000 - then_) % (65536 * 4000000000)

/-- The ager leaves a head copy in place: it is SPILLING or FILLING, or neither forced nor older than its pool allows (R396, R415). -/
def Dev.ageStays (d : Dev) (c : Copy) : Bool :=
  let pool := match d.frame c.fid with | some f => f.pool | none => 0
  let limit := d.fldOf R.BPM_POOL_AGE pool 0 16
  decide (c.spill = 1 ∨ c.spill = 3) || ((d.forced c.tag).isNone && decide (limit = 0 ∨ d.ageOf c.tag.ts ≤ limit * 40000))

/-- The ager discards copy `cid` (R396). -/
def Dev.ageOut (d : Dev) (cid : Nat) (c : Copy) : Dev :=
  match d.forced c.tag with
  | some r => (d.inc r 0 1).copyDiscard cid
  | none =>
    let pool := match d.frame c.fid with | some f => f.pool | none => 0
    let d := (d.inc R.BPM_P_AGED pool 1).raiseBit R.BPM_EVENTS 0 4
    (if c.mcast then d.inc R.BPM_MC_COPY_AGED 0 1 else d).copyDiscard cid

/-- Head copies of one bin go while `n` discards are left: what is left of these, and the device. -/
def Dev.ageBin (d : Dev) (q b : Nat) : Nat → Nat × Dev
  | 0 => (0, d)
  | n + 1 =>
    match d.binHead q b with
    | none => (n + 1, d)
    | some (cid, c) => if d.ageStays c then (n + 1, d) else (d.ageOut cid c).ageBin q b n

/-- The bins of a queue are examined in order, with at most 16 discards in all (R396, R397, R415, R453). -/
def Dev.ageHeads (d : Dev) (q : Nat) : Dev := ((d.busyBins q).foldl (fun r b => r.2.ageBin q b r.1) (16, d)).2

/-- AGER_VISIT (R396). -/
def Dev.agerVisit (d : Dev) (q : Nat) : Dev := d.onFabric (fun d => if d.bitOf R.BPM_AGE_CTRL 0 0 then (d.ageHeads q).dropFrozen q else d)

/-! ## Status views (R492 to R494) -/

def Dev.tmStatus (d : Dev) : Nat :=
  match d.tm.plan with
  | none => 0
  | some e => packFields [(0, 1, 1), (4, 4, e)]

def Dev.tmpStatus (d : Dev) (n : Nat) : Nat :=
  let paused := (List.range 8).foldl (fun m p => if d.pauseRuns n p then m + 2 ^ p else m) 0
  packFields [(0, 8, paused), (8, 8, (d.tmp n).xoff), (16, 1, b2n (decide (d.eligClasses n ≠ [])))]

def Dev.tmqStatus (d : Dev) (q : Nat) : Nat :=
  let n := q / 16
  packFields [(0, 1, b2n (decide (d.eligBins q ≠ []))), (1, 1, b2n (d.queuePaused q))
    , (2, 1, b2n (decide (q % 16 ≠ 15) && decide (fld (d.gatesNow n) (q % 16) 1 = 0)))
    , (3, 1, b2n (decide ((d.queueShaper q).t < 0)))
    , (4, 1, b2n ((d.busyBins q).any (fun b => match d.binHead q b with | some (_, c) => d.oversize c | none => false)))]

end Sys2Proof.Machine
end

