-- ==== Sys2Proof/Machine/Transmit.lean ====
section
/-! DEFINITION. The egress MAC (R119, R120, R137 to R142, R277, R280, R387 to R389, R607). -/
namespace Sys2Proof.Machine

/-- A time as a count of 2^-16 ns. -/
def time16 (secs ns frac16 : Nat) : Nat := (secs * 10 ^ 9 + ns) * 65536 + frac16

/-- Residence time (R141): transmit timestamp less arrival timestamp, in units of 2^-16 ns, modulo 65,536 s. -/
def residence (tx : Nat × Nat × Nat) (ts : Nat) : Nat :=
  let wrap := 65536 * 10 ^ 9 * 65536
  let a := time16 (ts / 2 ^ 32) (ts / 4 % 2 ^ 30) (ts % 4 * 16384)
  (time16 (tx.1 % 65536) tx.2.1 tx.2.2 + wrap - a % wrap) % wrap

/-- Fold a sum of 16-bit words. -/
def fold16 (n : Nat) : Nat := let n := n % 65536 + n / 65536
  n % 65536 + n / 65536

/-- Ones' complement sum of the 8 bytes at `o` as words aligned with a field at `c`. -/
def alignedSum (bs : List Byte) (o c : Nat) : Nat :=
  let x := slice bs o 8
  if (o + c) % 2 = 1 then onesSum ([0] ++ x ++ [0]) else onesSum x

/-- A one-step update (R141): the correction field at `o` gains the residence time; the compensation field follows. -/
def oneStep (bs : List Byte) (o : Nat) (comp : Option Nat) (res : Nat) : List Byte :=
  let new := spliceAt bs o (beBytes 8 ((beAt bs o 8 + res) % 2 ^ 64))
  match comp with
  | none => new
  | some c =>
    let v := fold16 (fold16 (beAt bs c 2 + alignedSum bs o c) + (65535 - alignedSum new o c))
    spliceAt new c (beBytes 2 v)

/-- Transmit timestamp of a frame that leaves now: seconds, nanoseconds, fraction (R137). -/
def Dev.txStamp (d : Dev) (lport : Nat) : Nat × Nat × Nat :=
  adjustTime d.time.secs d.time.ns d.time.frac16 (d.rd R.LP_TS_TX_ADJ lport)

/-- A two-step capture (R139). DESIGN CHOICE (log 153): one that a full FIFO discards is posted to the ring all the same. -/
def Dev.tsCapture (d : Dev) (lport id : Nat) (t : Nat × Nat × Nat) : Dev :=
  let x := d.lp lport
  let d := if 64 ≤ x.tsFifo.length then (d.inc R.LP_TS_LOST lport 1).raiseBit R.LP_EVENTS lport 5
    else d.setLp lport { x with tsFifo := x.tsFifo ++ [TsEntry.mk id t.1 t.2.1 t.2.2] }
  if d.bitOf R.LP_TS_CTRL lport 0 then
    let pay := leBytes 2 id ++ leBytes 2 lport ++ leBytes 4 t.2.1 ++ leBytes 6 t.1 ++ leBytes 2 t.2.2
    forN 4 (fun h d => if d.bitOf R.RING_CTRL (2 * 4 + h) 8 then d.post h 2 3 0 pay else d) d
  else d

/-- A stomped copy is counted (R389). -/
def Dev.stompCount (d : Dev) (lport reason : Nat) : Dev :=
  (d.inc R.LP_TX_STOMPED lport 1).inc R.MRS_STOMP (sliceOf lport * 10 + max 1 (min 10 reason)) 1

/-- The stomp (R387): the ones' complement of the CRC-32 of the bytes sent, in place of the FCS. -/
def stompBytes (bs : List Byte) : List Byte := leBytes 4 (2 ^ 32 - 1 - crc32 bs)

/-- Data of a frame, its FCS excluded, padded to 60 bytes (R277). -/
def padded (bs : List Byte) : List Byte := bs ++ List.replicate (60 - bs.length) 0

/-- One-step and two-step requests of a copy act on its data; a request past the end is ignored and counts (R280). -/
def Dev.stampData (d : Dev) (lport : Nat) (c : Copy) (data : List Byte) : List Byte × Dev :=
  let t := d.txStamp lport
  match c.ps.ts1 with
  | some (o, comp) =>
    let ok := decide (o + 8 ≤ data.length) && (match comp with | some k => decide (k + 2 ≤ data.length) | none => true)
    if ok then (oneStep data o comp (residence t c.tag.ts), d)
    else (data, d.deparseErr true (sliceOfQueue c.queue) (pipeOfQueue c.queue))
  | none =>
    match c.ps.tscap with
    | some id => (data, d.tsCapture lport id t)
    | none => (data, d)

/-- FRAME_TRANSMIT (R387, R388): the egress MAC sends a copy whose head it has. A copy not wholly released underruns. A port
that is not UP sends nothing and counts the copy (R120, R607; DESIGN CHOICE, log 35, where neither rule says). -/
def Dev.frameTransmit (d : Dev) (cid : Nat) : Dev :=
  match d.cpy cid with
  | none => d
  | some c =>
    let n := c.queue / 16
    let x := d.lp n
    if c.headOut = false ∨ c.ended = true ∨ x.txQuiet = true ∨ d.earlierHead cid c = true then d
    else if (d.egressForced c).isSome = true then d.dropForcedCopy cid
    else if x.st ≠ .up then (d.inc R.LP_TX_DOWN_DROPS n 1).copyEnd cid
    else
      let out := c.output
      if c.relWhole then
        let (data, d) := d.stampData n c (padded (out.take (out.length - 4)))
        if c.tag.stomp || decide (c.bad ≠ 0) then
          (((d.emit n (data ++ stompBytes data) true).stompCount n c.bad).copyEnd cid)
        else
          let bs := data ++ fcsBytes data
          (((d.emit n bs false).inc R.LP_TX_FRAMES n 1).inc R.LP_TX_BYTES n bs.length).copyEnd cid
      else
        let (data, d) := d.stampData n c out
        let d := d.emit n (data ++ stompBytes data) true
        (((d.inc R.MRS_UNDERRUN (pipeOf n) 1).raiseBit R.MRS_EVENTS (sliceOf n) 4).stompCount n (if c.bad ≠ 0 then c.bad else 8)).copyEnd cid

end Sys2Proof.Machine
end

