-- ==== Sys2Proof/Machine/Hbm.lean ====
section
/-! DEFINITION. HBM controllers, spill writes, fill engines, freeze and thaw, diagnosis (chapter 10). -/
namespace Sys2Proof.Machine

/-- UNIT of errors of a stack (R602). -/
def stackUnit (k : Nat) : Nat := unitOf 0 0 0 0 0 k

/-- A request reaches a controller; one that sleeps is asked to wake (R439). -/
def Dev.stackAsk (d : Dev) (k : Nat) : Dev :=
  let x := d.stk k
  d.setStk k { x with lastReq := d.now, wakeReq := x.wakeReq || decide (x.st = .sleep) }

/-- Copies whose frames are held by stack `k`. -/
def Dev.stackCopies (d : Dev) (k : Nat) : List (Nat × Copy × Frame) :=
  d.copies.filterMap (fun e => match e.2 with
    | some c => match d.frame c.fid with
      | some f => if f.stack = some k ∧ (c.spill = 1 ∨ c.spill = 2 ∨ c.spill = 3) then some (e.1, c, f) else none
      | none => none
    | none => none)

/-! ## Page retirement (R431 to R433) -/

/-- A page is retired: at once where it is FREE, else once its last line is released. -/
def Dev.retirePage (d : Dev) (k p : Nat) : Dev :=
  let x := d.page k p
  match x.st with
  | .free => (d.setPage k p { st := .retired, high := x.high }).raiseBit R.HBM_EVENTS k 5
  | .retired => d
  | .closed | .open_ => (d.setPage k p { x with retiring := true }).pageCheckEnd k p

/-- Retirements that lasting faults have asked for (R432). -/
def Dev.retireAsked (d : Dev) : Dev :=
  d.errs.pageReq.foldl (fun d e => d.retirePage e.1 e.2) { d with errs := { d.errs with pageReq := [] } }

/-- PAGE_RETIRE (R432): HBM_RETIRE_CMD with GO. -/
def Dev.pageRetire (d : Dev) (k p : Nat) : Dev := d.retirePage k p

/-! ## Freeze (R434 to R436) -/

/-- A frame that spills goes from its staging to another stack, or is discarded (R436). DESIGN CHOICE (log 165): cells whose writes
were complete are reissued with it, though R412 keeps a cell only until then. -/
def Dev.respill (d : Dev) (cid : Nat) (f : Frame) (fid : Nat) : Dev :=
  let data := f.stageData
  let d := d.releaseLines fid 0
  match d.pickStack f.slice with
  | none => (d.inc R.SPE_NO_STACK f.slice 1).copyDiscard cid
  | some k =>
    let d := (d.inc R.SPE_RESPILLS f.slice 1).setSpf f.slice { d.spf f.slice with lastStack := k }
    data.foldl (fun d bs =>
      match d.frame fid with
      | none => d
      | some g =>
        match d.nextLine g.slice k g.lines.getLast? with
        | (none, d) => d
        | (some a, d) =>
          let n := (d.spf g.slice).cells
          let d := d.setSpf g.slice { d.spf g.slice with cells := n + 1 }
          ((d.wr R.HBM_POOL_PARKED g.pool (d.rd R.HBM_POOL_PARKED g.pool + 1)).setFrame fid { g with
            lines := g.lines ++ [a], staged := g.staged + 1, stageData := g.stageData ++ [bs], stageSeq := g.stageSeq ++ [n]
            stack := some k }).pfcUp g.pfc) d

/-- Fill reads are abandoned: the copy is PARKED again, its cells on the die are freed. DESIGN CHOICE (log 36): the lines that
its reads had released are held again. -/
def Dev.abandonFill (d : Dev) (cid : Nat) (c : Copy) (f : Frame) (k : Nat) : Dev :=
  let back := f.lines.take c.filled
  let d := d.askFrees f.cells
  let d := back.foldl (fun d a =>
    let x := d.page k (a / 64)
    let d := d.setPage k (a / 64) (if x.st = .free then { st := .closed, live := 1, high := x.high, given := 64 } else { x with live := x.live + 1 })
    (d.wr R.HBM_POOL_PARKED f.pool (d.rd R.HBM_POOL_PARKED f.pool + 1)).pfcUp f.pfc) d
  (d.modFrame c.fid (fun f => { f with cells := [] })).setCpy cid { c with spill := 2, filled := 0, candAt := none }

/-- Queues that hold copies of a stack. -/
def Dev.stackQueues (d : Dev) (k : Nat) : List Nat := ((d.stackCopies k).map (fun e => e.2.1.queue)).eraseDups

/-- A controller freezes (R434, R436): the errors that its replays followed are over (R428), and the scrubber stops (a write-back
that waits is given up: DEDUCED, log 166). -/
def Dev.freeze (d : Dev) (k cause line : Nat) : Dev :=
  let x := d.stk k
  if x.st = .frozen then d.inc R.HBM_FREEZES k 1
  else if x.st ≠ .run ∧ x.st ≠ .sleep then d
  else
    let d := d.setStk k { x with st := .frozen, since := d.now, wakeReq := false, sleepReq := false, fails := 0, repair := none }
    let d := ((((d.wr R.HBM_FRZ_INFO k (packFields [(31, 1, 1), (27, 4, cause), (0, 26, line)])).wr R.HBM_FRZ_TIME k (d.time.secs % 2 ^ 32)).inc
      R.HBM_FREEZES k 1).raiseBit R.HBM_EVENTS k 0)
    let d := (d.stackCopies k).foldl (fun d e =>
      match e.2.1.spill with
      | 1 => d.respill e.1 e.2.2 e.2.1.fid
      | 3 => d.abandonFill e.1 e.2.1 e.2.2 k
      | _ => d.setCpy e.1 { e.2.1 with candAt := none }) d
    let d := (d.stackQueues k).foldl (fun d q => d.dropFrozen q) d
    forN 8 (fun s d => d.panicCheck s) d

/-- Copies of a stack are discarded and counted in FLE_FROZEN_DISCARDS of their egress slices. -/
def Dev.dropCopies (d : Dev) (cs : List (Nat × Copy × Frame)) : Dev :=
  cs.foldl (fun d e => (d.inc R.FLE_FROZEN_DISCARDS (sliceOfQueue e.2.1.queue) 1).copyDiscard e.1) d

/-- An uncorrectable page table entry (R431), which the retirement writes anew. -/
def Dev.pageTableLost (d : Dev) (k p : Nat) : Dev :=
  let d := ((d.memWritten 0x04 (stackUnit k) p).inc R.HBM_UNCORR k 1).raiseBit R.HBM_EVENTS k 4
  let d := d.dropCopies ((d.stackCopies k).filter (fun e => e.2.2.lines.any (fun a => decide (a / 64 = p))))
  (d.retirePage k p).freeze k 5 0

/-- What the page table entries that a row has found uncorrectable bring, the oldest first. -/
def Dev.tableLossesN (d : Dev) : Nat → Dev
  | 0 => d
  | n + 1 => match d.errs.tableLost with
    | [] => d
    | (k, p) :: rest => ({ d with errs := { d.errs with tableLost := rest } }.pageTableLost k p).tableLossesN n

/-- The same until none is left: a freeze may find others as it reissues frames to the three stacks that remain. -/
def Dev.tableLosses (d : Dev) : Dev := if d.errs.tableLost = [] then d else d.tableLossesN 256

/-- A page table entry is read: false where it is uncorrectable, and the controller freezes. -/
def Dev.pageRead (d : Dev) (k p : Nat) : Bool × Dev :=
  let (ue, d) := d.memCheck 0x04 (stackUnit k) p
  if ue then (false, (d.pageTableLost k p).retireAsked) else (true, d.retireAsked)

/-- A controller issues a command to a pseudo channel: its retry buffer keeps the last 64 (R427). -/
def Dev.issued (d : Dev) (k pc : Nat) (c : HbmCommand) : Dev :=
  d.setStk k { d.stk k with retry := SMap.modify [] (d.stk k).retry pc (fun cs => (cs ++ [c]).drop (cs.length - 63)) }

/-! ## Lines (R405, R406, R429) -/

/-- What a read of a line finds. -/
inductive LineSays where
  | clean | corrected | lost
  deriving DecidableEq, Repr

/-- Codewords of a line that a transfer of `n` bytes takes: the bytes rounded up to a multiple of 32, 16 bytes each (R406). -/
def codewords (n : Nat) : Nat := ceilDiv n 32 * 2

/-- An upset stands in line `a` of stack `k`. -/
def Upset.inLine (u : Upset) (k a : Nat) : Bool := decide (u.cls = 3) && decide (u.unit = stackUnit k) && decide (u.loc = a)

/-- The first `n` codewords of a line are read: what they hold wrong is one report of the line (R429, R576). -/
def Dev.lineCheck (d : Dev) (k a n : Nat) : LineSays × Dev :=
  let us := d.errs.upsets.filter (fun u => u.inLine k a && decide (u.bit < n))
  let ue := us.any (fun u => u.ue)
  if us = [] then (.clean, d)
  else
    let d := d.report 0x03 (stackUnit k) a ue (us.any (fun u => u.inj))
    if ue then (.lost, d) else (.corrected, (d.inc R.HBM_CORR k 1).raiseBit R.HBM_EVENTS k 3)

/-- A line is read in its first `n` codewords: its bytes, and what was found. -/
def Dev.lineRead (d : Dev) (k a n : Nat) : List Byte × LineSays × Dev :=
  let (told, d) := ((d.issued k (a % 32) (.read a)).inc R.HBM_READS k 1).pmcFab 0x150 k 1 |>.lineCheck k a n
  (SMap.get [] (d.stk k).lines a, told, d)

/-- The first `n` codewords of a line are written: what stood wrong in them is gone, the others stand as they were. -/
def Dev.lineWritten (d : Dev) (k a n : Nat) : Dev :=
  let rest := d.errs.upsets.filter (fun u => u.inLine k a && decide (n ≤ u.bit))
  let d := d.memWritten 0x03 (stackUnit k) a
  { d with errs := { d.errs with
      upsets := d.errs.upsets.map (fun u => if u.inLine k a then { u with bit := u.bit % n } else u) ++ rest } }

/-- Bytes are stored at the start of a line. -/
def Dev.lineStore (d : Dev) (k a : Nat) (bs : List Byte) : Dev :=
  let d := d.lineWritten k a (codewords bs.length)
  d.setStk k { d.stk k with lines := SMap.modify [] (d.stk k).lines a (fun old => bs ++ old.drop bs.length) }

/-- `n` bytes that the spec leaves open. -/
def Dev.freeBytes (d : Dev) : Nat → List Byte × Dev
  | 0 => ([], d)
  | n + 1 =>
    let (v, d) := d.free 8
    let (bs, d) := d.freeBytes n
    (BitVec.ofNat 8 v :: bs, d)

/-! ## Spill writes (R412, R413) -/

/-- A cell is written into its line: its bytes, rounded up to a multiple of 32 with bytes that the spec leaves open (R406, log 168).
HIGH counts the line; line 63 closes the page (R407). -/
def Dev.lineWrite (d : Dev) (k a : Nat) (bs : List Byte) : Dev :=
  let (pad, d) := d.freeBytes (codewords bs.length * 16 - bs.length)
  let d := (((d.issued k (a % 32) (.write a (bs ++ pad))).lineStore k a (bs ++ pad)).inc R.HBM_WRITES k 1).pmcFab 0x151 k 1
  let x := d.page k (a / 64)
  (d.memWritten 0x04 (stackUnit k) (a / 64)).setPage k (a / 64)
    { x with high := min 64 (x.high + 1), st := if a % 64 = 63 ∧ x.st = .open_ then .closed else x.st }

/-- A panicking fill engine has reads outstanding at the controller. -/
def Dev.panicAt (d : Dev) (k : Nat) : Bool := (List.range 8).any (fun s => (d.spf s).panic && d.readsAt s k)

/-- The next of some slices after the one that was served last (R422). -/
def nextSlice (last : Nat) (p : Nat → Bool) : Option Nat := ((List.range 8).map (fun i => (last + 1 + i) % 8)).find? p

/-- The spill engine whose write a controller serves next (R422): none while a panicking engine's reads are outstanding (R423;
DESIGN CHOICE, log 166: writes issued before PANIC was seen have completed). -/
def Dev.writeTurn (d : Dev) (k : Nat) : Option Nat :=
  if d.panicAt k then none else nextSlice (d.stk k).lastWrite (fun s => decide (0 < d.staged s (some k)))

/-- The place in its engine's order of the next staged cell of a frame. -/
def Frame.nextSeq (f : Frame) : Nat := f.stageSeq.getD (f.lines.length - f.staged) 0

/-- An earlier cell of the same spill engine waits for the same controller (R420). -/
def Dev.earlierWrite (d : Dev) (f : Frame) : Bool :=
  d.frames.any (fun e => match e.2 with
    | some g => decide (g.slice = f.slice) && decide (g.stack = f.stack) && decide (0 < g.staged) && decide (g.nextSeq < f.nextSeq)
    | none => false)

/-- The writes of the next `n` staged cells of a spilled copy complete, each in its turn; after the last cell of the whole frame the
copy is PARKED. -/
def Dev.spillWrites (d : Dev) (cid : Nat) : Nat → Dev
  | 0 => d
  | n + 1 =>
    match d.cpy cid with
    | none => d
    | some c =>
      match d.frame c.fid with
      | none => d
      | some f =>
        match f.stack, f.lines[f.lines.length - f.staged]? with
        | some k, some a =>
          if c.spill ≠ 1 then d
          else if (d.stk k).st ≠ .run then d.stackAsk k
          else if (d.stk k).writing = false ∨ d.writeTurn k ≠ some f.slice ∨ d.earlierWrite f = true then d
          else
            let (ok, d) := (d.stackAsk k).pageRead k (a / 64)
            if !ok then d
            else
              let d := d.lineWrite k a (f.stageData.getD (f.lines.length - f.staged) [])
              let d := d.setStk k { d.stk k with lastWrite := f.slice }
              let d :=
                if f.staged = 1 ∧ f.bufWhole = true then
                  (((pagesOf f.lines).foldl (fun d p => d.pageWritten k p) d).modFrame c.fid
                    (fun f => { f with staged := 0, stageData := [], stageSeq := [] })).setCpy cid { c with spill := 2 }
                else d.modFrame c.fid (fun f => { f with staged := f.staged - 1 })
              d.spillWrites cid n
        | _, _ => d

/-- SPILL_WRITE_DONE (R412, R413, R420, R422): in a write phase. -/
def Dev.spillWriteDone (d : Dev) (cid n : Nat) : Dev := d.onFabric (fun d => (d.spillWrites cid (min n 64)).tableLosses)

/-! ## Fill (R416 to R418) -/

/-- The first DEPTH copies of a queue that wait: each bin has its own order and its own head (R416, R453; DEDUCED, log 34). -/
def Dev.firstCopies (d : Dev) (q n : Nat) : List Nat := (d.busyBins q).flatMap (fun b => (d.binCopies q b).take n)

/-- Order of candidates: when they became so, then the queue, then the place in it. -/
def candBefore (a b : Nat × Copy × Frame) : Bool :=
  let x := (a.2.1.candAt.getD 0, a.2.1.queue, a.1)
  let y := (b.2.1.candAt.getD 0, b.2.1.queue, b.1)
  decide (x.1 < y.1) || (decide (x.1 = y.1) && (decide (x.2.1 < y.2.1) || (decide (x.2.1 = y.2.1) && decide (x.2.2 < y.2.2))))

/-- Put an element into an ordered list. -/
def insertCand (a : Nat × Copy × Frame) : List (Nat × Copy × Frame) → List (Nat × Copy × Frame)
  | [] => [a]
  | b :: bs => if candBefore a b then a :: b :: bs else b :: insertCand a bs

/-- Parked copies of a slice become candidates; those under a forced retire are discarded (R415, R416). -/
def Dev.markCandidates (d : Dev) (s : Nat) : Dev :=
  let depth := max 1 (d.fldOf R.FLE_PF_CTRL s 0 4)
  (d.fillCopies s).foldl (fun d e =>
    let c := e.2.1
    let awake := match e.2.2.stack with | some k => decide ((d.stk k).st = .run) || decide ((d.stk k).st = .sleep) | none => false
    if c.spill ≠ 2 ∨ c.candAt.isSome = true ∨ awake = false ∨ ¬ (d.firstCopies c.queue depth).contains e.1 then d
    else match d.forced c.tag with
      | some r => (d.inc r 0 1).copyDiscard e.1
      | none => d.setCpy e.1 { c with candAt := some d.now }) d

/-- Reads of candidates are issued, in order, while they fit (R416), to controllers in RUN or SLEEP (R436). -/
def Dev.issueReads (d : Dev) (s : Nat) : List (Nat × Copy × Frame) → Dev
  | [] => d
  | e :: es =>
    let n := e.2.2.lines.length
    let space := min 16384 (d.fldOf R.FLE_PF_CELLS s 0 16) - d.prefetch s
    if n + d.readsOut s ≤ space then
      match e.2.2.stack with
      | none => d.issueReads s es
      | some k =>
        if (d.stk k).st ≠ .run ∧ (d.stk k).st ≠ .sleep then d.issueReads s es
        else
          let x := d.spf s
          (((d.setSpf s { x with reads := x.reads + 1 }).setCpy e.1 { e.2.1 with spill := 3, filled := 0, readSeq := x.reads }).stackAsk
            k).issueReads s es
    else d

/-- FILL_EVALUATE (R416): once in 256 traffic-manager clocks. -/
def Dev.fillEvaluate (d : Dev) (s : Nat) : Dev :=
  d.onFabric (fun d =>
  if (d.now - (d.spf s).evalAt) * 135 < 25600 then d
  else
    let d := d.setSpf s { d.spf s with evalAt := d.now }
    let qs := ((d.fillCopies s).map (fun e => e.2.1.queue)).eraseDups
    let d := qs.foldl (fun d q => d.dropFrozen q) d
    let d := d.markCandidates s
    let cands := (d.fillCopies s).filter (fun e => decide (e.2.1.spill = 2) && e.2.1.candAt.isSome)
    ((d.issueReads s (cands.foldl (fun l e => insertCand e l) [])).panicCheck s).tableLosses)

/-- The fill engine whose read a controller serves next: one in PANIC before the others, each kind in turn (R422, R423). -/
def Dev.readTurn (d : Dev) (k : Nat) : Option Nat :=
  let last := (d.stk k).lastRead
  match nextSlice last (fun s => (d.spf s).panic && d.readsAt s k) with
  | some s => some s
  | none => nextSlice last (fun s => d.readsAt s k)

/-- Reads that the fill engine of a slice issued to the same controller earlier are outstanding (R420). -/
def Dev.earlierRead (d : Dev) (s k : Nat) (c : Copy) : Bool :=
  (d.fillCopies s).any (fun e => decide (e.2.1.spill = 3) && decide (e.2.2.stack = some k) && decide (e.2.1.readSeq < c.readSeq))

/-- Bytes of cell `i` of a frame. -/
def Frame.cellLen (f : Frame) (i : Nat) : Nat := min 256 (f.blen - 256 * i)

/-- FILL_READ_DONE (R417, R420, R422): in a read phase, the next line of a copy comes back and is written into a cell. A line whose
corrected data the scrubber has still to write back waits for that (R421). -/
def Dev.fillReadDone (d0 : Dev) (cid : Nat) : Dev :=
  d0.onFabric (fun d =>
  match d.cpy cid with
  | none => d
  | some c =>
    match d.frame c.fid with
    | none => d
    | some f =>
      match f.stack with
      | none => d
      | some k =>
        let s := sliceOfQueue c.queue
        match f.lines[c.filled]? with
        | none => d
        | some a =>
          if c.spill ≠ 3 then d
          else if (d.stk k).st ≠ .run then d.stackAsk k
          else if (d.stk k).writing = true ∨ d.readTurn k ≠ some s ∨ d.earlierRead s k c = true ∨ (d.stk k).repair = some a then d
          else
            let d := d.setStk k { d.stk k with lastRead := s }
            let d := d.stackAsk k
            let (ok, d) := if c.filled = 0 ∨ a % 64 = 0 then d.pageRead k (a / 64) else (true, d)
            if !ok then d
            else match d.lineRead k a (codewords (f.cellLen c.filled)) with
              | (_, .lost, d) =>
                let d := ((d.inc R.HBM_UNCORR k 1).raiseBit R.HBM_EVENTS k 4).inc R.BPM_P_DROP_BAD f.pool 1
                (((((d.copyDiscard cid).retirePage k (a / 64)).retireAsked).freeze k 1 a).panicCheck s).tableLosses
              | (bs, _, d) =>
                match d.allocCell (some f.pool) 1 partyFrame none 0 with
                | (none, _) => d0
                | (some cell, d) =>
                  let d := d.setCellRec cell { d.cellRec cell with pfc := match f.pfc with | some x => x + 1 | none => 0 }
                  let d := ((d.writeCell cell (bs.take (f.cellLen c.filled))).releaseLine k a).parkedDown f.pool 1
                  let d := (d.inc R.FLE_CELLS s 1).retireAsked
                  let done := decide (f.lines.length = c.filled + 1)
                  let d := d.modFrame c.fid (fun f => { f with
                    cells := f.cells ++ [cell], lines := if done then [] else f.lines, stack := if done then none else f.stack })
                  let d := if done then (d.setCpy cid { c with spill := 4, filled := 0, candAt := none }).inc R.FLE_COPIES s 1
                    else d.setCpy cid { c with filled := c.filled + 1 }
                  (d.panicCheck s).tableLosses)

/-! ## Phases, refresh, replay, scrubbing (R422, R423, R427 to R430) -/

/-- Lines that the scrubber visits, in address order (R430). -/
def Dev.scrubLines (d : Dev) (k : Nat) : List Nat :=
  (d.stk k).pages.flatMap (fun e => if e.2.st = .free then [] else (List.range e.2.high).map (fun i => e.1 * 64 + i))

/-- The line that the scrubber reads next. -/
def Dev.scrubLine (d : Dev) (k : Nat) : Option Nat :=
  let ls := d.scrubLines k
  match ls.find? (fun a => decide ((d.stk k).scrubPos ≤ a)) with
  | some a => some a
  | none => ls.head?

/-- A read of the scrubber is due (R430). -/
def Dev.scrubDue (d : Dev) (k : Nat) : Bool :=
  let x := d.stk k
  d.bitOf R.HBM_CTRL k 17 && decide (max 64 (d.fldOf R.HBM_SCRUB_CTRL k 0 16) * 10 ≤ (d.now - x.scrubAt) * 12)
    && decide (x.repair = none) && (d.scrubLine k).isSome

/-- Spill writes and fill reads wait at a controller. -/
def Dev.spillsWait (d : Dev) (k : Nat) : Bool := (List.range 8).any (fun s => decide (0 < d.staged s (some k)))
def Dev.fillsWait (d : Dev) (k : Nat) : Bool := (d.stackCopies k).any (fun e => decide (e.2.1.spill = 3))

/-- Requests of either kind wait at a controller: those of the scrubber with them (R419, R422). -/
def Dev.writesWait (d : Dev) (k : Nat) : Bool := d.spillsWait k || (d.stk k).repair.isSome
def Dev.readsWait (d : Dev) (k : Nat) : Bool := d.fillsWait k || d.scrubDue k

/-- HBM_PHASE_SWITCH (R422, R423). -/
def Dev.phaseSwitch (d : Dev) (k : Nat) : Dev :=
  d.onFabric (fun d =>
  let x := d.stk k
  let long := decide (max 1 (d.fldOf R.HBM_SCHED k 0 16) ≤ d.now - x.phaseSince)
  if x.st ≠ .run then d
  else if x.writing then
    if d.readsWait k && (long || !d.writesWait k || d.panicAt k) then d.setStk k { x with writing := false, phaseSince := d.now } else d
  else if d.writesWait k && !d.panicAt k && (long || !d.readsWait k) then
    d.setStk k { x with writing := true, phaseSince := d.now, postponed := [] }
  else d)

/-- HBM_REFRESH (R423): a refresh of pseudo channel `pc` falls due; it is issued, or postponed in panic. -/
def Dev.hbmRefresh (d : Dev) (k pc : Nat) : Dev :=
  let x := d.stk k
  if x.st ≠ .run ∧ x.st ≠ .frozen then d
  else if d.panicAt k = false then d.issued k pc .refresh
  else if SMap.get 0 x.postponed pc < min 8 (d.fldOf R.HBM_REF_CTRL k 0 4) then
    (d.setStk k { x with postponed := SMap.modify 0 x.postponed pc (· + 1) }).inc R.HBM_REF_POSTPONED k 1
  else ((d.issued k pc .refresh).inc R.HBM_REF_FORCED k 1).raiseBit R.HBM_EVENTS k 7

/-- The last `n` commands of a retry buffer are issued again in their order: lines take their data again (R427). -/
def Dev.reissue (d : Dev) (k pc n : Nat) : Dev :=
  let cs := SMap.get [] (d.stk k).retry pc
  (cs.drop (cs.length - n)).foldl (fun d c => match c with
    | .write a bs => d.lineStore k a bs
    | _ => d) d

/-- HBM_REPLAY (R427, R428): pseudo channel `pc` replays the last `n` commands, those that the stack has not acknowledged, or with
`reread` a read is made again; `failed` says that it fails again. -/
def Dev.hbmReplay (d : Dev) (k pc n : Nat) (reread failed : Bool) : Dev :=
  if (d.stk k).st ≠ .run ∧ (d.stk k).st ≠ .frozen then d
  else
    let d := if reread then d.inc R.HBM_REREADS k 1 else ((d.reissue k pc n).inc R.HBM_REPLAYS k 1).raiseBit R.HBM_EVENTS k 2
    let x := d.stk k
    if !failed then d.setStk k { x with fails := 0 }
    else if max 1 (d.fldOf R.HBM_CTRL k 8 8) < x.fails + 1 then
      (((d.setStk k { x with fails := 0 }).inc R.HBM_REPLAY_FAILS k 1).freeze k 3 0).tableLosses
    else d.setStk k { x with fails := x.fails + 1 }

/-- The scrubber's write-back of corrected data (R421): in a write phase, behind spill writes (R422). -/
def Dev.scrubRepair (d : Dev) (k a : Nat) : Dev :=
  if (d.stk k).st ≠ .run ∨ (d.stk k).writing = false ∨ d.panicAt k = true ∨ d.spillsWait k = true then d
  else
    let d := d.setStk k { d.stk k with repair := none }
    let bs := SMap.get [] (d.stk k).lines a
    ((((d.issued k (a % 32) (.write a bs)).lineWritten k a 16).inc R.HBM_WRITES k 1).pmcFab 0x151 k 1).inc R.HBM_SCRUB_REPAIRS k 1

/-- A read of the scrubber (R429 to R431): in a read phase, behind fill reads (R422). -/
def Dev.scrubRead (d : Dev) (k a : Nat) : Dev :=
  if (d.stk k).writing = true ∨ d.fillsWait k = true then d
  else
    let d := (d.setStk k { d.stk k with scrubPos := a + 1, scrubAt := d.now }).stackAsk k
    let (ok, d) := d.pageRead k (a / 64)
    if !ok then d
    else match d.lineRead k a 16 with
      | (_, .clean, d) => d
      | (_, .corrected, d) => (d.setStk k { d.stk k with repair := some a }).retireAsked
      | (_, .lost, d) =>
        let d := (d.inc R.HBM_UNCORR k 1).raiseBit R.HBM_EVENTS k 4
        let d := d.dropCopies ((d.stackCopies k).filter (fun e => (e.2.2.lines.drop e.2.1.filled).contains a))
        ((d.retirePage k (a / 64)).retireAsked).freeze k 2 a

/-- HBM_SCRUB_READ (R421, R422, R429 to R431, R439): the scrubber's next request, a write-back that waits or a read that is due; a
controller that sleeps is asked to wake for it. -/
def Dev.hbmScrub (d : Dev) (k : Nat) : Dev :=
  match (d.stk k).repair with
  | some a => d.scrubRepair k a
  | none =>
    match d.scrubLine k with
    | none => d
    | some a =>
      if d.scrubDue k = false then d
      else match (d.stk k).st with
        | .run => (d.scrubRead k a).tableLosses
        | .sleep => d.stackAsk k
        | _ => d

/-! ## Commands and states (R437 to R440) -/

/-- FREEZE (R434): HBM_CMD.FREEZE. -/
def Dev.hbmFreeze (d : Dev) (k : Nat) : Dev := d.freeze k 4 0

/-- HBM_OVERTEMP (R434): the stack's temperature, in eighths of a degree, signed, 12 bits. While OFFLINE
HBM_TEMP keeps what it held at entry (R42). -/
def Dev.hbmTemp (d : Dev) (k t : Nat) : Dev :=
  if (d.stk k).st = .offline then d else
  let d := d.wr R.HBM_TEMP k (t % 4096)
  if 840 ≤ sext 12 t then (d.freeze k 6 0).tableLosses else d

/-- THAW (R437): `pass` says whether the read checks pass. -/
def Dev.thaw (d : Dev) (k : Nat) (pass : Bool) : Dev :=
  let x := d.stk k
  if x.st ≠ .frozen then d
  else if pass then (d.setStk k { x with st := .run, since := d.now, lastReq := d.now, fails := 0 }).raiseBit R.HBM_EVENTS k 1
  else d.raiseBit R.HBM_EVENTS k 8

/-- Every page that is not RETIRED returns to FREE. -/
def Dev.freePages (d : Dev) (k : Nat) : Dev :=
  let x := d.stk k
  d.setStk k { x with pages := SMap.keep (fun _ p => decide (p.st = .retired)) x.pages }

/-- OFFLINE (R438). -/
def Dev.offline (d : Dev) (k : Nat) : Dev :=
  if (d.stk k).st ≠ .frozen then d
  else
    let d := d.dropCopies (d.stackCopies k)
    d.setStk k { d.stk k with st := .offline, since := d.now }

/-- RETRAIN (R437, R439): accepted in FROZEN and TRAIN_FAIL. -/
def Dev.retrain (d : Dev) (k : Nat) : Dev :=
  if (d.stk k).st ≠ .frozen ∧ (d.stk k).st ≠ .trainFail then d
  else
    let d := (d.dropCopies (d.stackCopies k)).freePages k
    d.setStk k { d.stk k with st := .train, since := d.now, lines := [], trained := false, fails := 0, retry := [], repair := none }

/-- HBM_INIT_DONE (R439). -/
def Dev.hbmInitDone (d : Dev) (k : Nat) : Dev :=
  if (d.stk k).st = .init then d.setStk k { d.stk k with st := .train, since := d.now } else d

/-- HBM_TRAIN_DONE (R439, R440): the pseudo channels that passed; `reused` says that held results were checked and passed. -/
def Dev.hbmTrainDone (d : Dev) (k mask : Nat) (reused : Bool) : Dev :=
  let x := d.stk k
  if x.st ≠ .train then d
  else
    let ok := decide (mask % 2 ^ 32 = 2 ^ 32 - 1)
    let d := d.wr R.HBM_TRAIN_STATUS k mask
    let re := reused && x.trained && d.bitOf R.HBM_CTRL k 16
    if ok then
      (d.setStk k { x with st := .run, since := d.now, lastReq := d.now, trained := true, reused := re }).freePages k
    else (d.setStk k { x with st := .trainFail, since := d.now, trained := false, reused := false }).raiseBit R.HBM_EVENTS k 8

/-- HBM_SLEEP_ENTRY (R439). -/
def Dev.hbmSleep (d : Dev) (k : Nat) : Dev :=
  let x := d.stk k
  let quiet := !d.writesWait k && !d.readsWait k
  let idle := d.bitOf R.HBM_CTRL k 0 && quiet && decide (d.fldOf R.HBM_SR_CTRL k 0 20 * 1000 ≤ d.now - x.lastReq)
  if x.st = .run ∧ (idle || x.sleepReq) = true then
    d.setStk k { x with st := .sleep, since := d.now, sleepReq := false, wakeReq := false }
  else d

/-- HBM_SLEEP_EXIT (R439). -/
def Dev.hbmWake (d : Dev) (k : Nat) : Dev :=
  let x := d.stk k
  if x.st = .sleep ∧ (x.wakeReq || d.writesWait k || d.readsWait k) = true then
    d.setStk k { x with st := .run, since := d.now, wakeReq := false, lastReq := d.now }
  else d

/-- HBM_CMD: a write with more than one bit set is ignored (R442). `pass` is the outcome of a THAW's checks. -/
def Dev.hbmCmd (d : Dev) (k v : Nat) (pass : Bool) : Dev :=
  match v % 16 with
  | 1 => (d.hbmFreeze k).tableLosses
  | 2 => d.thaw k pass
  | 4 => (d.offline k).tableLosses
  | 8 => (d.retrain k).tableLosses
  | _ => d

/-! ## Diagnosis (R441) -/

/-- A diagnostic command completes. -/
def Dev.diagDone (d : Dev) (k result : Nat) : Dev :=
  ((d.setStk k { d.stk k with diag := 0 }).wr R.HBM_DIAG_STATUS k result).raiseBit R.HBM_EVENTS k 9

/-- A write to HBM_DIAG_CMD. -/
def Dev.diagWrite (d : Dev) (k v : Nat) : Dev :=
  if (d.stk k).diag ≠ 0 then d
  else if v % 16 = 1 ∨ v % 16 = 2 then d.setStk k { d.stk k with diag := v % 16 }
  else d.diagDone k 7

/-- A line in HBM_DIAG_DATA. -/
def Dev.diagData (d : Dev) (k : Nat) (bs : List Byte) : Dev :=
  forN 64 (fun j d => d.wr R.HBM_DIAG_DATA (k * 64 + j) (leAt bs (4 * j) 4)) d

/-- READ_LINE. The data of an uncorrectable line is raw: free values (log 2). -/
def Dev.diagReadLine (d : Dev) (k : Nat) : Dev :=
  if (d.stk k).diag ≠ 1 then d
  else if (d.stk k).st ≠ .frozen then d.diagDone k 1
  else match d.lineRead k (d.fldOf R.HBM_DIAG_ADDR k 0 26) 16 with
    | (bs, .clean, d) => (d.diagData k bs).diagDone k 0
    | (bs, .corrected, d) => (((d.diagData k bs).diagDone k 3).retireAsked)
    | (_, .lost, d) =>
      let d := forN 64 (fun j d => let (v, d) := d.free 32
        d.wr R.HBM_DIAG_DATA (k * 64 + j) v) d
      (d.diagDone k 4).retireAsked

/-- Four patterns are written over pages `p0` to `p1 - 1` and read back (R441): the last one stays in every line, and no error that
stood there does. -/
def Dev.patternPages (d : Dev) (k p0 p1 : Nat) : Dev :=
  if p1 ≤ p0 then d else
  let n := 64 * (p1 - p0)
  let inside := fun (a : Nat) => decide (p0 ≤ a / 64) && decide (a / 64 < p1)
  let d := d.memWritten 0x03 (stackUnit k) (p0 * 64)
  let d := { d with errs := { d.errs with
    upsets := d.errs.upsets.filter (fun u => !(decide (u.cls = 3) && decide (u.unit = stackUnit k) && inside u.loc)) } }
  let d := forN n (fun i d => d.setStk k { d.stk k with
    lines := SMap.set [] (d.stk k).lines (p0 * 64 + i) ((List.range 256).map Config.testPattern) }) d
  (((d.inc R.HBM_WRITES k (4 * n)).pmcFab 0x151 k (4 * n)).inc R.HBM_READS k (4 * n)).pmcFab 0x150 k (4 * n)

/-- TEST_PAGES: `bad` are the pages that fail. -/
def Dev.diagTest (d : Dev) (k : Nat) (bad : List Nat) : Dev :=
  if (d.stk k).diag ≠ 2 then d
  else if (d.stk k).st ≠ .frozen then d.diagDone k 1
  else
    let p0 := d.fldOf R.HBM_DIAG_ADDR k 6 20
    let p1 := min 1048576 (p0 + d.fldOf R.HBM_DIAG_COUNT k 0 21)
    if (d.stk k).pages.any (fun e => decide (p0 ≤ e.1 ∧ e.1 < p1) && (decide (e.2.st = .open_) || decide (e.2.st = .closed))) then d.diagDone k 2
    else
      let d := d.patternPages k p0 p1
      let d := (bad.filter (fun p => decide (p0 ≤ p ∧ p < p1))).eraseDups.foldl (fun d p => (d.retirePage k p).inc R.HBM_DIAG_FAILS k 1) d
      d.diagDone k 0

/-! ## Views (R442, R443) -/

def HbmState.code : HbmState → Nat
  | .off => 0 | .init => 1 | .train => 2 | .run => 3 | .sleep => 4 | .frozen => 5 | .offline => 6 | .trainFail => 7

def Dev.hbmStatus (d : Dev) (k : Nat) : Nat :=
  let x := d.stk k
  packFields [(0, 4, x.st.code), (8, 1, b2n (d.panicAt k)), (16, 8, (x.postponed.map (·.2)).foldl max 0), (24, 1, b2n x.reused)]

def Dev.pagesRetired (d : Dev) (k : Nat) : Nat :=
  ((d.stk k).pages.filter (fun e => decide (e.2.st = .retired) || e.2.retiring)).length

def Dev.diagStatus (d : Dev) (k : Nat) : Nat :=
  packFields [(31, 1, b2n (decide ((d.stk k).diag ≠ 0))), (0, 4, d.rd R.HBM_DIAG_STATUS k)]

def Dev.fleStatus (d : Dev) (s : Nat) : Nat := packFields [(0, 16, d.prefetch s), (16, 1, b2n (d.spf s).panic)]

end Sys2Proof.Machine
end

