-- ==== Sys2Proof/Machine/Ae.lean ====
section
/-! DEFINITION. Action Engine threads: microwords, registers, frames held, channels, faults, traps, events to the miller
(R291, R294 to R297, R303 to R307, R310 to R316, R322 to R328, R331, R333, R334, R343). -/
namespace Sys2Proof.Machine

/-! ## Tags as bytes (R171) -/

def Tag.words (t : Tag) : List Nat := [
  packFields [(0, 4, t.epoch), (4, 16, t.version), (20, 9, t.lport), (29, 1, b2n t.ct), (30, 1, b2n t.stomp), (31, 1, b2n t.mcast)],
  packFields [(0, 13, t.queue), (13, 6, t.bin), (19, 2, t.colour), (21, 6, t.reason), (27, 3, t.pass), (30, 1, b2n t.hostInj), (31, 1, b2n t.aeRet)],
  t.ts % 2 ^ 32,
  packFields [(0, 16, t.ts / 2 ^ 32), (16, 16, t.seq)],
  packFields [(0, 16, t.repl), (16, 9, t.copy), (25, 2, t.puntHost)],
  t.user0 % 2 ^ 32, t.user1 % 2 ^ 32, t.user2 % 2 ^ 32]

/-- The 32 bytes of a tag. -/
def Tag.bytes (t : Tag) : List Byte := t.words.flatMap (leBytes 4)

/-! ## Microwords (R295, R296) -/

structure Mw where
  op : Nat
  d : Nat
  a : Nat
  b : Nat
  bi : Bool
  pred : Nat
  sf : Bool
  rsv : Nat
  tgt : Nat
  imm : Nat
  ext : Nat
  raw : Nat
  deriving DecidableEq, Repr

def mwOf (w : Nat) : Mw :=
  ⟨fld w 0 6, fld w 6 5, fld w 11 5, fld w 16 5, decide (fld w 21 1 = 1), fld w 22 4, decide (fld w 26 1 = 1), fld w 27 5,
    fld w 32 16, fld w 48 64, fld w 112 16, w⟩

/-- Bit `k` of EXT. -/
def Mw.bit (m : Mw) (k : Nat) : Bool := decide (fld m.ext k 1 = 1)

/-- The predicate holds (0x0 to 0xD). -/
def predHolds (x : Thread) (p : Nat) : Bool :=
  match p with
  | 0 => true | 1 => x.z | 2 => !x.z | 3 => x.n | 4 => !x.n | 5 => x.c | 6 => !x.c | 7 => x.v | 8 => !x.v
  | 9 => x.c && !x.z | 10 => decide (x.n = x.v) | 11 => decide (x.n ≠ x.v) | 12 => x.x | _ => !x.x

/-- Engine of a thread. -/
def engOf (t : Nat) : Nat := t / 8

/-- UNIT of memories of an engine. -/
def engUnit (s t : Nat) : Nat := unitOf s 0 0 (engOf t) 0 0

/-! ## Registers of a thread -/

/-- A general register; g0 reads 0. True where it is uncorrectable. -/
def Dev.aeReg (d : Dev) (s t r : Nat) : Bool × Nat × Dev :=
  if r = 0 then (false, 0, d)
  else
    let (ue, d) := d.memCheck 0x0D (engUnit s t) (t % 8 * 64 + r)
    (ue, (SMap.get 0 (d.thr s t).regs r).toNat, d)

/-- A general register takes a value; g0 does not. -/
def Dev.setReg (d : Dev) (s t r v : Nat) : Dev :=
  if r = 0 then d
  else (d.memWritten 0x0D (engUnit s t) (t % 8 * 64 + r)).modThr s t
    (fun x => { x with regs := SMap.set 0 x.regs r (BitVec.ofNat 64 v) })

/-- Frames held by a thread. -/
def Thread.held (x : Thread) : Nat := x.slots.length

/-- Flags as trap save and debug window lay them out: Z, N, C, V, X. -/
def Thread.flags (x : Thread) : Nat :=
  packFields [(0, 1, b2n x.z), (1, 1, b2n x.n), (2, 1, b2n x.c), (3, 1, b2n x.v), (4, 1, b2n x.x)]

def Thread.setFlags (x : Thread) (f : Nat) : Thread :=
  { x with z := decide (fld f 0 1 = 1), n := decide (fld f 1 1 = 1), c := decide (fld f 2 1 = 1), v := decide (fld f 3 1 = 1)
           x := decide (fld f 4 1 = 1) }

/-! ## The watchdog's condition (R331) -/

def Thread.blocked (x : Thread) : Bool :=
  decide (x.st = .blkRd) || decide (x.st = .blkWr) || decide (x.st = .blkShare) || (decide (x.st = .waiting) && !x.waitTmo)

def Thread.quiet (x : Thread) : Bool :=
  x.blocked || decide (x.st = .disabled) || decide (x.st = .stopped) || decide (x.st = .faulted) || decide (x.st = .idle)

def Dev.dogCond (d : Dev) (s e : Nat) : Bool :=
  let ts := (List.range 8).map (fun i => d.thr s (e * 8 + i))
  ts.all Thread.quiet && ts.any Thread.blocked && ts.all (fun x => decide (x.staged = []) || x.sendWaits)

def Dev.dog (d : Dev) (s e : Nat) : Watchdog := SMap.get {} d.ae.dogs (s * 32 + e)
def Dev.setDog (d : Dev) (s e : Nat) (x : Watchdog) : Dev := { d with ae := { d.ae with dogs := SMap.set {} d.ae.dogs (s * 32 + e) x } }

/-- The watchdog of a thread's engine follows its condition (R332). -/
def Dev.dogCheck (d : Dev) (s t : Nat) : Dev :=
  let e := engOf t
  let x := d.dog s e
  if !d.dogCond s e then d.setDog s e {}
  else if x.since = none then d.setDog s e { x with since := some d.now } else d

/-! ## Events to the miller (R326 to R328) -/

/-- Words that a channel holds. -/
def Chan.words (c : Chan) : Nat := sumOf (fun (m : Msg) => m.words.length) c.msgs

/-- Bit of AE_EVENTS of an event code. -/
def evtBit (evt : Nat) : Nat := match evt with | 1 => 0 | 2 => 1 | 3 => 2 | 4 => 10 | 5 => 6 | 6 => 7 | _ => 8

/-- A header word that hardware writes (R304). -/
def hwHeader (len kind src body : Nat) : Nat :=
  packFields [(63, 1, 1), (58, 4, len - 1), (56, 2, kind), (48, 8, src), (47, 1, 1), (0, 44, body)]

/-- A message enters a channel. -/
def Dev.chanPush (d : Dev) (s c : Nat) (words : List Nat) (frame : Option Nat) : Dev :=
  let x := d.chan s c
  let m : Msg := Msg.mk (words.map (BitVec.ofNat 64)) frame d.now (x.written % 16) false
  let d := (List.range words.length).foldl (fun d i => d.memWritten 0x0E (unitOf s 0 0 0 0 0) (c * 16 + (x.written + i) % 16)) d
  (d.setChan s c { x with msgs := x.msgs ++ [m], written := x.written + words.length }).pmc s 0x040 c 1

/-- An event is reported to the miller (R326, R327). -/
def Dev.aeEvent (d : Dev) (s evt thread cause : Nat) (handled : Bool) (pc detail : Nat) : Dev :=
  let d := d.raiseBit R.AE_EVENTS s (evtBit evt)
  if 16 < (d.chan s 0xFE).words + 2 then
    let d := (d.inc R.AE_EV_LOST s 1).raiseBit R.AE_EVENTS s 3
    { d with ae := { d.ae with evLost := SMap.set false d.ae.evLost s true } }
  else
    let w1 := packFields [(58, 6, evt), (50, 8, thread), (44, 6, cause), (43, 1, b2n handled), (42, 1, b2n (SMap.get false d.ae.evLost s)),
      (26, 16, pc), (0, 26, detail)]
    let d := d.chanPush s 0xFE [hwHeader 2 2 1 (d.time.ns % 2 ^ 32), w1] none
    { d with ae := { d.ae with evLost := SMap.set false d.ae.evLost s false } }

/-! ## Issue slots and samples (R591, R592) -/

/-- A microword's slot is counted by one counter; a counter in SAMPLE mode that reaches its period calls for a sample. -/
def Dev.pmcAe (d : Dev) (s ev unit t pc : Nat) : Dev :=
  if d.stats.frozen then d else
  forN 32 (fun k d =>
    let i := s * 32 + k
    let sel := d.rd R.PMC_SEL i
    if fld sel 31 1 = 1 ∧ fld sel 0 12 = ev ∧ fld sel 12 8 = unit then
      if fld sel 20 2 = 1 ∧ max 1 (d.rd64 R.PMC_PERIOD i) ≤ d.rd64 R.PMC i + 1 then
        { (d.wr64 R.PMC i 0) with stats := { d.stats with due := d.stats.due ++ [SampleDue.mk s k t ev pc 6] } }
      else d.inc R.PMC i 1
    else d) d

/-- Samples called for follow the thread's next microwords. -/
def Dev.dueIssued (d : Dev) (s t pc : Nat) : Dev :=
  { d with stats := { d.stats with due := d.stats.due.map (fun x =>
      if x.slice = s ∧ x.thread = t ∧ 0 < x.left then { x with pc := pc, left := x.left - 1 } else x) } }

/-- A thread counts as having issued most recently (R292, R298). -/
def Dev.issuesLast (d : Dev) (s t : Nat) : Dev :=
  let n := d.ae.issues + 1
  { d with ae := { d.ae with issues := n, issue := SMap.modify {} d.ae.issue (s * 256 + t) (fun x => { x with order := n }) } }

/-- What a thread needs to go on is available `n` core clocks of 20/27 ns from now (R293, R309). -/
def Dev.readyIn (d : Dev) (s t n : Nat) : Dev :=
  { d with ae := { d.ae with issue := SMap.modify {} d.ae.issue (s * 256 + t) (fun x => { x with ready := d.now + ceilDiv (n * 20) 27 }) } }

/-- A microword issues (R347). -/
def Dev.aeIssued (d : Dev) (s t pc : Nat) : Dev := ((d.dueIssued s t pc).inc R.AE_ENG_ISSUED (s * 32 + engOf t) 1).slotUsed s (engOf t)

/-- A microword counts as RETIRED. -/
def Dev.aeRetired (d : Dev) (s t pc : Nat) : Dev := (d.pmcAe s 0x020 (engOf t) t pc).pmcAe s 0x024 t t pc

/-- A microword counts as WASTED. -/
def Dev.aeWasted (d : Dev) (s t pc : Nat) : Dev := d.pmcAe s 0x021 (engOf t) t pc

/-! ## Faults, traps and interrupts (R322 to R325) -/

/-- Trap entry (R323). The trap routine's first microword has its own breakpoint (R337). -/
def Thread.trapEntry (x : Thread) (vec cause detail : Nat) : Thread :=
  { x with st := .run, tsPc := x.pc, tsFlags := x.flags, tsCause := cause, tsDetail := detail, tsCsp := x.stack.length, inTrap := true
           pc := vec, fldWait := false, bpPass := false }

/-- A thread whose idle read moved to the running bank leaves that read without a message: it goes on at IDLE_CONT of its new
record, since its PC named a microword of the old bank (DESIGN CHOICE, log 162). -/
def Thread.leaveIdle (x : Thread) (cont : Nat) : Thread :=
  if x.idleMove then { x with idleMove := false, pc := cont, bpPass := false } else x

/-- Hardware writes the trap save items of a thread. -/
def Dev.trapSaved (d : Dev) (s t : Nat) : Dev := forN 5 (fun i d => d.memWritten 0x0D (engUnit s t) (t % 8 * 64 + 0x28 + i)) d

/-- A fault of the microword at PC (R324). -/
def Dev.aeFault (d : Dev) (s t cause detail : Nat) : Dev :=
  let x := d.thr s t
  let r := d.recOf s t
  let d := (d.inc R.AE_THR_FAULTS (s * 256 + t) 1).inc R.AE_FAULTS s 1
  let detail := detail % 2 ^ 32
  if x.inTrap ∨ r.trapVec = 0 then
    let d := d.setThr s t { x with st := .faulted, fldWait := false, stepping := false, faultCause := cause, faultHandled := false, faultPc := x.pc }
    let d := d.aeEvent s 1 t cause false x.pc detail
    if t = 7 then d.raiseBit R.AE_EVENTS s 5 else d
  else
    let y := ({ x with faultCause := cause, faultHandled := true, faultPc := x.pc }.leaveIdle r.idleCont).trapEntry r.trapVec cause detail
    let d := (d.trapSaved s t).setThr s t y
    if r.reportAll then d.aeEvent s 1 t cause true x.pc detail else d

/-- A blocked microword is abandoned: it counts as WASTED, and a CHWR with SEND takes its word back (R294, R325). -/
def Dev.abandon (d : Dev) (s t : Nat) : Dev :=
  let x := d.thr s t
  if x.st = .blkRd ∨ x.st = .idle ∨ x.st = .blkWr ∨ x.st = .blkShare ∨ x.st = .waiting ∨ x.fldWait = true then
    (d.setThr s t ({ x with
      staged := if x.sendOwn then x.staged.dropLast else x.staged, sendWaits := false, sendOwn := false, fldWait := false }.leaveIdle
        (d.recOf s t).idleCont)).aeWasted s t x.pc
  else d

/-- An interrupt that waits is taken (R325). DESIGN CHOICE (log 47): with TRAP_VEC 0 it stays raised. -/
def Dev.irqCheck (d : Dev) (s t : Nat) : Dev :=
  let x := d.thr s t
  let takes := decide (x.st = .run) || decide (x.st = .blkRd) || decide (x.st = .idle) || decide (x.st = .blkWr) || decide (x.st = .blkShare)
    || decide (x.st = .waiting)
  let vec := (d.recOf s t).trapVec
  if !takes || x.inTrap || x.fldWait || decide (vec = 0) || !(x.timerIrq || x.sigIrq) then d
  else
    ((d.abandon s t).trapSaved s t).modThr s t (fun x =>
      if x.timerIrq then { x with timerIrq := false }.trapEntry vec 0x20 0
      else { x with sigIrq := false }.trapEntry vec 0x21 0)

/-- SIGPEND of a thread is set (R321). -/
def Dev.signal (d : Dev) (s t : Nat) : Dev :=
  ((d.modThr s t (fun x => { x with sigpend := true, sigIrq := x.sigIrq || (d.recOf s t).sigInt })).irqCheck s t).dogCheck s t

/-! ## Frames of the array (R311 to R316) -/

/-- Bytes of a frame as the array sees them, from its destination address to its FCS, as far as they have arrived. -/
def Dev.arrBytes (d : Dev) (f : Frame) : List Byte := f.cells.flatMap (fun c => SMap.get [] d.buf.data c)

/-- LEN of a frame of the array: 0 until it is complete. -/
def Frame.arrLen (f : Frame) : Nat := if f.bufWhole then f.blen else 0

/-- The first 64 bytes of a frame space (R312). -/
def Frame.spaceHead (f : Frame) : List Byte :=
  f.tag.bytes ++ leBytes 4 (packFields [(0, 14, f.arrLen), (14, 1, b2n f.bufWhole), (15, 1, b2n (decide (f.bufBad ≠ 0))), (16, 2, f.pipe)])
    ++ List.replicate 28 0

/-- A frame of the array is discarded: its cells are freed, its tag removed; bytes still to come are discarded. -/
def Dev.arrDrop (d : Dev) (fid : Nat) : Dev :=
  match d.frame fid with
  | none => d
  | some f => ((d.askFrees f.cells).setFrame fid { f with cells := [], steered := true }).frameRefuse fid

/-- The frame in a handle slot. -/
def Dev.slotFrame (d : Dev) (s t k : Nat) : Option (Nat × Frame) :=
  match SMap.get 0 (d.thr s t).slots k with
  | 0 => none
  | n + 1 => (d.frame n).map (fun f => (n, f))

/-- Lowest free handle slot. -/
def Thread.freeSlot (x : Thread) : Option Nat := (List.range 16).find? (fun k => decide (SMap.get 0 x.slots k = 0))

/-- Allocate `n` cells for a frame of a thread, charged to it; the cells, or none where the free list runs out. -/
def Dev.arrAlloc (d : Dev) (s t : Nat) : Nat → List Nat → Option (List Nat) × Dev
  | 0, cs => (some cs, d)
  | n + 1, cs =>
    match d.allocCell (some 14) 1 partyFrame none (chargeOf s t) with
    | (none, d) => (none, d.askFrees cs)
    | (some c, d) => d.arrAlloc s t n (cs ++ [c])

/-- Write the content of a frame of the array, from its cell `lo` to its cell `hi`. -/
def Dev.arrWrite (d : Dev) (fid : Nat) (f : Frame) (data : List Byte) (lo hi : Nat) : Dev :=
  let d := f.cells.zipIdx.foldl (fun d e => if lo ≤ e.2 ∧ e.2 ≤ hi then d.writeCell e.1 (slice data (256 * e.2) 256) else d) d
  d.setFrame fid { f with blen := data.length, nCells := f.cells.length }

/-! ## Channels (R303 to R307, R310, R333, R334, R336) -/

/-- Bits 43:0 of a frame message's header at delivery (R311). -/
def frameBody (f : Frame) (slot : Nat) : Nat :=
  packFields [(40, 4, f.tag.epoch), (36, 4, slot), (35, 1, b2n f.bufWhole), (21, 14, f.arrLen), (19, 2, f.pipe)]

/-- Free words of a channel. -/
def Dev.chanFree (d : Dev) (s c : Nat) : Nat := (if c = 0xFE then 16 else (d.chan s c).cap) - (d.chan s c).words

/-- The running epoch. -/
def Dev.runEpoch (d : Dev) : Nat := d.epochs.run.getD 0

/-- A thread may change banks with the next message: it holds no frame and no staged words (R333). -/
def Thread.mayMove (x : Thread) : Bool := decide (x.slots = []) && decide (x.staged = [])

/-- Why a thread may not take the message at a channel's head (R305): 0 it may, 1 EMPTY, 3 EPOCH, 4 NO_SLOT. -/
def Dev.headReason (d : Dev) (s t c : Nat) (idle : Bool) : Nat :=
  let x := d.thr s t
  match (d.chan s c).msgs with
  | [] => 1
  | m :: _ =>
    match m.frame with
    | none => 0
    | some fid =>
      match d.frame fid with
      | none => 0
      | some f =>
        if f.hasTag && decide (f.tag.epoch ≠ x.epoch) && !(idle && x.mayMove) then 3
        else if x.freeSlot = none then 4 else 0

/-- The words of a message as they are read: a lost word reads 0 and sets POISON (R343). MEM_ERR names the control store address
of the read that met it (DEDUCED, log 163). -/
def Dev.readWords (d : Dev) (s t c : Nat) (m : Msg) (words : List Nat) : List Nat × Dev :=
  let r := words.zipIdx.foldl (fun (r : List Nat × Bool × Dev) e =>
    let (ue, d) := r.2.2.memCheck 0x0E (unitOf s 0 0 0 0 0) (c * 16 + (m.loc + e.2) % 16)
    if ue then
      let d := d.inc R.AE_MEM_ERRS s 1
      let pc := (d.thr s t).pc
      (r.1 ++ [0], true, d.aeEvent s 7 t 0 false pc pc)
    else (r.1 ++ [e.1], r.2.1, d)) (([], false, d) : List Nat × Bool × Dev)
  match r.1 with
  | w :: ws => (if r.2.1 then (w ||| 2 ^ 62 ||| 2 ^ 63) :: ws else w :: ws, r.2.2)
  | [] => ([], r.2.2)

/-- The message at the head of a channel goes to a thread (R307, R312, R333): registers from `dst` on. -/
def Dev.deliver (d : Dev) (s t c : Nat) (idle : Bool) (dst : Nat) : Dev :=
  match (d.chan s c).msgs with
  | [] => d
  | m :: rest =>
    let x := d.thr s t
    let fr := m.frame.bind (fun fid => (d.frame fid).map (fun f => (fid, f)))
    let ep := if idle && x.mayMove then (match fr with | some (_, f) => if f.hasTag then f.tag.epoch else d.runEpoch | none => d.runEpoch) else x.epoch
    let r := thrRec (d.imageOf ep) s t
    if ep ≠ x.epoch ∧ r.en = false then d.setThr s t { x with st := .disabled }
    else
      let slot := x.freeSlot.getD 0
      let words := match fr, m.words.map BitVec.toNat with
        | some (_, f), w :: _ =>
          [putFld w 0 44 (frameBody f slot), f.tag.words.getD 0 0 + f.tag.words.getD 1 0 * 2 ^ 32]
        | _, ws => ws
      let (words, d) := d.readWords s t c m words
      let d := d.setChan s c { d.chan s c with msgs := rest }
      let moves := decide (ep ≠ x.epoch) || (idle && x.idleMove)
      let d := d.setThr s t { d.thr s t with
        st := .run, x := false, epoch := ep, idleMove := false, pc := if moves then r.idleCont else (x.pc + 1) % 65536
        stack := if decide (ep ≠ x.epoch) then [] else x.stack
        slots := match fr with | some (fid, _) => SMap.set 0 x.slots slot (fid + 1) | none => x.slots }
      words.zipIdx.foldl (fun d e => d.setReg s t ((if idle then 16 else dst) + e.2) e.1) d

/-- The staged words of a thread become one message (R304, R306, R318); false where there is no room. -/
def Dev.commit (d : Dev) (s t : Nat) : Bool × Dev :=
  let x := d.thr s t
  let c := x.stageChan
  let ws := x.staged.map BitVec.toNat
  let n := ws.length
  let body := (ws.headD 0) % 2 ^ 44
  let done := fun (d : Dev) => d.modThr s t (fun x => { x with staged := [], sendWaits := false, sendOwn := false })
  if n = 0 then (true, done d)
  else if c = 0xFB then
    if n = 3 then (true, done (d.learnRequest s (body % 4096) (ws.getD 1 0) (ws.getD 2 0 % 2 ^ 32) (d.imageOf x.epoch)))
    else (true, done (d.inc R.AE_SINK_BAD s 1))
  else if c = 0xFC then
    if 2 ≤ n then (true, done (d.post (body % 4) 3 4 (packFields [(0, 4, n - 1), (4, 3, s)]) ((ws.drop 1).flatMap (leBytes 8))))
    else (true, done (d.inc R.AE_SINK_BAD s 1))
  else if d.chanFree s c < n then (false, d)
  else
    let h := packFields [(63, 1, 1), (58, 4, n - 1), (48, 8, t), (0, 44, body)]
    (true, done (d.chanPush s c (h :: ws.drop 1) none))

/-! ## Views -/

def ThrState.code : ThrState → Nat
  | .disabled => 0 | .run => 1 | .idle => 2 | .blkRd => 3 | .blkWr => 4 | .blkShare => 5 | .waiting => 6 | .stopped => 7 | .faulted => 8

/-- AE_THR_STATUS (R348). STAGE_CHAN reads 0 while no word is staged (DEDUCED, log 73). -/
def Dev.thrStatus (d : Dev) (s t : Nat) : Nat :=
  let x := d.thr s t
  packFields [(0, 4, x.st.code), (4, 2, (d.recOf s t).prio), (6, 1, b2n x.inTrap), (7, 1, b2n x.bpHit), (8, 5, x.held), (13, 5, x.staged.length),
    (18, 8, if x.staged = [] then 0 else x.stageChan), (26, 4, x.epoch), (30, 1, b2n x.sigpend), (31, 1, b2n x.timer.isSome)]

def Dev.thrFaultReg (d : Dev) (s t : Nat) : Nat :=
  let x := d.thr s t
  packFields [(0, 6, x.faultCause), (6, 1, b2n x.faultHandled), (16, 16, x.faultPc)]

def Dev.thrUse (d : Dev) (s t : Nat) : Nat := packFields [(0, 16, d.charged s t), (16, 11, d.outHeld s t)]

def Dev.engStatus (d : Dev) (s e : Nat) : Nat :=
  (List.range 8).foldl (fun v i =>
    let x := d.thr s (e * 8 + i)
    v + b2n (decide (x.st = .idle)) * 2 ^ i + b2n (x.blocked || decide (x.st = .waiting)) * 2 ^ (8 + i)
      + b2n (decide (x.st = .stopped)) * 2 ^ (16 + i) + b2n (decide (x.st = .faulted)) * 2 ^ (24 + i)) 0

def Dev.engWd (d : Dev) (s e : Nat) : Nat := packFields [(0, 1, b2n (d.dogCond s e)), (1, 1, b2n (d.dog s e).fired)]

/-- Readers that wait on a channel. -/
def Dev.waiters (d : Dev) (s c : Nat) : List Nat :=
  (List.range 256).filter (fun t => let x := d.thr s t
    (decide (x.st = .blkRd) || decide (x.st = .idle)) && decide (x.rdChan = c))

/-- AE_CHAN_STATUS (R349). The miller's channel 0xFE holds 16 words and is always in service (R326; DEDUCED, log 74). -/
def Dev.chanStatus (d : Dev) (s c : Nat) : Nat :=
  let x := d.chan s c
  let own := decide (c = 0xFE)
  packFields [(0, 5, x.words), (5, 5, x.msgs.length), (10, 5, if own then 16 else x.cap), (15, 1, b2n (own || x.en)),
    (16, 1, b2n x.cfgDue), (17, 8, (d.waiters s c).length)]

end Sys2Proof.Machine
end

