-- ==== Sys2Proof/Machine/AeOps.lean ====
section
/-! DEFINITION. Microwords: fetch, the check before issue, one definition per operation of R298, and what follows an
operation's outcome (R292 to R298, R303 to R322, R337, R343). MMRD and MMWR are in `Machine/AeBridge.lean`. -/
namespace Sys2Proof.Machine

/-! ## Issue -/

/-- What an operation sees: slice, thread, microword, and the values of gA, of operand B and of gD. -/
structure AeIn where
  s : Nat
  t : Nat
  m : Mw
  a : Nat
  b : Nat
  dv : Nat
  deriving DecidableEq, Repr

/-- What an operation comes to: PC + 1, a jump, a state that it has set itself, a fault, a memory error (TS_DETAIL and the
event's DETAIL), a blocked state, or a wait in RUN. -/
inductive AeOut where
  | next
  | goto (pc : Nat)
  | done
  | fault (cause detail : Nat)
  | memErr (detail evDetail : Nat)
  | block (st : ThrState)
  | stay
  deriving DecidableEq, Repr

/-- An operation: its code, the EXT bits that it uses, the registers that it reads, uses that the table forbids, and its effect. -/
structure AeDef where
  code : Nat
  ext : Nat
  needA : Bool
  needB : Bool
  needD : Bool
  bad : Mw → Bool
  run : AeIn → Dev → AeOut × Dev

/-- OP values of R298. -/
def aeOps : List Nat := [0x00, 0x01, 0x02, 0x03, 0x04, 0x05, 0x06, 0x07, 0x08, 0x09, 0x0A, 0x0B, 0x0C, 0x0D, 0x10, 0x11, 0x12, 0x13, 0x14,
  0x18, 0x19, 0x1A, 0x20, 0x21, 0x22, 0x23, 0x24, 0x28, 0x29, 0x2A, 0x2B, 0x2C, 0x2D, 0x2E, 0x30, 0x31, 0x32, 0x33, 0x34, 0x35, 0x36,
  0x37, 0x38, 0x39, 0x3A]

/-- A microword with no operation of its own: an OP value outside R298, or a TCTL operation outside R329. -/
def Mw.undefined (m : Mw) : Bool :=
  !aeOps.contains m.op || (decide (m.op = 0x33) && (decide (m.ext % 16 = 0) || decide (6 < m.ext % 16)))

/-- The microword at an address of a thread's fetch bank, with the patch overlay over it (R340). -/
def Dev.mwAt (d : Dev) (s e pc : Nat) : Nat :=
  match SMap.get none d.ae.overlay ((s * 2 + e % 2) * 65536 + pc) with
  | some w => w
  | none => aeWord (d.imageOf e) s pc

/-- A thread's fetch bank is no longer live: it moves before it issues (R335). -/
def Dev.needsMove (d : Dev) (s t : Nat) : Bool :=
  let x := d.thr s t
  d.epochs.run.isSome && decide (d.epochs.run ≠ some x.epoch) && decide (d.epochs.old ≠ some x.epoch)

/-- A breakpoint matches a thread's next microword (R337, R350). -/
def Dev.breakAt (d : Dev) (s t : Nat) : Bool :=
  let x := d.thr s t
  !d.policy 1 && !x.bpPass && (List.range 4).any (fun b =>
    let v := d.rd R.AE_DBG_BP (s * 4 + b)
    decide (fld v 31 1 = 1) && decide (fld v 0 16 = x.pc) && (decide (fld v 24 1 = 1) || decide (fld v 16 8 = t)))

/-- A thread stops at a microword boundary. -/
def Dev.stopAt (d : Dev) (s t : Nat) (bp : Bool) : Dev :=
  (d.modThr s t (fun x => { x with st := .stopped, stepping := false, bpHit := bp, stallPosted := false, since := d.now })).dogCheck s t

/-- A thread stands at a microword boundary, ready to issue as far as the array sees. -/
def Dev.atBoundary (d : Dev) (s t : Nat) : Bool :=
  let x := d.thr s t
  decide (x.st = .run) && !x.fldWait && !d.needsMove s t

/-! ## Which thread issues (R292, R293) -/

/-- Core clocks until the result of an operation is available to its thread (R293); 1 where the rule names none. -/
def mwClocks (op : Nat) : Nat :=
  match op with
  | 0x0B | 0x10 | 0x11 | 0x12 | 0x13 => 3
  | 0x23 => 2
  | 0x18 | 0x1A | 0x20 | 0x21 => 4
  | 0x28 => 96
  | _ => 1

/-- A thread is ready whatever its next microword needs: it stands in RUN at a boundary and the results of its last one are there. -/
def Dev.surelyReady (d : Dev) (s t : Nat) : Bool :=
  d.atBoundary s t && !d.breakAt s t && decide ((SMap.get {} d.ae.issue (s * 256 + t)).ready ≤ d.now)

/-- Thread `u` has the slot before thread `t`: the higher PRIO, or the same and an older last issue. -/
def Dev.outranks (d : Dev) (s u t : Nat) : Bool :=
  let pu := (d.recOf s u).prio
  let pt := (d.recOf s t).prio
  decide (pt < pu) || (decide (pu = pt)
    && decide ((SMap.get {} d.ae.issue (s * 256 + u)).order < (SMap.get {} d.ae.issue (s * 256 + t)).order))

/-- Another thread of the engine has the issue slot. A thread that may still wait for an operand takes it from nobody: whether its
next microword needs that operand is timing (DESIGN CHOICE, log 48). -/
def Dev.slotTaken (d : Dev) (s t : Nat) : Bool :=
  (List.range 8).any (fun k => let u := engOf t * 8 + k; decide (u ≠ t) && d.surelyReady s u && d.outranks s u t)

/-- A memory error at a microword (R343). -/
def Dev.aeMemErr (d : Dev) (s t detail evDetail : Nat) : Dev :=
  let pc := (d.thr s t).pc
  ((d.inc R.AE_MEM_ERRS s 1).aeEvent s 7 t 0 false pc evDetail).aeFault s t 0x0B detail

/-- What follows a microword: its slot's class, the end of a STEP, an interrupt that waits, the watchdog. -/
def Dev.afterMw (d : Dev) (s t pc : Nat) (retired : Bool) : Dev :=
  let d := if retired then d.aeRetired s t pc else d.aeWasted s t pc
  let x := d.thr s t
  let d := if x.stepping && decide (x.st = .run) then d.stopAt s t false else d
  (d.irqCheck s t).dogCheck s t

/-- The outcome of an operation takes effect; the thread is in RUN. -/
def Dev.aeOutcome (d : Dev) (s t : Nat) (o : AeOut) : Dev :=
  let pc := (d.thr s t).pc
  match o with
  | .next => (d.modThr s t (fun x => { x with pc := (x.pc + 1) % 65536 })).afterMw s t pc true
  | .goto p => (d.modThr s t (fun x => { x with pc := p % 65536 })).afterMw s t pc true
  | .done => d.afterMw s t pc true
  | .fault c v => (d.aeFault s t c v).afterMw s t pc false
  | .memErr v e => (d.aeMemErr s t v e).afterMw s t pc false
  | .block st => ((d.modThr s t (fun x => { x with st := st, since := d.now })).irqCheck s t).dogCheck s t
  | .stay => d.modThr s t (fun x => { x with fldWait := true })

/-- An uncorrectable register or buffer cell met by a microword (R343): the details name its control store address, the one form
of R322 and R327 that fits (DEDUCED, log 163). -/
def AeIn.pcMemErr (i : AeIn) (d : Dev) : AeOut := .memErr (d.thr i.s i.t).pc (d.thr i.s i.t).pc

/-- Operands of an operation (R295); true where a register read met an uncorrectable error. The channel operations 0x20 to
0x24 read gA only with IND. -/
def AeDef.operands (f : AeDef) (s t : Nat) (m : Mw) (d : Dev) : Bool × AeIn × Dev :=
  let (ua, a, d) := if f.needA && (decide (m.op / 8 ≠ 4) || m.bit 0) then d.aeReg s t m.a else (false, 0, d)
  let (ub, b, d) := if m.bi then (false, m.imm, d) else if f.needB then d.aeReg s t m.b else (false, 0, d)
  let (ud, dv, d) := if f.needD then d.aeReg s t m.d else (false, 0, d)
  (ua || ub || ud, ⟨s, t, m, a, b, dv⟩, d)

/-- An operation executes: forbidden uses, operands, effect. -/
def AeDef.exec (f : AeDef) (s t : Nat) (m : Mw) (d : Dev) : AeOut × Dev :=
  if m.undefined ∨ m.rsv ≠ 0 ∨ (m.ext &&& (f.ext ^^^ 0xFFFF)) ≠ 0 ∨ f.bad m = true then (.fault 0x01 (m.raw % 2 ^ 32), d)
  else
    match f.operands s t m d with
    | (true, i, d) => (i.pcMemErr d, d)
    | (false, i, d) => f.run i d

/-- The next microword of a thread issues, if `takes` says that it is this operation's (R292, R296, R343). -/
def Dev.aeIssue (d0 : Dev) (takes : Mw → Bool) (f : AeDef) (s t : Nat) : Dev :=
  if (d0.slc s).st ≠ .run ∨ d0.atBoundary s t = false ∨ d0.slotTaken s t = true then d0
  else
    let x := d0.thr s t
    if d0.breakAt s t then (if takes (mwOf (d0.mwAt s x.epoch x.pc)) then d0.stopAt s t true else d0)
    else
      let (ue, d) := d0.memCheck 0x0B (unitOf s 0 0 0 (x.epoch % 2) 0) x.pc
      let m := mwOf (d.mwAt s x.epoch x.pc)
      if !ue && !takes m then d0
      else
        let d := (((d.aeIssued s t x.pc).issuesLast s t).readyIn s t (if predHolds x m.pred then mwClocks m.op else 1)).setThr s t
          { x with bpPass := false }
        if ue then d.aeOutcome s t (.memErr x.pc x.pc)
        else if 14 ≤ m.pred then d.aeOutcome s t (.fault 0x01 (m.raw % 2 ^ 32))
        else if !predHolds x m.pred then (d.setThr s t { x with bpPass := false, pc := (x.pc + 1) % 65536 }).afterMw s t x.pc false
        else
          let (o, d) := f.exec s t m d
          d.aeOutcome s t o

/-- The microword is operation `f`'s. -/
def AeDef.takes (f : AeDef) (m : Mw) : Bool := decide (m.op = f.code)

/-- A thread issues its next microword if it is this operation. -/
def Dev.aeRow (d : Dev) (f : AeDef) (s t : Nat) : Dev := d.aeIssue f.takes f s t

/-! ## ALU operations (R297, R298) -/

/-- An ALU operation's result and, where the spec gives them, C and V. -/
structure AluRes where
  val : Nat
  c : Option Bool
  v : Option Bool

/-- Flags of an ALU result: C and V that the spec does not state are free values (log 41). -/
def Dev.aluFlags (d : Dev) (s t : Nat) (r : AluRes) : Dev :=
  let (c, d) := match r.c with | some c => (c, d) | none => let (n, d) := d.free 1; (decide (n = 1), d)
  let (v, d) := match r.v with | some v => (v, d) | none => let (n, d) := d.free 1; (decide (n = 1), d)
  d.modThr s t (fun x => { x with z := decide (r.val % 2 ^ 64 = 0), n := decide (fld r.val 63 1 = 1), c := c, v := v })

/-- An ALU operation: gD takes the result, with SF the flags follow it. -/
def alu (code ext : Nat) (needA needD : Bool) (f : AeIn → AluRes) : AeDef :=
  { code := code, ext := ext, needA := needA, needB := true, needD := needD, bad := fun _ => false
    run := fun i d =>
      let r := f i
      let d := d.setReg i.s i.t i.m.d (r.val % 2 ^ 64)
      (.next, if i.m.sf then d.aluFlags i.s i.t r else d) }

/-- gA − B with its flags (R297). -/
def subRes (a b : Nat) : AluRes :=
  let r := (a + 2 ^ 64 - b) % 2 ^ 64
  ⟨r, some (decide (b ≤ a)), some (decide (fld a 63 1 ≠ fld b 63 1) && decide (fld a 63 1 ≠ fld r 63 1))⟩

/-- gA + B with carry and signed overflow. -/
def addRes (a b : Nat) : AluRes :=
  let r := (a + b) % 2 ^ 64
  ⟨r, some (decide (2 ^ 64 ≤ a + b)), some (decide (fld a 63 1 = fld b 63 1) && decide (fld a 63 1 ≠ fld r 63 1))⟩

/-- A result whose C and V the spec does not state. -/
def plainRes (n : Nat) : AluRes := ⟨n, none, none⟩

def aeMovDef : AeDef := alu 0x01 0 false false (fun i => plainRes i.b)
def aeAddDef : AeDef := alu 0x02 0 true false (fun i => addRes i.a i.b)
def aeSubDef : AeDef := alu 0x03 0 true false (fun i => subRes i.a i.b)
def aeAndDef : AeDef := alu 0x04 0 true false (fun i => plainRes (i.a &&& i.b))
def aeOrDef : AeDef := alu 0x05 0 true false (fun i => plainRes (i.a ||| i.b))
def aeXorDef : AeDef := alu 0x06 0 true false (fun i => plainRes (i.a ^^^ i.b))
def aeShlDef : AeDef := alu 0x07 0 true false (fun i => plainRes (i.a * 2 ^ (i.b % 64)))
def aeShrDef : AeDef := alu 0x08 0 true false (fun i => plainRes (i.a / 2 ^ (i.b % 64)))
def aeSarDef : AeDef := alu 0x09 0 true false (fun i => plainRes (ofInt 64 (sext 64 i.a / 2 ^ (i.b % 64))))
def aeMulDef : AeDef := alu 0x0B 0 true false (fun i => plainRes (i.a * i.b))
def aeBfxDef : AeDef :=
  { alu 0x0C 0xFFF true false (fun i => plainRes (fld i.a (i.m.ext % 64) (fld i.m.ext 6 6 + 1))) with needB := false }
def aeBfiDef : AeDef := alu 0x0D 0xFFF true true (fun i => plainRes (putFld i.dv (i.m.ext % 64) (fld i.m.ext 6 6 + 1) i.b))

/-- CMP: the flags of gA − B; no register is written. -/
def aeCmpDef : AeDef :=
  { code := 0x0A, ext := 0, needA := true, needB := true, needD := false, bad := fun _ => false
    run := fun i d => (.next, d.aluFlags i.s i.t (subRes i.a i.b)) }

/-- NOP. -/
def aeNopDef : AeDef := ⟨0x00, 0, false, false, false, fun _ => false, fun _ d => (.next, d)⟩

/-! ## Branches (R298) -/

def aeBrDef : AeDef := ⟨0x10, 0, false, false, false, fun _ => false, fun i d => (.goto i.m.tgt, d)⟩

def aeCallDef : AeDef := ⟨0x11, 0, false, false, false, fun _ => false, fun i d =>
  let x := d.thr i.s i.t
  if 8 ≤ x.stack.length then (.fault 0x0C x.stack.length, d)
  else (.goto i.m.tgt, d.setThr i.s i.t { x with stack := (x.pc + 1) % 65536 :: x.stack })⟩

def aeRetDef : AeDef := ⟨0x12, 0, false, false, false, fun _ => false, fun i d =>
  let x := d.thr i.s i.t
  match x.stack with
  | [] => (.fault 0x0C 0, d)
  | p :: ps => (.goto p, d.setThr i.s i.t { x with stack := ps })⟩

def aeBrxDef : AeDef := ⟨0x13, 0, true, false, false, fun _ => false, fun i d => (.goto (i.a % 65536), d)⟩

/-- YIELD: the thread counts as having issued most recently (R292). -/
def aeYieldDef : AeDef := ⟨0x14, 0, false, false, false, fun _ => false, fun i d => (.next, d.issuesLast i.s i.t)⟩

/-! ## Scratch memory (R291, R298, R343) -/

def Dev.scratch (d : Dev) (s t w : Nat) : Nat := (SMap.get 0 d.ae.scratch ((s * 32 + engOf t) * 4096 + w)).toNat
def Dev.setScratch (d : Dev) (s t w v : Nat) : Dev :=
  let d := d.memWritten 0x0C (engUnit s t) w
  { d with ae := { d.ae with scratch := SMap.set 0 d.ae.scratch ((s * 32 + engOf t) * 4096 + w) (BitVec.ofNat 64 v) } }

/-- Word that (gA + TGT) mod 32,768 addresses. -/
def AeIn.word (i : AeIn) : Nat := (i.a + i.m.tgt) % 32768 / 8

def aeLdDef : AeDef := ⟨0x18, 0, true, false, false, fun _ => false, fun i d =>
  match d.memCheck 0x0C (engUnit i.s i.t) i.word with
  | (true, d) => (.memErr (i.word * 8) (i.word + 2 ^ 16), d)
  | (false, d) => (.next, d.setReg i.s i.t i.m.d (d.scratch i.s i.t i.word))⟩

def aeStDef : AeDef := ⟨0x19, 0, true, true, false, fun _ => false, fun i d => (.next, d.setScratch i.s i.t i.word i.b)⟩

def aeAtomDef : AeDef := ⟨0x1A, 0, true, true, false, fun _ => false, fun i d =>
  match d.memCheck 0x0C (engUnit i.s i.t) i.word with
  | (true, d) => (.memErr (i.word * 8) (i.word + 2 ^ 16), d)
  | (false, d) =>
    let v := d.scratch i.s i.t i.word
    (.next, (d.setReg i.s i.t i.m.d v).setScratch i.s i.t i.word (v + i.b))⟩

/-! ## Channels (R303 to R307) -/

/-- Channel of a channel operation: TGT[7:0], or gA[7:0] with IND. -/
def AeIn.chanNo (i : AeIn) : Nat := if i.m.bit 0 then i.a % 256 else i.m.tgt % 256

/-- A read of a channel that faults CHAN_ACCESS (R303). -/
def Dev.readDenied (d : Dev) (s t c : Nat) (blocking : Bool) : Bool :=
  if c = 0xFE then decide (t ≠ 7)
  else if 0xF8 ≤ c then true
  else decide (fld (d.chan s c).readers (engOf t) 1 = 0) || (blocking && !(d.chan s c).en)

/-- A waiting reader of at least this thread's PRIO comes first for the head (R308). -/
def Dev.headTaken (d : Dev) (s t c : Nat) : Bool :=
  (d.waiters s c).any (fun w => decide ((d.recOf s t).prio ≤ (d.recOf s w).prio))

/-- Why a read that issues takes no message: 0 it takes the head. -/
def Dev.readReason (d : Dev) (s t c : Nat) (idle : Bool) : Nat :=
  if c ≠ 0xFE ∧ (d.chan s c).en = false then 2
  else if d.headTaken s t c then 1
  else d.headReason s t c idle

/-- D of a non-idle read must be 1 to 16 (R307). -/
def badReadD (m : Mw) : Bool := decide (m.d = 0) || decide (16 < m.d)

def aeChrdDef : AeDef := ⟨0x20, 0x3, true, false, false, fun m => !m.bit 1 && badReadD m, fun i d =>
  let c := i.chanNo
  let idle := i.m.bit 1
  if d.readDenied i.s i.t c true then (.fault 0x03 c, d)
  else match d.readReason i.s i.t c idle with
    | 0 => (.done, d.deliver i.s i.t c idle i.m.d)
    | 1 => (.block (if idle then .idle else .blkRd), d.modThr i.s i.t (fun x => { x with rdChan := c, rdDst := i.m.d }))
    | 2 => (.fault 0x03 c, d)
    | 3 => (.fault 0x08 c, d)
    | _ => (.fault 0x07 c, d)⟩

def aeChrdnbDef : AeDef := ⟨0x21, 0x1, true, false, false, badReadD, fun i d =>
  let c := i.chanNo
  if d.readDenied i.s i.t c false then (.fault 0x03 c, d)
  else match d.readReason i.s i.t c false with
    | 0 => (.done, d.deliver i.s i.t c false i.m.d)
    | r => (.next, (d.setReg i.s i.t i.m.d r).modThr i.s i.t (fun x => { x with x := true }))⟩

/-- A write to a channel that faults CHAN_ACCESS (R303). -/
def writeDenied (c : Nat) : Bool := (decide (0xF8 ≤ c) && decide (c ≤ 0xFA)) || decide (0xFD ≤ c)

/-- Staged words exceed their channel's CAP (R306). -/
def Dev.tooLong (d : Dev) (s c n : Nat) : Bool := decide (c < 0xF8) && decide ((d.chan s c).cap < n)

/-- The staged words are committed or the thread blocks; `own` marks the word that a CHWR with SEND staged. -/
def Dev.sendStaged (d : Dev) (s t : Nat) (own : Bool) : AeOut × Dev :=
  match d.commit s t with
  | (true, d) => (.next, d)
  | (false, d) => (.block .blkWr, d.modThr s t (fun x => { x with sendWaits := true, sendOwn := own }))

def aeChwrDef : AeDef := ⟨0x22, 0x5, true, true, false, fun _ => false, fun i d =>
  let c := i.chanNo
  let x := d.thr i.s i.t
  let n := x.staged.length + 1
  if writeDenied c then (.fault 0x03 c, d)
  else if x.staged ≠ [] ∧ x.stageChan ≠ c then (.fault 0x04 x.stageChan, d)
  else if 16 < n ∨ (i.m.bit 2 = true ∧ d.tooLong i.s c n = true) then (.fault 0x05 c, d)
  else
    let d := d.setThr i.s i.t { x with staged := x.staged ++ [BitVec.ofNat 64 i.b], stageChan := c }
    if i.m.bit 2 then d.sendStaged i.s i.t true else (.next, d)⟩

def aeChsendDef : AeDef := ⟨0x23, 0x1, true, false, false, fun _ => false, fun i d =>
  let x := d.thr i.s i.t
  if writeDenied i.chanNo then (.fault 0x03 i.chanNo, d)
  else if x.staged = [] then (.next, d)
  else if d.tooLong i.s x.stageChan x.staged.length then (.fault 0x05 x.stageChan, d)
  else d.sendStaged i.s i.t false⟩

def aeChdiscDef : AeDef := ⟨0x24, 0, false, false, false, fun _ => false, fun i d =>
  (.next, d.modThr i.s i.t (fun x => { x with staged := [] }))⟩

/-! ## Frames and cells (R311 to R316, R319) -/

/-- Slot of a frame operation. -/
def Mw.slot (m : Mw) : Nat := m.ext % 16
/-- Bytes of FLD and FST. -/
def Mw.count (m : Mw) : Nat := fld m.ext 4 4 + 1

/-- Uses of FLD and FST that R313 forbids: more than 8 bytes, a slot with CELL. -/
def badCell (m : Mw) : Bool := decide (8 < m.count) || (m.bit 8 && decide (m.slot ≠ 0))

/-- The cell and first byte that a CELL access names, or its fault (R313, R319). -/
def Dev.cellPlace (d : Dev) (i : AeIn) : Sum AeOut (Nat × Nat) :=
  let c := fld i.a 8 20
  let o := i.a % 256 + i.m.tgt
  let r := d.cellRec c
  if cellCount ≤ c ∨ r.alloc = false ∨ r.owner ≠ partyThread i.s i.t then .inl (.fault 0x06 c)
  else if 256 < o + i.m.count then .inl (.fault 0x09 o)
  else .inr (c, o)

/-- `n` bytes of a cell from `o`; bytes never written read 0 (DESIGN CHOICE, log 38). -/
def cellBytes (bs : List Byte) (o n : Nat) : List Byte := (List.range n).map (fun k => (bs.drop (o + k)).headD 0)

/-- The cells of a frame that bytes `lo` to `hi` lie in are read for errors. -/
def Dev.checkCells (d : Dev) (f : Frame) (lo hi : Nat) : Bool × Dev :=
  f.cells.zipIdx.foldl (fun r e =>
    if lo / 256 ≤ e.2 ∧ e.2 ≤ hi / 256 then
      let (_, ue, d) := r.2.readCell e.1
      (r.1 || ue, d)
    else r) (false, d)

/-- Frame-space offset of FLD and FST. -/
def AeIn.offset (i : AeIn) : Nat := (i.a + i.m.tgt) % 2 ^ 64

def aeFldDef : AeDef := ⟨0x28, 0x1FF, true, false, false, badCell, fun i d =>
  let n := i.m.count
  let set := fun (d : Dev) (bs : List Byte) => (AeOut.next, d.setReg i.s i.t i.m.d (beNat bs))
  if i.m.bit 8 then
    match d.cellPlace i with
    | .inl o => (o, d)
    | .inr (c, o) =>
      match d.readCell c with
      | (_, true, d) => (i.pcMemErr d, d)
      | (bs, false, d) => set d (cellBytes bs o n)
  else match d.slotFrame i.s i.t i.m.slot with
    | none => (.fault 0x06 i.m.slot, d)
    | some (_, f) =>
      let o := i.offset
      if 64 + 16382 < o + n - 1 then (.fault 0x09 o, d)
      else
        let last := o + n - 65
        if 64 < o + n ∧ f.bufWhole = true ∧ f.arrLen ≤ last then (.fault 0x09 o, d)
        else if 64 < o + n ∧ (d.arrBytes f).length ≤ last then (.stay, d)
        else
          let (ue, d) := if 64 < o + n then d.checkCells f (o - 64) last else (false, d)
          if ue then (i.pcMemErr d, d) else set d (slice (f.spaceHead ++ d.arrBytes f) o n)⟩

/-- Cells that a frame of the array of length `n` takes: at least one. -/
def arrCells (n : Nat) : Nat := max 1 (ceilDiv n 256)

/-- A frame of the array takes a new content of `n` bytes or more cells for it (R313, R314): the frame with its cells,
or what the thread meets. Cells beyond the new length are freed. -/
def Dev.arrResize (d : Dev) (s t : Nat) (f : Frame) (n : Nat) : Sum AeOut Frame × Dev :=
  let want := arrCells n
  let have_ := f.cells.length
  if want ≤ have_ then (.inr { f with cells := f.cells.take want }, d.askFrees (f.cells.drop want))
  else match d.shareFor s t (want - have_) with
    | .above => (.inl (.fault 0x0A (d.charged s t)), d)
    | .wait => (.inl (.block .blkShare), d)
    | .ok =>
      if d.freeCells < want - have_ then (.inl (.block .blkShare), d)
      else match d.arrAlloc s t (want - have_) [] with
        | (none, d) => (.inl (.block .blkShare), d)
        | (some cs, d) => (.inr { f with cells := f.cells ++ cs }, d)

/-- A store into bytes 20 to 31 of a frame space: USER of the tag (R313). -/
def Tag.storeUser (t : Tag) (o : Nat) (bs : List Byte) : Tag :=
  let w := spliceAt t.bytes o bs
  { t with user0 := leAt w 20 4, user1 := leAt w 24 4, user2 := leAt w 28 4 }

def aeFstDef : AeDef := ⟨0x29, 0x1FF, true, true, false, badCell, fun i d =>
  let n := i.m.count
  let bs := beBytes n i.b
  if i.m.bit 8 then
    match d.cellPlace i with
    | .inl o => (o, d)
    | .inr (c, o) =>
      match d.readCell c with
      | (_, true, d) => (i.pcMemErr d, d)
      | (old, false, d) => (.next, d.writeCell c (spliceAt (cellBytes old 0 256) o bs))
  else match d.slotFrame i.s i.t i.m.slot with
    | none => (.fault 0x06 i.m.slot, d)
    | some (fid, f) =>
      let o := i.offset
      if 64 + 16382 < o + n - 1 ∨ f.bufWhole = false ∨ o < 20 ∨ (32 < o + n ∧ o < 64) then (.fault 0x09 o, d)
      else if o < 64 then (.next, d.setFrame fid { f with tag := f.tag.storeUser o bs })
      else
        let at_ := o - 64
        let len := f.arrLen
        let (ue, d) := d.checkCells f (min at_ len) (at_ + n - 1)
        if ue then (i.pcMemErr d, d)
        else
          let old := d.arrBytes f
          let data := spliceAt (old ++ List.replicate (at_ - len) 0) at_ bs
          if at_ + n ≤ len then (.next, d.arrWrite fid f data (at_ / 256) ((at_ + n - 1) / 256))
          else match d.arrResize i.s i.t f (at_ + n) with
            | (.inl o, d) => (o, d)
            | (.inr f, d) => (.next, d.arrWrite fid f data (min at_ len / 256) f.cells.length)⟩

/-- A cell for a thread, or what it meets (R314): with WAIT 0 an empty common part sets X and changes nothing. -/
def Dev.oneCell (d : Dev) (i : AeIn) (owner : Nat) : Sum (AeOut × Dev) (Nat × Dev) :=
  let wait := fun (d : Dev) =>
    if i.m.bit 8 then (AeOut.block .blkShare, d) else (AeOut.next, d.modThr i.s i.t (fun x => { x with x := true }))
  match d.shareFor i.s i.t 1 with
  | .above => .inl (.fault 0x0A (d.charged i.s i.t), d)
  | .wait => .inl (wait d)
  | .ok => match d.allocCell (some 14) 1 owner none (chargeOf i.s i.t) with
    | (none, d) => .inl (wait d)
    | (some c, d) => .inr (c, d.modThr i.s i.t (fun x => { x with x := false }))

def aeFallocDef : AeDef := ⟨0x2A, 0x10F, false, false, false, fun _ => false, fun i d =>
  if SMap.get 0 (d.thr i.s i.t).slots i.m.slot ≠ 0 then (.fault 0x06 i.m.slot, d)
  else match d.oneCell i partyFrame with
    | .inl r => r
    | .inr (c, d) =>
      let fid := d.nextFid
      let f : Frame := {
        src := .aeRet, slice := i.s, place := .array, arrival := d.arrivals, whole := true, dest := .array 0, sentLast := true
        cells := [c], nCells := 1, fate := .admitted, pool := 14, bufWhole := true, steered := true }
      let d := { d with nextFid := fid + 1, arrivals := d.arrivals + 1 }
      let d := d.arrWrite fid f [] 0 0
      (.next, d.modThr i.s i.t (fun x => { x with slots := SMap.set 0 x.slots i.m.slot (fid + 1) }))⟩

/-- FLEN: bytes that it adds are free values (log 49); cells beyond the new length are freed. -/
def aeFlenDef : AeDef := ⟨0x2C, 0xF, false, true, false, fun _ => false, fun i d =>
  match d.slotFrame i.s i.t i.m.slot with
  | none => (.fault 0x06 i.m.slot, d)
  | some (fid, f) =>
    if f.bufWhole = false ∨ 16383 < i.b then
      let (v, d) := d.free 32
      (.fault 0x09 v, d)
    else
      let len := f.arrLen
      let old := d.arrBytes f
      match d.arrResize i.s i.t f i.b with
      | (.inl o, d) => (o, d)
      | (.inr f, d) =>
        let (more, d) := (List.range (i.b - len)).foldl (fun (r : List Byte × Dev) _ =>
          let (v, d) := r.2.free 8
          (r.1 ++ [BitVec.ofNat 8 v], d)) ([], d)
        (.next, d.arrWrite fid f (old.take i.b ++ more) (min len i.b / 256) f.cells.length)⟩

/-- Cells of a frame leave the charge of the array (R314). -/
def Dev.uncharge (d : Dev) (f : Frame) : Dev := f.cells.foldl (fun d c => d.setCellRec c { d.cellRec c with charge := 0 }) d

/-- The frame that a slow-path return offers to its pipeline (R31, R316, R317): its bytes are read from its cells, the
cells are freed, and bytes still to come will follow it. -/
def Dev.arrReturn (d : Dev) (s t fid : Nat) (f : Frame) (pipe lport : Nat) : Dev :=
  let (bad, d) := f.cells.foldl (fun (r : Bool × Dev) c =>
    let (_, ue, d) := r.2.readCell c
    (r.1 || ue, d)) (false, d)
  let bytes := f.cells.flatMap (fun c => SMap.get [] d.buf.data c)
  let g := d.nextFid
  let x : Frame := {
    src := .aeRet, lport := if f.hasTag then f.tag.lport else lport, slice := s, pipe := pipe, place := .offered, arrival := d.arrivals
    bytes := bytes, whole := f.bufWhole, bad := if f.bufBad ≠ 0 then f.bufBad else if bad then 6 else 0
    hasTag := f.hasTag, tag := f.tag, outThr := t }
  let d := { d with nextFid := g + 1, arrivals := d.arrivals + 1 }
  let d := ((d.uncharge f).askFrees f.cells).setFrame g x
  let d := if f.bufWhole then d.dropFrame fid else d.setFrame fid { f with hasTag := false, cells := [], fwd := some g }
  let i := s * 4 + pipe
  d.setIsa i { d.isa i with aeRet := (d.isa i).aeRet ++ [g] }

/-- A frame that FSEND punts (R316, R518, R524). -/
def Dev.arrPunt (d : Dev) (fid : Nat) (f : Frame) (h : Nat) : Dev :=
  let bytes := f.cells.flatMap (fun c => SMap.get [] d.buf.data c)
  match d.puntEnqueue fid h (if f.bufWhole then f.blen else max f.blen f.total) (amilerType bytes) f.bufWhole with
  | (some x, d) => (d.uncharge f).setFrame fid { f with dest := x, host := h }
  | (none, d) => d.arrDrop fid

def aeFsendDef : AeDef := ⟨0x2B, 0xF, false, true, false, fun _ => false, fun i d =>
  let c := i.m.tgt % 256
  let gone := fun (d : Dev) => d.modThr i.s i.t (fun x => { x with slots := SMap.set 0 x.slots i.m.slot 0 })
  match d.slotFrame i.s i.t i.m.slot with
  | none => (.fault 0x06 i.m.slot, d)
  | some (fid, f) =>
    if 0xFB ≤ c then (.fault 0x03 c, d)
    else if c = 0xFA then (.next, gone (d.arrDrop fid))
    else if c = 0xF8 ∨ c = 0xF9 then
      if !d.outFree i.s i.t then (.block .blkWr, d)
      else if c = 0xF8 then (.next, gone (d.arrReturn i.s i.t fid f (i.b % 4) (fld i.b 4 9)))
      else (.next, gone (d.arrPunt fid f (i.b % 4)))
    else if d.tooLong i.s c 2 then (.fault 0x05 c, d)
    else if d.chanFree i.s c < 2 then (.block .blkWr, d)
    else (.next, gone (d.chanPush i.s c [hwHeader 2 1 i.t 0 - 2 ^ 47, 0] (some fid)))⟩

def aeCallocDef : AeDef := ⟨0x2D, 0x100, false, false, false, fun _ => false, fun i d =>
  match d.oneCell i (partyThread i.s i.t) with
  | .inl r => r
  | .inr (c, d) => (.next, d.setReg i.s i.t i.m.d c)⟩

def aeCfreeDef : AeDef := ⟨0x2E, 0, true, false, false, fun _ => false, fun i d =>
  (.next, d.askFree (i.a % 2 ^ 20) (partyThread i.s i.t))⟩

/-! ## Waiting, timers, signals (R320, R321) -/

/-- A WAIT condition holds. -/
def Dev.waitHolds (d : Dev) (s t cond a b : Nat) : Bool :=
  match cond with
  | 0 => (d.thr s t).expired
  | 1 => (d.thr s t).sigpend
  | 2 => decide ((d.chan s (b % 256)).msgs ≠ [])
  | 3 => decide (b ≤ d.shareAvail s t)
  | 4 => d.outFree s t
  | _ => decide (d.scratch s t (b % 32768 / 8) = a)

/-- The end of a wait by its condition: SIGPEND clears if it was the condition. -/
def Dev.waitEnds (d : Dev) (s t cond : Nat) : Dev :=
  if cond = 1 then d.modThr s t (fun x => { x with sigpend := false }) else d

def aeWaitDef : AeDef := ⟨0x30, 0x1F, true, true, false, fun m => decide (5 < m.ext % 16), fun i d =>
  let c := i.m.ext % 16
  if d.waitHolds i.s i.t c i.a i.b then (.next, d.waitEnds i.s i.t c)
  else (.block .waiting, d.modThr i.s i.t (fun x => { x with waitCond := c, waitA := i.a, waitB := i.b, waitTmo := i.m.bit 4 }))⟩

/-- TMR: B[31:0] core clocks of 1.35 GHz, which is 20/27 ns each. -/
def aeTmrDef : AeDef := ⟨0x31, 1, false, true, false, fun _ => false, fun i d =>
  let n := i.b % 2 ^ 32
  (.next, d.modThr i.s i.t (fun x => { x with
    timer := if n = 0 then none else some (d.now + ceilDiv (n * 20) 27), expired := false, timerInt := i.m.bit 0 }))⟩

def aeSignalDef : AeDef := ⟨0x32, 0, false, true, false, fun _ => false, fun i d => (.next, d.signal i.s (i.b % 256))⟩

/-! ## Traps (R323, R324) -/

/-- A trap save item. -/
def Thread.trapItem (x : Thread) (k : Nat) : Nat :=
  match k with | 0 => x.tsPc | 1 => x.tsFlags | 2 => x.tsCause | 3 => x.tsDetail | 4 => x.tsCsp | _ => 0

/-- A trap save item takes a value of its width. -/
def Thread.setTrapItem (x : Thread) (k v : Nat) : Thread :=
  match k with
  | 0 => { x with tsPc := v % 2 ^ 16 } | 1 => { x with tsFlags := v % 2 ^ 5 } | 2 => { x with tsCause := v % 2 ^ 6 }
  | 3 => { x with tsDetail := v % 2 ^ 32 } | 4 => { x with tsCsp := v % 2 ^ 4 } | _ => x

/-- Location of a debug item of a thread in class 0x0D (R602). -/
def itemLoc (t item : Nat) : Nat := t % 8 * 64 + item

def aeMftsDef : AeDef := ⟨0x34, 7, false, false, false, fun _ => false, fun i d =>
  let k := i.m.ext % 8
  match (if k < 5 then d.memCheck 0x0D (engUnit i.s i.t) (itemLoc i.t (0x28 + k)) else (false, d)) with
  | (true, d) => (i.pcMemErr d, d)
  | (false, d) => (.next, d.setReg i.s i.t i.m.d ((d.thr i.s i.t).trapItem k))⟩

def aeMttsDef : AeDef := ⟨0x35, 7, false, true, false, fun _ => false, fun i d =>
  let k := i.m.ext % 8
  let d := if k < 5 then d.memWritten 0x0D (engUnit i.s i.t) (itemLoc i.t (0x28 + k)) else d
  (.next, d.modThr i.s i.t (fun x => x.setTrapItem k i.b))⟩

def aeTretDef : AeDef := ⟨0x36, 1, false, false, false, fun _ => false, fun i d =>
  let (u, d) := d.memCheck 0x0D (engUnit i.s i.t) (itemLoc i.t 0x28)
  let (v, d) := d.memCheck 0x0D (engUnit i.s i.t) (itemLoc i.t 0x29)
  if u || v then (i.pcMemErr d, d)
  else
    let x := d.thr i.s i.t
    (.goto (x.tsPc + b2n (i.m.bit 0)), d.setThr i.s i.t { x.setFlags x.tsFlags with inTrap := false })⟩

def aeSwtrapDef : AeDef := ⟨0x37, 0, false, true, false, fun _ => false, fun i d => (.fault 0x1F (i.b % 2 ^ 32), d)⟩

/-- TIME. -/
def aeTimeDef : AeDef := ⟨0x3A, 0, false, false, false, fun _ => false, fun i d =>
  (.next, d.setReg i.s i.t i.m.d (d.time.secs % 2 ^ 32 * 2 ^ 32 + d.time.ns))⟩

/-! ## Operations that a later row takes up again -/

/-- The operation of a microword that may block or wait and is then executed again. -/
def resumed (op : Nat) : AeDef :=
  match op with
  | 0x28 => aeFldDef | 0x29 => aeFstDef | 0x2A => aeFallocDef | 0x2B => aeFsendDef | 0x2C => aeFlenDef | 0x2D => aeCallocDef
  | _ => aeNopDef

/-- A blocked microword is taken up again (R294, R313 to R315): if it must still wait nothing has changed. -/
def Dev.aeResume (d0 : Dev) (s t : Nat) (ops : List Nat) : Dev :=
  let x := d0.thr s t
  let m := mwOf (d0.mwAt s x.epoch x.pc)
  if !ops.contains m.op then d0
  else
    let d := d0.setThr s t { x with st := .run, fldWait := false }
    match (resumed m.op).exec s t m d with
    | (.block _, _) => d0
    | (.stay, _) => d0
    | (o, d) => d.aeOutcome s t o

end Sys2Proof.Machine
end

