-- ==== Sys2Proof/Machine/AeCtl.lean ====
section
/-! DEFINITION. Control of threads and channels, the miller, the watchdog, patches and the debug window (R294, R308, R310,
R313 to R315, R320, R321, R327 to R332, R335 to R342, R350). -/
namespace Sys2Proof.Machine

/-! ## Thread control (R294, R329, R337, R338) -/

/-- STOP: a thread stops; a blocked microword is abandoned and PC names it. -/
def Dev.thrStop (d : Dev) (s t : Nat) : Dev :=
  match (d.thr s t).st with
  | .disabled | .faulted | .stopped => d
  | _ => (d.abandon s t).stopAt s t false

/-- RESUME or STEP of a stopped thread: it passes a breakpoint at its PC. -/
def Dev.thrRun (d : Dev) (s t : Nat) (step : Bool) : Dev :=
  if (d.thr s t).st = .stopped then
    ((d.modThr s t (fun x => { x with st := .run, stepping := step, bpHit := false, bpPass := true })).irqCheck s t).dogCheck s t
  else d

/-- DISCARD_STAGED. -/
def Dev.thrDiscard (d : Dev) (s t : Nat) : Dev :=
  let x := d.thr s t
  ((d.inc R.AE_STAGED_DISCARDS s x.staged.length).setThr s t { x with staged := [], sendWaits := false, sendOwn := false }).dogCheck s t

/-- Raw cells that name a thread as owner are freed (R379). -/
def Dev.orphans (d : Dev) (s t : Nat) : Dev :=
  d.buf.recs.foldl (fun d e =>
    if e.2.alloc = true ∧ e.2.owner = partyThread s t then (d.inc R.BPM_ORPHAN_FREES 0 1).reallyFree e.1 e.2 else d) d

/-- The epoch whose record a thread starts with: the running one if it was DISABLED or its bank is no longer live. -/
def Dev.startEpoch (d : Dev) (s t : Nat) : Nat :=
  let x := d.thr s t
  if x.st = .disabled ∨ d.needsMove s t = true then d.runEpoch else x.epoch

/-- RESTART, or with `off` DISABLE (R294): the timer and SIGPEND stay as they are (DEDUCED, log 50). -/
def Dev.thrRestart (d : Dev) (s t : Nat) (off : Bool) : Dev :=
  let d := d.abandon s t
  let x := d.thr s t
  let fids := x.slots.map (fun e => e.2 - 1)
  let d := (d.inc R.AE_STAGED_DISCARDS s x.staged.length).inc R.AE_RESTART_DROPS s fids.length
  let d := (fids.foldl (fun d f => d.arrDrop f) d).orphans s t
  let e := d.startEpoch s t
  let r := thrRec (d.imageOf e) s t
  let d := d.setThr s t {
    st := if off || !r.en || d.epochs.run.isNone then .disabled else .run, epoch := e, pc := r.entry
    timer := x.timer, expired := x.expired, timerInt := x.timerInt, sigpend := x.sigpend, timerIrq := x.timerIrq, sigIrq := x.sigIrq
    faultCause := x.faultCause, faultHandled := x.faultHandled, faultPc := x.faultPc }
  (d.irqCheck s t).dogCheck s t

/-- Debugger stops are off (FUSE_BOOT_POLICY.AE_DEBUG_DIS, R337): the access is ignored and shown. -/
def Dev.debugOff (d : Dev) (s : Nat) : Dev := d.setFld R.AE_DBG_STATUS s 1 1 1

/-- THR_STOP to THR_SIGNAL: one bit of AE_THR_CMD. -/
def Dev.cmdStop (d : Dev) (s t : Nat) : Dev := if d.policy 1 then d.debugOff s else d.thrStop s t
def Dev.cmdResume (d : Dev) (s t : Nat) : Dev := d.thrRun s t false
def Dev.cmdStep (d : Dev) (s t : Nat) : Dev := if d.policy 1 then d.debugOff s else d.thrRun s t true

/-- A write to AE_THR_CMD: more than one bit set is ignored (R348). -/
def Dev.thrCmd (d : Dev) (s t v : Nat) : Dev :=
  match v % 128 with
  | 1 => d.cmdStop s t
  | 2 => d.cmdResume s t
  | 4 => d.cmdStep s t
  | 8 => d.thrDiscard s t
  | 16 => d.thrRestart s t false
  | 32 => d.thrRestart s t true
  | 64 => d.signal s t
  | _ => d

/-- TCTL (R329): the operation on the target; from any other thread PRIVILEGE; on the miller no effect but X. -/
def aeTctl (op : AeIn → Nat → Dev → Dev) : AeDef := ⟨0x33, 0xF, false, true, false, fun _ => false, fun i d =>
  if i.t ≠ 7 then (.fault 0x02 0, d)
  else if i.b % 256 = 7 then (.next, d.modThr i.s i.t (fun x => { x with x := true }))
  else (.next, op i (i.b % 256) d)⟩

/-- A TCTL row takes the microwords of its operation. -/
def Dev.tctlRow (d : Dev) (sub : Nat) (op : AeIn → Nat → Dev → Dev) (s t : Nat) : Dev :=
  d.aeIssue (fun m => decide (m.op = 0x33) && decide (m.ext % 16 = sub)) (aeTctl op) s t

def tctlStop (i : AeIn) (u : Nat) (d : Dev) : Dev := d.thrStop i.s u
def tctlResume (i : AeIn) (u : Nat) (d : Dev) : Dev := d.thrRun i.s u false
def tctlRestart (i : AeIn) (u : Nat) (d : Dev) : Dev := d.thrRestart i.s u false
def tctlDisable (i : AeIn) (u : Nat) (d : Dev) : Dev := d.thrRestart i.s u true
def tctlDiscard (i : AeIn) (u : Nat) (d : Dev) : Dev := d.thrDiscard i.s u
def tctlRead (i : AeIn) (u : Nat) (d : Dev) : Dev := d.setReg i.s i.t i.m.d (d.thrStatus i.s u)

/-- NOP, and every microword that has no operation (R298: ILLEGAL_OP). -/
def Dev.nopRow (d : Dev) (s t : Nat) : Dev := d.aeIssue (fun m => decide (m.op = 0) || m.undefined) aeNopDef s t

/-! ## Channels (R303, R308, R310, R336) -/

/-- An event for the miller from outside the array; a sleeping slice wakes for the message. -/
def Dev.aeEventWake (d : Dev) (s evt thread cause : Nat) (handled : Bool) (pc detail : Nat) : Dev :=
  (d.aeEvent s evt thread cause handled pc detail).wake s

/-- An earlier frame of the same pipeline is still to be offered to the channel: messages are committed in lane order (R30, R308). -/
def Dev.steersAfter (d : Dev) (fid : Nat) (f : Frame) (c : Nat) : Bool :=
  d.frames.any (fun e => match e.2 with
    | some g => decide (e.1 ≠ fid) && decide (g.dest = .array c) && decide (g.slice = f.slice ∧ g.pipe = f.pipe ∧ g.order < f.order)
        && !g.steered && decide (g.fate ≠ .discarded)
    | none => false)

/-- STEER_TO_CHANNEL (R310, R336): a steered frame is offered to its channel once. -/
def Dev.steer (d : Dev) (fid : Nat) : Dev :=
  match d.frame fid with
  | none => d
  | some f =>
    match f.dest with
    | .array c =>
      let s := f.slice
      if f.steered ∨ (d.slc s).st ≠ .run then d
      else
        if d.steersAfter fid f c then d else
        let d := d.setFrame fid { f with steered := true }
        if f.fate = .discarded then d
        else match d.forced f.tag with
          | some ctr => (d.inc ctr 0 1).arrDrop fid
          | none =>
            if 0xF8 ≤ c ∨ (d.chan s c).en = false then (d.inc R.AE_STEER_BAD_DROPS s 1).arrDrop fid
            else if d.chanFree s c < 2 then
              let d := (d.inc R.AE_CHAN_DROPS (s * 256 + c) 1).arrDrop fid
              let x := d.chan s c
              if x.fullAt = 0 ∨ x.fullAt - 1 + 1000000 ≤ d.now then
                (d.setChan s c { x with fullAt := d.now + 1 }).aeEvent s 5 0 0 false 0 c
              else d
            else d.chanPush s c [hwHeader 2 1 0 0, 0] (some fid)
    | _ => d

/-- The waiting reader that a channel's head goes to (R308): PRIO, then the longest wait, then the lowest number. -/
def Dev.nextReader (d : Dev) (s c : Nat) : Option Nat :=
  (d.waiters s c).foldl (fun (r : Option Nat) w =>
    match r with
    | none => some w
    | some v =>
      let pv := (d.recOf s v).prio
      let pw := (d.recOf s w).prio
      if pv < pw ∨ (pv = pw ∧ (d.thr s w).since < (d.thr s v).since) then some w else some v) none

/-- MESSAGE_DELIVER (R307 to R309): the head of a channel goes to one waiting reader. -/
def Dev.messageDeliver (d : Dev) (s c : Nat) : Dev :=
  if (d.slc s).st ≠ .run ∨ (d.chan s c).msgs = [] then d
  else match d.nextReader s c with
    | none => d
    | some t =>
      let x := d.thr s t
      let idle := decide (x.st = .idle)
      match d.headReason s t c idle with
      | 3 => d.aeOutcome s t (.fault 0x08 c)
      | 4 => d.aeOutcome s t (.fault 0x07 c)
      | _ => ((d.deliver s t c idle x.rdDst).aeOutcome s t .done).readyIn s t 2

/-- CHANNEL_CFG_UPDATE (R336): an empty channel takes the configuration of the running bank. -/
def Dev.chanUpdate (d : Dev) (s c : Nat) : Dev :=
  let x := d.chan s c
  if x.cfgDue = true ∧ x.msgs = [] ∧ (d.slc s).st = .run then
    let (en, cap, readers) := chanRec d.runImage s c
    d.setChan s c { x with en := en, cap := cap, readers := readers, cfgDue := false }
  else d

/-! ## Blocked threads (R294, R306, R313 to R315, R320, R321) -/

/-- What a thread in BLK_WR waits to commit: its channel and words. -/
def Dev.waitsToCommit (d : Dev) (s t : Nat) : Option (Nat × Nat) :=
  let x := d.thr s t
  let m := mwOf (d.mwAt s x.epoch x.pc)
  if x.st ≠ .blkWr then none
  else if m.op = 0x2B then some (m.tgt % 256, 2)
  else some (x.stageChan, x.staged.length)

/-- A lower-numbered thread that waits for the same channel has room there: it commits first (R308). -/
def Dev.commitsAfter (d : Dev) (s t : Nat) : Bool :=
  match d.waitsToCommit s t with
  | none => false
  | some (c, _) => decide (c < 0xF8) && (List.range t).any (fun u =>
      match d.waitsToCommit s u with
      | some (k, n) => decide (k = c) && decide (n ≤ d.chanFree s c)
      | none => false)

/-- BLOCKED_COMMIT: a thread in BLK_WR goes on when there is room. -/
def Dev.blockedCommit (d : Dev) (s t : Nat) : Dev :=
  let x := d.thr s t
  if (d.slc s).st ≠ .run ∨ x.st ≠ .blkWr ∨ d.commitsAfter s t = true then d
  else if (mwOf (d.mwAt s x.epoch x.pc)).op = 0x2B then d.aeResume s t [0x2B]
  else match d.commit s t with
    | (false, _) => d
    | (true, d) => (d.modThr s t (fun x => { x with st := .run })).aeOutcome s t .next

/-- SHARE_ALLOCATE: a thread in BLK_SHARE gets its cells. -/
def Dev.shareAllocate (d : Dev) (s t : Nat) : Dev :=
  if (d.slc s).st ≠ .run ∨ (d.thr s t).st ≠ .blkShare then d else d.aeResume s t [0x29, 0x2A, 0x2C, 0x2D]

/-- FLD_DATA_ARRIVE. -/
def Dev.fldArrive (d : Dev) (s t : Nat) : Dev :=
  if (d.slc s).st ≠ .run ∨ (d.thr s t).fldWait = false then d else d.aeResume s t [0x28]

/-- WAIT_SATISFIED. -/
def Dev.waitSatisfied (d : Dev) (s t : Nat) : Dev :=
  let x := d.thr s t
  if (d.slc s).st = .run ∧ x.st = .waiting ∧ d.waitHolds s t x.waitCond x.waitA x.waitB = true then
    ((d.waitEnds s t x.waitCond).modThr s t (fun x => { x with st := .run })).aeOutcome s t .next
  else d

/-- AE_TIMER_EXPIRE. -/
def Dev.timerExpire (d : Dev) (s t : Nat) : Dev :=
  let x := d.thr s t
  match x.timer with
  | none => d
  | some due =>
    if (d.slc s).st ≠ .run ∨ d.now < due then d
    else
      let d := d.setThr s t { x with timer := none, expired := true, timerIrq := x.timerIrq || x.timerInt }
      if x.st = .waiting ∧ x.waitTmo = true then (d.modThr s t (fun x => { x with st := .run, x := true })).aeOutcome s t .next
      else (d.irqCheck s t).dogCheck s t

/-- BREAKPOINT_STOP. -/
def Dev.breakpointStop (d : Dev) (s t : Nat) : Dev :=
  if (d.slc s).st = .run ∧ d.atBoundary s t = true ∧ d.breakAt s t = true then d.stopAt s t true else d

/-! ## The miller and the watchdog (R328, R331, R332, R335, R338) -/

/-- STALLED_WRITER (R338); due for a thread of a slice that sleeps, it wakes the slice (R612). -/
def Dev.stalledWriter (d : Dev) (s t : Nat) : Dev :=
  let x := d.thr s t
  if x.st = .stopped ∧ x.staged ≠ [] ∧ x.stallPosted = false ∧ x.since + d.fldOf R.AE_DBG_CTRL s 0 20 * 1000 ≤ d.now then
    if (d.slc s).st ≠ .run then d.wake s else
    let d := (d.setThr s t { x with stallPosted := true }).inc R.AE_STALLED_WRITERS s 1
    d.aeEvent s 3 t 0 false x.pc (packFields [(0, 8, x.stageChan), (8, 5, x.staged.length)])
  else d

/-- WATCHDOG (R332). -/
def Dev.watchdog (d : Dev) (s e : Nat) : Dev :=
  let us := d.fldOf R.AE_WD_CTRL s 0 20
  let x := d.dog s e
  match x.since with
  | none => d
  | some since =>
    if (d.slc s).st ≠ .run ∨ us = 0 ∨ x.fired = true ∨ d.now < since + us * 1000 then d
    else
      let st := d.engStatus s e
      let d := (d.setDog s e { x with fired := true }).inc R.AE_WD_FIRES s 1
      d.aeEvent s 2 (e * 8) 0 false 0 (fld st 8 8 + fld st 0 8 * 256)

/-- MILLER_STALL (R328): the oldest message in 0xFE not yet marked. -/
def Dev.millerStall (d : Dev) (s : Nat) : Dev :=
  let x := d.chan s 0xFE
  let us := d.fldOf R.AE_MILLER_CTRL s 0 20
  match findPos (fun (m : Msg) => !m.stalled && decide (m.at_ + us * 1000 ≤ d.now)) x.msgs with
  | none => d
  | some k =>
    if (d.slc s).st ≠ .run then d
    else
      (d.setChan s 0xFE { x with msgs := x.msgs.zipIdx.map (fun e => if e.2 = k then { e.1 with stalled := true } else e.1) }).raiseBit
        R.AE_EVENTS s 4

/-- FORCED_MOVE (R335, R613): a thread still on a retired bank moves at a microword boundary: one that is blocked abandons its
microword and moves (DEDUCED, log 72), one in IDLE moved at retirement, a stopped one moves once RESUME or STEP lets it issue. -/
def Dev.forcedMove (d : Dev) (s t : Nat) : Dev :=
  let st := (d.thr s t).st
  if (d.slc s).st = .run ∧ d.needsMove s t = true
      ∧ (st = .run ∨ st = .blkRd ∨ st = .blkWr ∨ st = .blkShare ∨ st = .waiting) then
    let pc := (d.thr s t).pc
    let d := d.abandon s t
    let x := d.thr s t
    let e := d.runEpoch
    let r := thrRec (d.imageOf e) s t
    let n := x.staged.length
    let d := d.setThr s t { x with
      st := if r.en then .run else .disabled, epoch := e, pc := r.entry, staged := [], sendWaits := false, sendOwn := false
      bpPass := false }
    let d := (d.inc R.AE_STAGED_DISCARDS s n).inc R.AE_FORCED_MOVES s 1
    (d.aeEvent s 6 t 0 false pc n).dogCheck s t
  else d

/-- CELL_FREE with the miller's report of a thread's bad free (R319, R378). -/
def Dev.cellFreed (d : Dev) : Dev :=
  d.onFabric (fun d =>
  match d.buf.freeReq with
  | [] => d
  | (c, p) :: rest =>
    let (code, d) := { d with buf := { d.buf with freeReq := rest } }.freeCell c p
    if p / 8192 = 2 ∧ 1 ≤ code ∧ code ≤ 3 then
      let s := fld p 8 3
      let t := p % 256
      d.aeEventWake s 4 t 0 false (d.thr s t).pc (packFields [(0, 20, c), (20, 4, code)])
    else d)

/-! ## Patches (R340 to R342) -/

/-- The bank that patches apply to. -/
def Dev.patchBank (d : Dev) (s : Nat) : Nat := (s * 2 + d.runEpoch % 2) * 65536

/-- Entries of the running bank's overlay. -/
def Dev.overlayUsed (d : Dev) (s : Nat) : Nat :=
  (d.ae.overlay.filter (fun e => decide (d.patchBank s ≤ e.1) && decide (e.1 < d.patchBank s + 65536))).length

/-- Words staged by a command set. -/
def Dev.patchStaged (d : Dev) (s h : Nat) : List (Nat × Nat) := SMap.get [] d.ae.patch (s * 4 + h)
def Dev.setPatch (d : Dev) (s h : Nat) (l : List (Nat × Nat)) : Dev :=
  { d with ae := { d.ae with patch := SMap.set [] d.ae.patch (s * 4 + h) l } }

/-- A thread on the running bank stands in the guard range (R341); a DISABLED one does not (log 46). -/
def Dev.inGuard (d : Dev) (s lo hi : Nat) : Bool :=
  (List.range 256).any (fun t =>
    let x := d.thr s t
    let hit := fun (a : Nat) => decide (lo ≤ a) && decide (a ≤ hi)
    decide (x.st ≠ .disabled) && decide (d.epochs.run = some x.epoch) && (hit x.pc || x.stack.any hit || (x.inTrap && hit x.tsPc)))

/-- The guard of a command set's COMMIT or CLEAR_ALL is met. -/
def Dev.guardMet (d : Dev) (s h : Nat) : Bool :=
  let i := s * 4 + h
  !d.bitOf R.AE_PCH_CTRL i 0 || !d.inGuard s (d.fldOf R.AE_PCH_GUARD i 0 16) (d.fldOf R.AE_PCH_GUARD i 16 16)

def Dev.setGuardWait (d : Dev) (s : Nat) (x : Option Nat) : Dev := { d with ae := { d.ae with guardWait := SMap.set none d.ae.guardWait s x } }
def Dev.guardSince (d : Dev) (s : Nat) : Option Nat := SMap.get none d.ae.guardWait s

/-- One word of the overlay. -/
def Dev.setOverlay (d : Dev) (s a : Nat) (w : Option Nat) : Dev :=
  let d := d.memWritten 0x0B (unitOf s 0 0 0 (d.runEpoch % 2) 0) a
  { d with ae := { d.ae with overlay := SMap.set none d.ae.overlay (d.patchBank s + a) w } }

/-- LEVEL and PATCH_DONE after an installation. -/
def Dev.patched (d : Dev) (s h : Nat) : Dev :=
  (d.wr R.AE_PATCH_STATUS s (d.fldOf R.AE_PCH_CTRL (s * 4 + h) 16 16)).raiseBit R.AE_EVENTS s 9

/-- COMMIT once its guard is met: all staged words or none; the staging area is then empty (log 45). -/
def Dev.patchCommit (d : Dev) (s h : Nat) : Nat × Dev :=
  let ws := d.patchStaged s h
  let fresh := (ws.filter (fun w => decide (SMap.get none d.ae.overlay (d.patchBank s + w.1) = none))).length
  if 64 < d.overlayUsed s + fresh then (9, d)
  else (0, ((ws.foldl (fun d w => d.setOverlay s w.1 (some w.2)) d).setPatch s h []).patched s h)

/-- CLEAR_ALL once its guard is met. -/
def Dev.patchClear (d : Dev) (s h : Nat) : Nat × Dev :=
  let b := d.patchBank s
  (0, { d with ae := { d.ae with overlay := SMap.keep (fun k _ => decide (k < b) || decide (b + 65536 ≤ k)) d.ae.overlay } }.patched s h)

/-- COMMIT or CLEAR_ALL at the head of a slice's patch queue begins: it installs at once or waits for its guard. -/
def Dev.patchBegin (d : Dev) (s op : Nat) : Dev :=
  d.onSlice s (fun d =>
  match d.cmdHead .pch s op with
  | none => d
  | some (h, _) =>
    if (d.guardSince s).isSome then d
    else if d.epochs.run = none then (d.cmdDone .pch s 0xB).drainBad .pch s 8
    else if d.guardMet s h then
      let (r, d) := if op = 2 then d.patchCommit s h else d.patchClear s h
      (d.cmdDone .pch s r).drainBad .pch s 8
    else d.setGuardWait s (some d.now))

/-- PATCH_INSTALL: a waiting COMMIT or CLEAR_ALL whose guard is now met. -/
def Dev.patchInstall (d : Dev) (s : Nat) : Dev :=
  d.onSlice s (fun d =>
  match d.guardSince s, d.cmdQ .pch s with
  | some _, (h, v) :: _ =>
    if d.guardMet s h then
      let (r, d) := if v % 16 = 2 then d.patchCommit s h else d.patchClear s h
      ((d.setGuardWait s none).cmdDone .pch s r).drainBad .pch s 8
    else d
  | _, _ => d)

/-- GUARD_TIMEOUT: 100 µs without the guard being met. -/
def Dev.guardTimeout (d : Dev) (s : Nat) : Dev :=
  d.onSlice s (fun d =>
  match d.guardSince s, d.cmdQ .pch s with
  | some since, (h, _) :: _ =>
    if since + 100000 ≤ d.now ∧ d.guardMet s h = false then ((d.setGuardWait s none).cmdDone .pch s 0xA).drainBad .pch s 8 else d
  | _, _ => d)

/-- The microword in AE_PCH_WORD_0 to 3 of a command set. -/
def Dev.patchWord (d : Dev) (i : Nat) : Nat := (List.range 4).foldl (fun n j => n + d.rd R.AE_PCH_WORD (i * 4 + j) * 2 ^ (32 * j)) 0

/-- STAGE_WORD, READ_WORD and UNSTAGE_ALL (R342). -/
def Dev.pchExec (d : Dev) (s h cmd : Nat) : Nat × Dev :=
  let i := s * 4 + h
  let a := d.fldOf R.AE_PCH_ADDR i 0 16
  match cmd % 16 with
  | 1 =>
    let rest := (d.patchStaged s h).filter (fun w => decide (w.1 ≠ a))
    if 0xFE00 ≤ a then (3, d)
    else if 64 ≤ rest.length then (9, d)
    else (0, d.setPatch s h (rest ++ [(a, d.patchWord i)]))
  | 4 =>
    if 0xFE00 ≤ a then (3, d)
    else if d.epochs.run = none then (0xB, d)
    else match d.memCheck 0x0B (unitOf s 0 0 0 (d.runEpoch % 2) 0) a with
      | (true, d) => (8, d)
      | (false, d) =>
        let w := d.mwAt s d.runEpoch a
        (0, forN 4 (fun j d => d.wr R.AE_PCH_WORD (i * 4 + j) (fld w (32 * j) 32)) d)
  | _ => (0, d.setPatch s h [])

/-- The patch command at the head of a slice's queue executes, if its OP is `op`. -/
def Dev.pchCmd (d : Dev) (s op : Nat) : Dev := d.onSlice s (fun d => d.cmdRun .pch s op (fun h v d => d.pchExec s h v))

/-- AE_PATCH_STATUS. -/
def Dev.patchStatus (d : Dev) (s : Nat) : Nat :=
  packFields [(0, 16, d.rd R.AE_PATCH_STATUS s), (16, 7, if d.epochs.run = none then 0 else d.overlayUsed s)]

/-! ## The debug window (R339, R350) -/

/-- A debug-window item of a thread; an item number without an entry reads a free value. -/
def Dev.dbgItem (d : Dev) (s t item : Nat) : Nat × Dev :=
  let x := d.thr s t
  if 1 ≤ item ∧ item ≤ 0x1F then ((SMap.get 0 x.regs item).toNat, d)
  else if item = 0x20 then (x.pc, d)
  else if item = 0x21 then (x.flags, d)
  else if item = 0x22 then (x.stack.length, d)
  else if 0x28 ≤ item ∧ item ≤ 0x2C then (x.trapItem (item - 0x28), d)
  else if 0x30 ≤ item ∧ item ≤ 0x3F then ((x.staged.getD (item - 0x30) 0).toNat, d)
  else if 0x40 ≤ item ∧ item ≤ 0x4F then
    (match d.slotFrame s t (item - 0x40) with
      | none => 0
      | some (_, f) => packFields [(63, 1, 1), (56, 4, f.tag.epoch), (0, 20, f.cells.headD 0)], d)
  else d.free 64

/-- AE_DBG_DATA_LO is read: the whole item is sampled. -/
def Dev.dbgRead (d : Dev) (s : Nat) : Nat × Dev :=
  let sel := d.rd R.AE_DBG_SEL s
  let (v, d) := d.dbgItem s (fld sel 0 8) (fld sel 8 8)
  (v % 2 ^ 32, ((d.wr R.AE_DBG_DATA_LO s v).wr R.AE_DBG_DATA_HI s (v / 2 ^ 32)).setFld R.AE_DBG_STATUS s 0 1 0)

/-- AE_DBG_DATA_HI is written: LO and HI go into the item of a stopped thread. -/
def Dev.dbgWrite (d : Dev) (s hi : Nat) : Dev :=
  let d := d.wr R.AE_DBG_DATA_HI s hi
  if d.policy 1 then d.debugOff s
  else
    let sel := d.rd R.AE_DBG_SEL s
    let t := fld sel 0 8
    let item := fld sel 8 8
    let v := d.rd R.AE_DBG_DATA_LO s + d.rd R.AE_DBG_DATA_HI s * 2 ^ 32
    let ok := decide (1 ≤ item ∧ item ≤ 0x21) || decide (0x28 ≤ item ∧ item ≤ 0x2C)
    if (d.thr s t).st ≠ .stopped ∨ ok = false then d.setFld R.AE_DBG_STATUS s 0 1 1
    else
      let d := d.setFld R.AE_DBG_STATUS s 0 1 0
      if item ≤ 0x1F then d.setReg s t item v
      else if item = 0x20 then d.modThr s t (fun x => { x with pc := v % 65536 })
      else if item = 0x21 then d.modThr s t (fun x => x.setFlags v)
      else (d.memWritten 0x0D (engUnit s t) (itemLoc t item)).modThr s t (fun x => x.setTrapItem (item - 0x28) v)

end Sys2Proof.Machine
end

