-- ==== Sys2Proof/Machine/Epoch.lean ====
section
/-! DEFINITION. Verification of a loaded image, activation and retirement of epochs, retirement of rule versions
(R56 to R62, R68 to R92, R199 to R201, R249, R250, R262, R302, R333 to R336, R608, R611). -/
namespace Sys2Proof.Machine

/-! ## Placement against the running image (R58, R59, R216) -/

/-- The units of an incoming record are shared with a record of the running image. -/
def sharedWith (r q : Place16) : Bool :=
  decide (q.id = r.id) && decide (q.kind = r.kind) && decide (q.slice = r.slice) && decide (q.first = r.first)
  && decide (q.count = r.count) && decide (q.width = r.width) && decide (q.depth = r.depth)

/-- A placed copy whose units the running image shares. -/
def Dev.isShared (d : Dev) (r : Place16) : Bool := (placements d.runImage).any (sharedWith r)

/-- An incoming record places a unit differently from the running image. -/
def Dev.conflicts (d : Dev) (r : Place16) : Bool :=
  (placements d.runImage).any (fun q =>
    decide (q.kind = r.kind) && decide (q.slice = r.slice) && decide (q.first < r.first + r.count)
    && decide (r.first < q.first + q.count)
    && !(decide (q.id = r.id) && decide (q.first = r.first) && decide (q.width = r.width) && decide (q.depth = r.depth)
      && (decide (r.kind = 0) || decide (q.count = r.count))))

/-! ## TABLE_INIT (R199 to R201, R249, R250) -/

/-- What the walk over the TABLE_INIT records has met, and the stores that it fills: `dev` takes the records of new copies;
`scratch`, whose units of this image are empty, those of tables all of whose units are shared. -/
structure InitAcc where
  dev : Dev
  scratch : Dev
  /-- Headers met: slice and table. -/
  heads : List (Nat × Nat)
  /-- Addresses, keys and prefixes met: slice, table, and what must not come twice. -/
  seen : List (Nat × Nat × Nat)

/-- The records that place a table of a kind in a slice. -/
def copiesOf (img : List Byte) (kind s t : Nat) : List Place16 :=
  (placements img).filter (fun r => decide (r.kind = kind) && decide (r.slice = s) && decide (r.id = t))

/-- Every byte of a range is 0. -/
def zeroAt (img : List Byte) (o n : Nat) : Bool := decide (leAt img o n = 0)

/-- Settings of the new copies of a table. -/
def InitAcc.config (a : InitAcc) (d0 : Dev) (rs : List Place16) (c : TblCfg) : InitAcc :=
  rs.foldl (fun a r =>
    let put := fun (d : Dev) => { d with tbl := { d.tbl with
      cfg := SMap.set {} d.tbl.cfg (cfgKey r.slice r.kind r.first) { c with born := d.tbl.placed + 1 }, placed := d.tbl.placed + 1 } }
    if d0.isShared r then { a with scratch := put a.scratch } else { a with dev := put a.dev }) a

/-- Change the stores of a copy. -/
def InitAcc.store (a : InitAcc) (d0 : Dev) (r : Place16) (f : Dev → Option Dev) : Option InitAcc :=
  if d0.isShared r then (f a.scratch).map (fun d => { a with scratch := d }) else (f a.dev).map (fun d => { a with dev := d })

/-- Version state of an entry that TABLE_INIT writes (R198). -/
def initVer : EntVer := { v := true, settled := true, init := true }

/-- A header record of a table comes into a slice: none where it is not valid or a second one. -/
def InitAcc.header (a : InitAcc) (d0 : Dev) (rs : List Place16) (s t : Nat) (ok : Bool) (c : TblCfg) : Option InitAcc :=
  if ok && !a.heads.contains (s, t) then some ({ a with heads := (s, t) :: a.heads }.config d0 rs c) else none

/-- An entry record of a table comes into a slice: none where it is not valid, has no header or comes twice. -/
def InitAcc.entry (a : InitAcc) (d0 : Dev) (rs : List Place16) (s t what : Nat) (ok : Bool) (f : Place16 → Dev → Option Dev) :
    Option InitAcc :=
  if ok && a.heads.contains (s, t) && !a.seen.contains (s, t, what) then
    rs.foldl (fun a r => a.bind (fun a => a.store d0 r (f r))) (some { a with seen := (s, t, what) :: a.seen })
  else none

/-- The key and the mask of a TCAM entry record. -/
def initKey (img : List Byte) (o w at_ : Nat) : Nat :=
  (List.range w).foldl (fun n c => n + leAt img (o + at_ + 20 * c) 10 * 2 ^ (80 * c)) 0

/-- One record at offset `o` for one slice; none where it fails. -/
def initRecord (d0 : Dev) (img : List Byte) (o s : Nat) (a : InitAcc) : Option InitAcc :=
  let b := fun (k : Nat) => leAt img (o + k) 1
  let t := leAt img (o + 2) 2
  let res := leAt img (o + 4) 4
  match b 0 with
  | 0x01 => match copiesOf img 0 s t with
    | [] => none
    | rs => a.header d0 rs s t (decide (b 1 < 2 ∧ b 4 < 2) && zeroAt img (o + 5) 11)
        { firstMatch := decide (b 1 = 1), missOnly := decide (b 4 = 1) }
  | 0x02 => match copiesOf img 0 s t with
    | [] => none
    | r :: rs =>
      let addr := leAt img (o + 4) 2
      let mask := initKey img o r.width 26
      let e : TcamEnt := {
        key := initKey img o r.width 16 &&& mask, mask := mask, prio := leAt img (o + 6) 2, result := leAt img (o + 8) 4, ver := initVer }
      a.entry d0 (r :: rs) s t addr (decide (b 1 = 0 ∧ addr < r.depth * 2048) && zeroAt img (o + 12) 4) (fun c d =>
        let d := (List.range c.width).foldl (fun d k =>
          (d.memWritten 5 (c.colUnit addr k) (addr % 2048)).memWritten 6 (c.colUnit addr k) (addr % 2048)) d
        some (d.setTent c addr e))
  | 0x10 => match copiesOf img 1 s t with
    | [] => none
    | rs => a.header d0 rs s t (decide (b 1 < 2 ∧ leAt img (o + 8) 2 ≤ 8192 ∧ b 10 < 16 ∧ b 11 = 0))
        { learnEn := decide (b 1 = 1), miss := res, ovfMax := leAt img (o + 8) 2, ageLimit := b 10, learnMax := leAt img (o + 12) 4 }
  | 0x11 => match copiesOf img 1 s t with
    | [] => none
    | rs =>
      let key := leAt img (o + 8) 8
      a.entry d0 rs s t key (decide (b 1 = 0)) (fun r d =>
        match d.emInsert r { key := key, result := res, ver := initVer } (d.tcfg r).ovfMax 4 32 false false with
        | (.placed _, d) => some d
        | _ => none)
  | 0x12 => match copiesOf img 2 s t with
    | [] => none
    | rs => a.header d0 rs s t (decide (b 1 < 2) && zeroAt img (o + 8) 8) { v6 := decide (b 1 = 1), miss := res }
  | 0x13 => match copiesOf img 2 s t with
    | [] => none
    | rs =>
      let addr := leAt img (o + 12) 16
      let vrf := leAt img (o + 8) 2
      a.entry d0 rs s t (addr + vrf * 2 ^ 128 + b 1 * 2 ^ 144) (zeroAt img (o + 10) 2) (fun r d =>
        let v6 := (d.tcfg r).v6
        if !prefixOk v6 (b 1) addr || (!v6 && decide (2 ^ 32 ≤ addr)) then none
        else match d.lpmAdd r { vrf := vrf, addr := addr, plen := b 1, result := res, v6 := v6, ver := initVer } with
          | (some _, d) => some d
          | (none, _) => none)
  | _ => none

/-- Length of the record at an offset; none where its RTYPE, its table or the tables' WIDTHs give none. -/
def initLen (img : List Byte) (ss : List Nat) (o : Nat) : Option Nat :=
  match leAt img o 1 with
  | 0x01 | 0x10 | 0x11 | 0x12 => some 16
  | 0x13 => some 28
  | 0x02 =>
    match ss.map (fun s => (copiesOf img 0 s (leAt img (o + 2) 2)).head?.map (·.width)) with
    | some w :: ws => if ws.all (fun x => decide (x = some w)) then some (16 + 20 * w) else none
    | _ => none
  | _ => none

/-- The records of one payload from offset `o` to its end `e`: what they leave, and the offset of the first that fails. -/
def initWalk (d0 : Dev) (img : List Byte) (ss : List Nat) (e : Nat) : Nat → Nat → InitAcc → Option Nat × InitAcc
  | 0, _, a => (none, a)
  | n + 1, o, a =>
    if e ≤ o then (none, a)
    else match initLen img ss o with
      | none => (some o, a)
      | some l =>
        if e < o + l then (some o, a)
        else match ss.foldl (fun (x : Option InitAcc) s => x.bind (fun a => initRecord d0 img o s a)) (some a) with
          | none => (some o, a)
          | some a => initWalk d0 img ss e n (o + l) a

/-- Slices of a mask. -/
def maskSlices (m : Nat) : List Nat := (List.range 8).filter (fun s => decide (fld m s 1 = 1))

/-- Every TABLE_INIT payload of the image in order. -/
def Dev.initAll (d : Dev) (img : List Byte) : Option Nat × InitAcc :=
  let mine := placements img
  let empty := d.clearUnplaced ((placements d.runImage).filter (fun q => !mine.any (fun r => sharedWith r q)))
  ((sections img).filter (fun s => decide (s.typ = 6))).foldl (fun (x : Option Nat × InitAcc) s =>
    match x.1 with
    | some o => (some o, x.2)
    | none => initWalk d img (maskSlices s.sliceMask) (s.off + s.len) (s.len / 4) s.off x.2) (none, ⟨d, empty, [], []⟩)

/-! ## Stage descriptors (R262) -/

/-- A descriptor of an image, where it applies. -/
structure DescAt where
  egress : Bool
  s : Nat
  p : Nat
  n : Nat
  desc : Nat
  deriving DecidableEq, Repr

/-- Enabled lookups of a descriptor whose VALID is 1, with their numbers. -/
def DescAt.lookups (x : DescAt) : List (Nat × LookupF) :=
  if fld x.desc 0 1 = 1 then ((List.range 4).map (fun k => (k, lookupF x.desc k))).filter (fun l => l.2.en) else []

/-- The first limit of R262. -/
def descBits (desc : Nat) : Bool :=
  decide (fld desc 1 2 ≠ 3) && decide (fld desc 41 4 ≤ 10) && decide (fld desc 3 1 = 0) && decide (fld desc 53 11 = 0)
  && decide (fld desc 224 288 = 0)
  && (List.range 4).all (fun k => decide (fld desc (64 + 40 * k + 14) 1 = 0) && decide (fld desc (64 + 40 * k + 33) 7 = 0))

/-- KIND that lookup `k` needs. -/
def lookupKind (k : Nat) : Nat := if k = 0 then 0 else if k = 3 then 2 else 1

/-- The other limits of R262, given the descriptors that come before it in the image; MODE is that which a placed table has or
takes. -/
def DescAt.ok (x : DescAt) (img : List Byte) (modeOf : Place16 → Bool) (earlier : List DescAt) : Bool :=
  let mates := earlier.filter (fun y => decide (y.egress = x.egress) && decide (y.s = x.s) && decide (y.p = x.p))
  let count := fun (kind : Nat) =>
    ((x :: mates).flatMap DescAt.lookups |>.filter (fun l => decide (lookupKind l.1 = kind))).length
  descBits x.desc && x.lookups.all (fun l =>
    let kind := lookupKind l.1
    match copiesOf img kind x.s l.2.table with
    | [] => false
    | r :: _ =>
      if x.egress then decide (l.1 = 1) && decide (x.n ≤ 14) && decide (count 1 ≤ 4)
      else match kind with
        | 0 =>
          let len := if modeOf r then 1 else (r.depth + 3) / 4
          decide (x.n + len - 1 ≤ 23)
          && !mates.any (fun y => decide (y.n ≠ x.n) && y.lookups.any (fun m => decide (m.1 = 0) && decide (m.2.table = l.2.table)))
        | 1 => decide (x.n ≤ 22) && decide (count 1 ≤ 8)
        | _ => decide (x.n ≤ 21) && decide (count 2 ≤ 4))

/-- The descriptors of an image with the offsets of their words, in image order. -/
def descsOf (img : List Byte) : List (Nat × DescAt) :=
  ((sections img).filter (fun s => decide (s.typ = 3 ∨ s.typ = 4) && decide (s.dest = 0))).flatMap (fun s =>
    (maskSlices s.sliceMask).flatMap (fun sl => ((List.range 4).filter (fun p => decide (fld s.pipeMask p 1 = 1))).map (fun p =>
      (s.off, DescAt.mk (decide (s.typ = 4)) sl p s.inst (leAt img s.off 64)))))

/-- Offset of the first descriptor that breaks a limit. -/
def descErr (img : List Byte) (modeOf : Place16 → Bool) (earlier : List DescAt) : List (Nat × DescAt) → Option Nat
  | [] => none
  | (o, x) :: xs => if x.ok img modeOf earlier then descErr img modeOf (earlier ++ [x]) xs else some o

/-! ## Control store records (R302) -/

/-- Words of the control store of a slice that fail a check of R302. The sums fail the array record (log 51). -/
def aeBadWords (img : List Byte) (s : Nat) : List Nat :=
  let recs := (List.range 256).map (fun t => (t, aeWord img s (0xFE00 + t)))
  let thr := recs.filter (fun e =>
    let r := thrRecOf e.2 e.1
    decide (fld e.2 54 10 ≠ 0) || decide (fld e.2 118 10 ≠ 0) || decide (r.bufMax < r.bufStatic) || decide (r.outMax < r.outStatic)
    || (decide (e.1 = 7) && !r.en)
    || (r.en && (decide (0xFE00 ≤ r.entry) || decide (0xFE00 ≤ r.trapVec) || decide (0xFE00 ≤ r.idleCont))))
  let chs := (List.range 248).filter (fun c =>
    let w := aeWord img s (0xFF00 + c)
    decide (fld w 6 2 ≠ 0) || decide (fld w 40 88 ≠ 0) || (decide (fld w 0 1 = 1) && decide (fld w 1 5 = 0 ∨ 16 < fld w 1 5)))
  let rsv := (List.range 7).filter (fun i => decide (aeWord img s (0xFFF8 + i) ≠ 0))
  let sum := fun (f : ThrRec → Nat) => (recs.map (fun e => f (thrRecOf e.2 e.1))).foldl (· + ·) 0
  let arr := decide (fld (aeWord img s 0xFFFF) 84 44 ≠ 0) || decide ((arrayRec img s).2.2 < sum ThrRec.bufStatic) || decide (1536 < sum ThrRec.outStatic)
  thr.map (fun e => 0xFE00 + e.1) ++ chs.map (0xFF00 + ·) ++ rsv.map (0xFFF8 + ·) ++ (if arr then [0xFFFF] else [])

/-- Image offsets of the failing control store records: a word that no payload writes fails at the first AE_CODE payload of its
slice (log 10). -/
def aeErrs (img : List Byte) : List Nat :=
  (List.range 8).flatMap (fun s =>
    match (sections img).find? (fun x => decide (x.typ = 7) && decide (fld x.sliceMask s 1 = 1)) with
    | none => []
    | some x => (aeBadWords img s).map (fun a => let o := imageOffsetOf img 7 s 0 0 (a * 16) 16; if o = 0 then x.off else o))

/-! ## LOAD_VERIFY (R68 to R72) -/

/-- The least of a list of offsets. -/
def leastOff (xs : List Nat) : Option Nat := xs.foldl (fun m x => match m with | none => some x | some y => some (min x y)) none

/-- The checks that need several sections: the offset of the first that fails, and the stores with the new tables filled. -/
def Dev.crossChecks (d : Dev) (img : List Byte) : Option Nat × Dev :=
  let (bad, a) := d.initAll img
  let modeOf := fun (r : Place16) => (if d.isShared r then d.tcfg r else a.dev.tcfg r).firstMatch
  let errs := ((placesErr [] (placements img)).map (·.2)).toList ++ bad.toList ++ (descErr img modeOf [] (descsOf img)).toList ++ aeErrs img
  (leastOff errs, a.dev)

/-- The remaining checks in the order of R68, from the cross-section ones to the placement: error and offset. -/
def Dev.verifyErr (d : Dev) (img : List Byte) (cross : Option Nat) : Option (Nat × Nat) :=
  let sig := imgSigOff img
  let slot := imgKeySlot img
  let x := slice img (sig + 0x10) 48
  let y := slice img (sig + 0x40) 48
  match cross with
  | some o => some (5, o)
  | none =>
    if !keyUsable d.fuses slot then some (8, 0x17)
    else if leAt img sig 1 ≠ slot then some (8, sig)
    else if sha384 (x ++ y) ≠ keyHash d.fuses slot then some (9, sig + 0x10)
    else if !ecdsaVerify (sha384 (img.take sig)) (beNat x) (beNat y) (beAt img (sig + 0x70) 48) (beAt img (sig + 0xA0) 48) then
      some (0x0A, sig + 0x70)
    else if imgSvn img < d.arb then some (0x0B, 0x16)
    else (placements img).find? d.conflicts |>.map (fun r => (0x0C, r.at_))

/-- What stood wrong in the banked memories of a bank is gone once a load has written it; its patch overlay is empty (R340). -/
def Dev.bankWritten (d : Dev) (b : Nat) : Dev :=
  { d with
    errs := { d.errs with
      upsets := d.errs.upsets.filter (fun u => !(bankedClass u.cls && decide (fld u.unit 4 1 = b)))
      poisoned := d.errs.poisoned.filter (fun p => !(bankedClass p.1 && decide (fld p.2.1 4 1 = b))) }
    ae := { d.ae with overlay := SMap.keep (fun k _ => decide (k / 65536 % 2 ≠ b)) d.ae.overlay } }

/-- LOAD_VERIFY: the last image byte has arrived. -/
def Dev.loadVerify (d : Dev) : Dev :=
  let img := d.loader.img
  if d.loader.st ≠ .loading ∨ img.length < 128 ∨ img.length ≠ imgLen img then d
  else
    let (cross, d') := d.crossChecks img
    match d.verifyErr img cross with
    | some (e, o) => d.loadFail e o
    | none => ((d'.bankWritten d.loadBank).setBank d.loadBank { st := .staged, img := img }).ld (fun l => { l with st := .staged })

/-! ## ACTIVATION (R72 to R82, R121, R333, R336, R608) -/

/-- The registers of a physical port's eight sub-port slots that R121 and R608 return to their reset values. -/
def replanRegs : List RegInfo :=
  [R.LP_CTRL, R.LP_TIMERS, R.LP_FEC_DEG, R.LP_TS_RX_ADJ, R.LP_TS_TX_ADJ, R.LP_TS_CTRL, R.SLU_CTRL, R.SLU_STATUS, R.SLU_CMD, R.SLU_EVENTS,
    R.SLU_ADMIN_CYCLE, R.SLU_ADMIN_EXT, R.SLU_ADMIN_LEN, R.SLU_ADMIN_GATES, R.SLU_LEAD, R.SLU_OPER_CYCLE, R.SLU_OPER_EXT, R.SLU_OPER_LEN]
def replanWides : List RegInfo := [R.SLU_ADMIN_BASE, R.SLU_OPER_BASE, R.SLU_CHANGE_TIME, R.SLU_CHANGES, R.SLU_GUARD_HOLDS]
def replanEntries : List RegInfo := [R.SLU_ADMIN_ENT_GATES, R.SLU_ADMIN_ENT_INTERVAL, R.SLU_OPER_ENT_GATES, R.SLU_OPER_ENT_INTERVAL]

/-- A register element returns to its reset value. -/
def Dev.toReset (d : Dev) (i : Nat) (r : RegInfo) : Dev := d.wr r i (r.resetAt i)

/-- One logical port of a physical port whose PORT_PLAN byte changes. -/
def Dev.lpReplan (d : Dev) (n : Nat) : Dev :=
  let d := d.lpDisable n
  let d := replanRegs.foldl (fun d r => d.toReset n r) d
  let d := replanWides.foldl (fun d r => d.wr64 r n 0) d
  let d := replanEntries.foldl (fun d r => forN 64 (fun k d => d.toReset (n * 64 + k) r) d) d
  (d.setLp n { d.lp n with tsFifo := [] }).setTmp n { d.tmp n with oper := none, pend := none, gates := 0 }

/-- Copies that wait for a logical port that the new breakout does not use are dropped (R62). -/
def Dev.dropUnused (d : Dev) : Dev :=
  (d.copies.foldl (fun d e => match e.2 with
    | some c => if c.place = .queued ∧ d.lpInUse (c.queue / 16) = false then (d.inc R.BPM_UNUSED_LPORT 0 1).copyDiscard e.1 else d
    | none => d) d).tableLosses

/-- The threads of the arrays at an activation: at the first one every thread in service starts (R333); later a DISABLED
thread waits for RESTART. -/
def Dev.startThreads (d : Dev) (e : Nat) : Dev :=
  let img := d.imageOf e
  forN 8 (fun s d => forN 256 (fun t d =>
    let r := thrRec img s t
    d.modThr s t (fun x => if r.en then { x with st := .run, epoch := e, pc := r.entry } else { x with epoch := e })) d) d

/-- Every software channel takes the new configuration, at once where it is empty (R336). -/
def Dev.chansDue (d : Dev) (e : Nat) : Dev :=
  let img := d.imageOf e
  forN 8 (fun s d => forN 248 (fun c d =>
    let x := d.chan s c
    if x.msgs = [] then
      let (en, cap, readers) := chanRec img s c
      d.setChan s c { x with en := en, cap := cap, readers := readers, cfgDue := false }
    else d.setChan s c { x with cfgDue := true }) d) d

/-- ACTIVATION: the armed time has been reached. While no image runs every PORT_PLAN byte counts as 0. -/
def Dev.activate (d : Dev) : Dev :=
  if !d.armDue then d
  else
    let was := d.epochs.run
    let e := match was with | some e => (e + 1) % 16 | none => 0
    let before := d.planByte
    let d := match was with | some o => d.setBank (o % 2) { d.bank (o % 2) with st := .draining } | none => d
    let d := d.setBank (e % 2) { d.bank (e % 2) with st := .running }
    let d := { d with epochs := { d.epochs with run := some e, old := was }, tm := { d.tm with planDue := true } }
    let d := d.ld (fun l => { l with
      st := if was.isSome then .draining else .idle, drainSince := d.now, slow := false, force := false, retireWake := false })
    let d := d.stampAll
    let d := if was.isSome then d else d.startThreads e
    let d := d.chansDue e
    let d := forN 64 (fun port d => if d.planByte port = before port then d else forN 8 (fun k d => d.lpReplan (port * 8 + k)) d) d
    (d.dropUnused).raiseBit R.IMG_EVENTS 0 1

/-! ## Retirement of an epoch (R60, R84 to R86, R335, R336, R611) -/

/-- A cell whose epoch and version meet a test is in transit between clock domains (R85). -/
def Dev.inTransit (d : Dev) (p : Nat → Nat → Bool) : Bool :=
  let of := fun (c : Cell) => p c.epoch c.version
  d.links.any of || d.rsqs.any (fun r => r.2.slots.any (fun x => match x.2 with | some c => of c | none => false))

/-- A frame that has been granted a lane and not yet parsed has an epoch and version that meet a test (R29, R168). -/
def Dev.stamped (d : Dev) (p : Nat → Nat → Bool) : Bool :=
  d.frames.any (fun e => match e.2 with
    | some f => (match f.place with | .granted _ => true | _ => false) && !f.hasTag
        && (match f.stamp with | some (x, v) => p x v | none => false)
    | none => false)

/-- A thread when the old bank retires (R333, R335): an idle one moves at once, others wait for FORCED_MOVE. -/
def Thread.retired (x : Thread) (old run : Nat) (en : Bool) : Thread :=
  if x.epoch ≠ old then x
  else match x.st with
    | .idle => if en then { x with epoch := run, idleMove := true, stack := [] } else { x with epoch := run, st := .disabled, stack := [] }
    | .disabled => { x with epoch := run }
    | _ => x

/-- What the retirement of epoch `o` while `e` runs does: units that only `o` placed are cleared, its banks are freed, threads
move, a permitted ARB_AUTO advance falls due (R60, R85, R105, R335). -/
def Dev.retireNow (d : Dev) (o e : Nat) : Dev :=
  let d := d.clearUnplaced (placements d.runImage)
  let d := d.setBank (o % 2) { d.bank (o % 2) with st := .free }
  let d := { d with epochs := { d.epochs with old := none } }
  let d := forN 8 (fun s d => forN 256 (fun t d => d.modThr s t (fun x => x.retired o e (thrRec (d.imageOf e) s t).en)) d) d
  let d := d.ld (fun l => { l with
    st := .idle, force := false, retireWake := false, arbDue := l.arbDue || (d.policy 2 && d.fan.inputHigh) })
  d.raiseBit R.IMG_EVENTS 0 2

/-- EPOCH_RETIRE: the old epoch's count is 0. Slices that do not run are woken first, and the loader becomes IDLE once every
slice has done its part (R611). -/
def Dev.epochRetire (d : Dev) : Dev :=
  match d.epochs.old, d.epochs.run with
  | some o, some e =>
    if d.loader.st ≠ .draining ∨ SMap.get 0 d.epochs.live o ≠ 0 ∨ d.inTransit (fun e _ => decide (e = o)) = true
        ∨ d.stamped (fun e _ => decide (e = o)) = true then d
    else
      let d := forN 8 (fun s d => d.wake s) d
      if (List.range 8).any (fun s => decide ((d.slc s).st ≠ .run)) then d.ld (fun l => { l with retireWake := true })
      else d.retireNow o e
  | _, _ => d

/-- Frames of an epoch that a slice's array holds or has messages of. -/
def Dev.arrayFrames (d : Dev) (s e : Nat) : List Nat :=
  let held := (List.range 256).flatMap (fun t => (d.thr s t).slots.map (fun x => x.2 - 1))
  let queued := (List.range 256).flatMap (fun c => (d.chan s c).msgs.filterMap (fun m => m.frame))
  (held ++ queued).filter (fun f => match d.frame f with | some x => x.hasTag && decide (x.tag.epoch = e) | none => false)

/-- FORCE_RETIRE (R86, R336): the arrays discard their frames of the old epoch at once; other blocks follow as they meet one. -/
def Dev.forceRetire (d : Dev) : Dev :=
  let was := d.loader.st
  let d := d.imgForce
  match was, d.epochs.old with
  | .draining, some o =>
    forN 8 (fun s d => (d.arrayFrames s o).foldl (fun d f => ((d.arrayForget s f).arrDrop f).inc R.IMG_FORCED_DISCARDS 0 1) d) d
  | _, _ => d

/-- A write to IMG_CMD by the owner: more than one command bit is ignored as a whole (R64). -/
def Dev.imgCmd (d : Dev) (v : Nat) : Dev :=
  match v % 32 with
  | 0 => d
  | 1 => d.imgBegin
  | 2 => d.imgArm
  | 4 => d.imgAbort
  | 8 => d.imgClear
  | 16 => d.forceRetire
  | _ => d.cmdIgnored

/-! ## Retirement of a version (R89, R91, R196, R227) -/

/-- VERSION_RETIRE: the old version's count is 0; its sweeps start and a pending commit is made. -/
def Dev.versionRetire (d : Dev) : Dev :=
  let v := d.vers
  if v.oldLive = false ∨ SMap.get 0 v.live v.old ≠ 0 ∨ d.inTransit (fun _ x => decide (x = v.old)) = true
      ∨ d.stamped (fun _ x => decide (x = v.old)) = true then d
  else
    let d := { d with vers := { v with oldLive := false, force := false, slow := false } }.raiseBit R.VER_EVENTS 0 0
    let d := forN 8 (fun s d => (d.setTslice s { d.tslice s with tblSweep := true, bltSweep := true, sweepLeft := 2048 }).wake s) d
    if v.pending then d.commitNow else d

/-! ## Views (R93) -/

def LoaderState.code : LoaderState → Nat
  | .empty => 0 | .idle => 1 | .loading => 2 | .staged => 3 | .armed => 4 | .draining => 5 | .failed => 6

/-- IMG_STATUS. -/
def Dev.imgStatus (d : Dev) : Nat :=
  packFields [(0, 3, d.loader.st.code), (7, 1, b2n d.epochs.run.isSome), (8, 8, d.loader.err), (16, 4, d.epochs.run.getD 0),
    (20, 4, d.epochs.old.getD 0)]

/-- The staged image, while there is one. DESIGN CHOICE (log 150): while none is STAGED or ARMED the registers of the staged
image read 0. -/
def Dev.stagedImage (d : Dev) : List Byte :=
  match d.loader.st with
  | .staged | .armed => (d.bank d.loadBank).img
  | _ => []

/-- IMG_RUN_INFO and IMG_STG_INFO of an image; the identifier and the digest. -/
def imgInfo (img : List Byte) : Nat := if img = [] then 0 else packFields [(4, 2, imgKeySlot img), (8, 16, imgCompiler img)]
def imgIdent (img : List Byte) : Nat := if img = [] then 0 else imgId img
def imgDigest (img : List Byte) : Nat := if img = [] then 0 else leNat ((sha384 (img.take (imgSigOff img))).take 8)
def Dev.imgSvns (d : Dev) : Nat :=
  let svn := fun (img : List Byte) => if img = [] then 0 else imgSvn img
  packFields [(0, 8, svn d.runImage), (8, 8, svn d.stagedImage)]

end Sys2Proof.Machine
end

