-- ==== Sys2Proof/Machine/Rings.lean ====
section
/-! DEFINITION. The host ports (12_host_control): leases, event rings and their vectors, port resets, punt and injection.
A ring of host port `h` has the index `r * 4 + h`: event rings 0 to 4, punt 5, injection 6 to 9, DMA 10 (R516). -/
namespace Sys2Proof.Machine

/-! ## Leases (R502 to R504) -/

def Dev.lease (d : Dev) (n : Nat) : Lease := SMap.get {} d.leases n
def Dev.setLease (d : Dev) (n : Nat) (x : Lease) : Dev := { d with leases := SMap.set {} d.leases n x }

/-- A LEASE record of `kind` to ring 4 of host port `h` (R511). -/
def Dev.leaseRecord (d : Dev) (h n kind former gen : Nat) : Dev :=
  d.post h 4 5 0 (leBytes 1 n ++ leBytes 1 kind ++ leBytes 1 former ++ leBytes 1 0 ++ leBytes 2 gen ++ List.replicate 10 0)

/-- A lease record to every host port but `h`. -/
def Dev.leaseOthers (d : Dev) (h n kind gen : Nat) : Dev :=
  forN 4 (fun k d => if k = h then d else d.leaseRecord k n kind h gen) d

/-- HPL_LEASE_RESULT after a command on lease `n`. -/
def Dev.leaseResult (d : Dev) (h n res : Nat) : Dev :=
  let l := d.lease n
  d.wr R.HPL_LEASE_RESULT h (packFields [(0, 4, res), (4, 2, l.holder.getD 0), (6, 1, b2n l.holder.isSome), (16, 16, l.gen)])

/-- ACQUIRE of R502 with its result. -/
def Dev.leaseAcquire (d : Dev) (h n term : Nat) : Nat × Dev :=
  let l := d.lease n
  let till := d.now + max 1 term * 1000000
  match l.holder with
  | none => (0, d.setLease n { holder := some h, gen := (l.gen + 1) % 65536, deadline := till })
  | some k => if k = h then (1, d.setLease n { l with deadline := till }) else (2, d)

/-- RELEASE of R502 with its result. -/
def Dev.leaseRelease (d : Dev) (h n : Nat) : Nat × Dev :=
  let l := d.lease n
  if l.holder = some h then (3, (d.setLease n { l with holder := none, deadline := 0 }).leaseOthers h n 2 l.gen) else (4, d)

/-- A write of HPL_LEASE_CMD by host port `h` (R502, R503). -/
def Dev.leaseCmd (d : Dev) (h v : Nat) : Dev :=
  let n := v % 64
  let (res, d) := match fld v 8 2 with
    | 1 => d.leaseAcquire h n (fld v 16 16)
    | 2 => d.leaseRelease h n
    | _ => (7, d)
  d.leaseResult h n res

/-- LEASE_EXPIRE (R504): the term of lease `n` has run out. -/
def Dev.leaseExpire (d : Dev) (n : Nat) : Dev :=
  let l := d.lease n
  match l.holder with
  | none => d
  | some h =>
    if d.now < l.deadline then d
    else
      let d := d.setLease n { l with holder := none, deadline := 0 }
      ((d.leaseRecord h n 1 h l.gen).leaseOthers h n 2 l.gen).raiseBit R.HPL_EVENTS h 4

/-- HPL_LEASE_STATE_n. -/
def Dev.leaseState (d : Dev) (n : Nat) : Nat :=
  let l := d.lease n
  let left := if l.holder.isSome then min 4095 (ceilDiv (l.deadline - d.now) 1000000) else 0
  packFields [(31, 1, b2n l.holder.isSome), (28, 2, l.holder.getD 0), (16, 12, left), (0, 16, l.gen)]

/-! ## Rings (R508 to R517) -/

def ringAt (h r : Nat) : Nat := r * 4 + h

/-- LOG2 of a ring: 6 to 16, others act as 6. -/
def Dev.ringLog2 (d : Dev) (i : Nat) : Nat :=
  let n := d.fldOf R.RING_CTRL i 0 5
  if 6 ≤ n ∧ n ≤ 16 then n else 6

def Dev.ringEn (d : Dev) (i : Nat) : Bool := d.bitOf R.RING_CTRL i 8
def Dev.ringBase (d : Dev) (i : Nat) : Nat := d.rd R.RING_BASE_LO i + d.rd R.RING_BASE_HI i * 2 ^ 32
def Dev.ringWb (d : Dev) (i : Nat) : Nat := d.rd R.RING_WB_LO i + d.rd R.RING_WB_HI i * 2 ^ 32

/-- Entries between CONS and PROD. -/
def Dev.ringUsed (d : Dev) (i : Nat) : Nat := (d.rd R.RING_PROD i + 2 ^ 32 - d.rd R.RING_CONS i) % 2 ^ 32

/-- Entries that are free. -/
def Dev.ringRoom (d : Dev) (i : Nat) : Nat := 2 ^ d.ringLog2 i - d.ringUsed i

/-- Host memory address of the entry of index `n`, of `size` bytes. -/
def Dev.ringEntry (d : Dev) (i n size : Nat) : Nat := d.ringBase i + n % 2 ^ d.ringLog2 i * size

/-- PHASE of a record at index `n` (R508). -/
def Dev.ringPhase (d : Dev) (i n : Nat) : Nat := 1 - n / 2 ^ d.ringLog2 i % 2

def Dev.hostWrite (d : Dev) (h a : Nat) (bs : List Byte) : Dev := d.setHost h { d.host h with mem := memWrite (d.host h).mem a bs }
def Dev.hostRead (d : Dev) (h a n : Nat) : List Byte := memRead (d.host h).mem a n

/-- The index that the QZ1024 advances is written back (R517). -/
def Dev.ringBack (d : Dev) (h i index : Nat) : Dev := if d.ringWb i = 0 then d else d.hostWrite h (d.ringWb i) (leBytes 8 index)

/-- A PCIe error on a ring's request stops the ring (R517). -/
def Dev.ringError (d : Dev) (h i : Nat) : Dev :=
  ((d.setFld R.RING_CTRL i 8 1 0).setFld R.RING_STATUS i 2 1 1).raiseBit R.HPL_EVENTS h 3

/-- A record or frame of a ring is lost (R509). -/
def Dev.ringLose (d : Dev) (h i : Nat) : Dev :=
  ((d.setRing i { d.ring i with lost := true }).inc R.RING_LOST i 1).raiseBit R.HPL_EVENTS h 0

/-- `n` more completions of a ring wait for a vector (R514). -/
def Dev.ringDone (d : Dev) (i n : Nat) : Dev :=
  let x := d.ring i
  (d.setRing i { x with
    seq := x.seq + n, unsignalled := x.unsignalled + n, oldest := if x.unsignalled = 0 then d.now else x.oldest
    lost := false }).inc R.RING_DONE i n

/-- Header of a record (R510) at index `n` of ring `i`. -/
def Dev.recordHead (d : Dev) (i n len typ aux seq secs ns : Nat) (lost : Bool) : List Byte :=
  leBytes 4 (packFields [(0, 1, d.ringPhase i n), (1, 1, b2n lost), (4, 3, len - 1), (8, 8, typ), (24, 8, aux)])
    ++ leBytes 4 seq ++ leBytes 4 secs ++ leBytes 4 ns

/-- Write a record of `len` entries at PROD, and advance PROD. -/
def Dev.recordWrite (d : Dev) (h i len typ aux secs ns : Nat) (payload : List Byte) : Dev :=
  let n := d.rd R.RING_PROD i
  let x := d.ring i
  let bytes := d.recordHead i n len typ aux (x.seq + 1) secs ns x.lost ++ payload
  let d := d.hostWrite h (d.ringEntry i n 32) (bytes ++ List.replicate (32 * len - bytes.length) 0)
  (d.wr R.RING_PROD i (n + len)).ringDone i 1

/-- RING_RECORD_POST (R501, R508 to R511): the oldest queued record is written, or lost. -/
def Dev.recordPost (d : Dev) (pcieErr : Bool) : Dev :=
  match d.ringQ with
  | [] => d
  | q :: rest =>
    let d := { d with ringQ := rest }
    let i := ringAt q.host q.ring
    let size := 2 ^ d.ringLog2 i
    let len := ceilDiv (16 + q.payload.length) 32
    let at_ := d.rd R.RING_PROD i % size
    let pad := if size < at_ + len then size - at_ else 0
    if !d.ringEn i then d
    else if !(d.host q.host).bme then d.ringLose q.host i
    else if d.ringRoom i < pad + len then d.ringLose q.host i
    else if pcieErr then d.ringError q.host i
    else
      let d := if pad = 0 then d else d.recordWrite q.host i pad 0 0 q.secs q.ns []
      let d := d.recordWrite q.host i len q.typ q.aux q.secs q.ns q.payload
      d.ringBack q.host i (d.rd R.RING_PROD i)

/-- MSI-X vector `v` of host port `h` is masked. -/
def Dev.msixMasked (d : Dev) (h v : Nat) : Bool := d.bitOf R.MSIX_TABLE (h * 128 + 4 * v + 3) 0

/-- The message of a vector leaves the port. -/
def Dev.msixSend (d : Dev) (h v : Nat) : Dev := d.setHost h { d.host h with msixSent := v :: (d.host h).msixSent }

/-- Raise a vector: its message, or its PBA bit while it is masked (R514). -/
def Dev.msixRaise (d : Dev) (h v : Nat) : Dev :=
  if d.msixMasked h v then d.setFld R.MSIX_PBA (h * 2) v 1 1 else d.msixSend h v

/-- Unmasked pending vectors send their messages (R514). -/
def Dev.msixPending (d : Dev) (h : Nat) : Dev :=
  forN 32 (fun v d =>
    if d.bitOf R.MSIX_PBA (h * 2) v && !d.msixMasked h v && (d.host h).bme then (d.setFld R.MSIX_PBA (h * 2) v 1 0).msixSend h v else d) d

/-- A write to word `w` (of 128) of the MSI-X table of host port `h`; of a vector control word only the mask bit exists. -/
def Dev.msixWrite (d : Dev) (h w v : Nat) : Dev := (d.wr R.MSIX_TABLE (h * 128 + w) (if w % 4 = 3 then v % 2 else v)).msixPending h

/-- MSIX_RAISE (R514): ring `r` of host port `h` raises its vector. -/
def Dev.ringRaise (d : Dev) (h r : Nat) : Dev :=
  let i := ringAt h r
  let x := d.ring i
  let thresh := max 1 (d.fldOf R.RING_MOD i 0 16)
  if d.ringEn i && (d.host h).bme && !x.raised && decide (0 < x.unsignalled)
      && (decide (thresh ≤ x.unsignalled) || decide (x.oldest + d.fldOf R.RING_MOD i 16 16 * 1000 ≤ d.now)) then
    (d.setRing i { x with raised := true, unsignalled := 0 }).msixRaise h (d.fldOf R.RING_CTRL i 16 5)
  else d

/-- A write of RING_CTRL (R517): LOG2 stands while EN is 1; setting EN starts the ring at index 0. -/
def Dev.ringCtrl (d : Dev) (i v : Nat) : Dev :=
  let on := d.ringEn i
  let old := d.rd R.RING_CTRL i
  let v := v &&& R.RING_CTRL.mask
  let new := if on then putFld v 0 5 (old % 32) else v
  let d := d.wr R.RING_CTRL i new
  if !on && decide (fld new 8 1 = 1) then
    (((d.wr R.RING_PROD i 0).wr R.RING_CONS i 0).setFld R.RING_STATUS i 2 1 0).setRing i {}
  else d

/-- A write of RING_BASE_LO or RING_BASE_HI, ignored while EN is 1 (R517). -/
def Dev.ringBaseWrite (d : Dev) (r : RegInfo) (i v : Nat) : Dev := if d.ringEn i then d else d.wr r i (v &&& r.mask)

/-- A write of RING_CONS ends the outstanding raise (R514); CONS of an injection or DMA ring does not change (R516). One to a punt
ring is punt ring activity, which wakes the fabric (R543; DEDUCED, log 173). -/
def Dev.ringCons (d : Dev) (i v : Nat) : Dev :=
  let d := if i < 24 then d.wr R.RING_CONS i v else d
  let d := if 20 ≤ i ∧ i < 24 then d.wakeFabric else d
  d.setRing i { d.ring i with raised := false }

/-- RING_STATUS. -/
def Dev.ringStatus (d : Dev) (i : Nat) : Nat :=
  packFields [(0, 1, b2n (d.ringEn i)), (1, 1, b2n (decide (d.ringRoom i = 0))), (2, 1, d.fldOf R.RING_STATUS i 2 1)]

/-! ## The punt ring (R518, R519) -/

/-- A punted frame is discarded: its cells are freed, its tag removed. -/
def Dev.puntDrop (d : Dev) (fid : Nat) : Dev :=
  match d.frame fid with
  | none => d
  | some f => ((d.askFrees f.cells).setFrame fid { f with cells := [] }).frameRefuse fid

/-- SLOT of a punt ring, 11 to 15; others act as the nearest of these (DESIGN CHOICE, log 52). -/
def Dev.puntSlot (d : Dev) (h : Nat) : Nat := min 15 (max 11 (d.fldOf R.HPL_PUNT_CTRL h 0 4))

/-- Read the cells of a frame: its bytes, and whether one was uncorrectable. -/
def Dev.readCells (d : Dev) (cs : List Nat) : List Byte × Bool × Dev :=
  cs.foldl (fun (r : List Byte × Bool × Dev) c =>
    let (bs, ue, d) := r.2.2.readCell c
    (r.1 ++ bs, r.2.1 || ue, d)) ([], false, d)

/-- The content of a slot (R519). -/
def Dev.puntBytes (d : Dev) (h i : Nat) (f : Frame) (data : List Byte) (bad : Nat) : List Byte :=
  let room := 2 ^ d.puntSlot h - 64
  let x := d.ring i
  leBytes 4 (packFields [(0, 1, d.ringPhase i (d.rd R.RING_PROD i)), (1, 1, b2n x.lost), (2, 1, b2n (decide (bad ≠ 0))),
      (3, 1, b2n (decide (room < data.length))), (4, 4, bad), (16, 14, data.length)])
    ++ leBytes 4 (x.seq + 1) ++ List.replicate 24 0 ++ f.tag.bytes ++ data.take room

/-- PUNT_WRITE (R501, R519): the oldest frame of the punt queue, once whole, is written into a slot. -/
def Dev.puntWrite (d : Dev) (h : Nat) (pcieErr : Bool) : Dev :=
  let i := ringAt h 5
  match (d.host h).punt with
  | [] => d
  | e :: rest =>
    if !e.whole then d else
    let away := fun (d : Dev) => d.setHost h { d.host h with punt := rest }
    match d.frame e.fid with
    | none => away d
    | some f =>
      match (if f.hasTag then d.forced f.tag else none) with
      | some ctr => ((away d).inc ctr 0 1).puntDrop e.fid
      | none =>
        if !(d.host h).bme then ((away d).ringLose h i).puntDrop e.fid
        else if !d.ringEn i || decide (d.ringRoom i = 0) then d
        else if pcieErr then d.ringError h i
        else
          let (data, ue, d) := d.readCells f.cells
          let bad := if f.bufBad ≠ 0 then f.bufBad else if ue then 6 else 0
          let n := d.rd R.RING_PROD i
          let d := (away d).hostWrite h (d.ringEntry i n (2 ^ d.puntSlot h)) (d.puntBytes h i f data bad)
          let d := ((d.wr R.RING_PROD i (n + 1)).ringDone i 1).inc R.HPL_PUNT_FRAMES h 1
          let d := d.ringBack h i (d.rd R.RING_PROD i)
          ((d.askFrees f.cells).frameTagDown f).dropFrame e.fid

/-! ## Injection (R520) -/

/-- The injection ring whose descriptor is taken next, from ring `k` on; `n` bounds the rings still to be looked at. -/
def Dev.injRing (d : Dev) (h : Nat) (k : Nat) : Nat → Option Nat
  | 0 => none
  | n + 1 =>
    let i := ringAt h (6 + k % 4)
    if d.ringEn i && decide (d.ringUsed i ≠ 0) then some (k % 4) else d.injRing h (k + 1) n

/-- RING_CONS of an injection or DMA ring passes one descriptor. -/
def Dev.ringPass (d : Dev) (h i : Nat) : Dev :=
  let n := d.rd R.RING_CONS i + 1
  (d.wr R.RING_CONS i n).ringBack h i (n % 2 ^ 32)

/-- A descriptor of an injection or DMA ring is complete. -/
def Dev.ringNext (d : Dev) (h i : Nat) : Dev := (d.ringDone i 1).ringPass h i

/-- INJECT_DESCRIPTOR (R501, R520): the next descriptor is taken, its frame read and offered to the host injection source
of the pipeline that serves IN_LPORT. -/
def Dev.injectDescriptor (d : Dev) (h : Nat) (pcieErr : Bool) : Dev :=
  let x := d.host h
  if !x.bme || x.injHeld.isSome then d else
  match d.injRing h x.injTurn 4 with
  | none => d
  | some r =>
    let i := ringAt h (6 + r)
    if pcieErr then d.ringError h i
    else
      let e := d.hostRead h (d.ringEntry i (d.rd R.RING_CONS i) 32) 32
      let len := leAt e 8 2 % 2 ^ 14
      let lport := leAt e 10 2 % 512
      if len < 64 ∨ leAt e 12 20 ≠ 0 then ((d.inc R.HPL_INJ_BAD h 1).raiseBit R.HPL_EVENTS h 2).ringPass h i
      else
        let fid := d.nextFid
        let f : Frame := {
          src := .host, lport := lport, slice := sliceOf lport, pipe := lport / 16 % 4, place := .offered, arrival := d.arrivals
          bytes := d.hostRead h (leAt e 0 8) len, whole := true, host := h, ring := i }
        let d := { d with nextFid := fid + 1, arrivals := d.arrivals + 1 }
        let d := (d.setFrame fid f).setHost h { d.host h with injHeld := some (fid, i), injTurn := (r + 1) % 4 }
        let p := pipeOf lport
        (d.setIsa p { d.isa p with host := (d.isa p).host ++ [fid] }).wake (sliceOf lport)

/-- Injected frames that have been granted a lane: their descriptors are complete (R520). -/
def Dev.injSettle (d : Dev) : Dev :=
  forN 4 (fun h d =>
    match (d.host h).injHeld with
    | none => d
    | some (fid, i) =>
      let waits : Bool := match d.frame fid with | some f => decide (f.place = .offered) | none => false
      if waits then d
      else ((d.setHost h { d.host h with injHeld := none }).inc R.HPL_INJ_FRAMES h 1).ringNext h i) d

/-- ISA_GRANT (R31, R520): the arbiter's clock, and the descriptors of frames that it granted. -/
def Dev.isaGrantRow (d : Dev) (s p : Nat) : Dev := (d.isaGrant s p).injSettle

end Sys2Proof.Machine
end

