-- ==== Sys2Proof/Machine/Stats.lean ====
section
/-! DEFINITION. Statistics periods, performance counter control and samples (R583 to R595, R600, R603, R604). -/
namespace Sys2Proof.Machine

/-! ## Which counters take part (R583, R585) -/

/-- The register whose values stand at a bank key. -/
def regOfKey (k : Nat) : Option RegInfo := regTable.find? (fun r => decide (r.id = k / 2 ^ 20))

/-- The flag group of a bank key (R512). -/
def groupOfKey (k : Nat) : Nat := match regOfKey k with | some r => (flagGroup (r.addr (k % 2 ^ 20))).getD 63 | none => 63

/-- A counter of a group that a statistics period may restart (R583): the lit-second counters are left out. -/
def statCounter (k : Nat) : Bool :=
  match regOfKey k with
  | some r => decide (r.kind = .counter) && decide (2 ≤ groupOfKey k) && decide (groupOfKey k ≤ 32)
      && decide (r.id ≠ R.OE_PRI_SECS.id) && decide (r.id ≠ R.OE_SPR_SECS.id)
  | none => false

/-- Bit `g` of STAT_GROUPS. -/
def Dev.statGroup (d : Dev) (g : Nat) : Bool := if g < 32 then d.bitOf R.STAT_GROUPS_LO 0 g else d.bitOf R.STAT_GROUPS_HI 0 0

/-- A counter takes part in statistics periods now. -/
def Dev.takesPart (d : Dev) (k : Nat) : Bool := d.bitOf R.STAT_CTRL 0 0 && statCounter k && d.statGroup (groupOfKey k)

/-- The clock of the counters of group `g` is stopped: slice cores, the fabric, HBM controllers, MAC domains (R534). -/
def Dev.groupStopped (d : Dev) (g : Nat) : Bool :=
  if g < 2 then false
  else if g < 10 then decide ((d.slc (g - 2)).st = .asleep)
  else if g < 13 then d.fan.fabricAsleep
  else if g < 17 then (match (SMap.get {} d.hbm (g - 13)).st with | .off | .sleep | .offline => true | _ => false)
  else !(d.slc ((g - 17) / 2)).macRun

/-! ## Boundaries (R584, R585) -/

/-- Counters of the groups that meet `p` latch and restart; with `lost` both shadow and value become 0 (R585). -/
def Dev.latchGroups (d : Dev) (p : Nat → Bool) (lost : Bool) : Dev :=
  let part := fun k => d.takesPart k && p (groupOfKey k)
  let d := if p 12 then d.tm.ports.foldl (fun d e => forN 8 (fun q d => d.accruePause e.1 q) d) d else d
  let empty := fun (d : Dev) => forN 8 (fun s d =>
    if p (s + 2) && d.statGroup (s + 2) && d.bitOf R.STAT_CTRL 0 0 then
      let d := forN 32 (fun e d => d.wr64 R.AE_ENG_EMPTY (s * 32 + e) (d.engEmpty s e)) d
      d.setSlc s { d.slc s with runClk := 0, used := [] }
    else d) d
  let d := empty d
  let old := SMap.keep (fun k _ => !part k) d.regs.shadows
  let new := if lost then [] else SMap.keep (fun k _ => part k) d.regs.wides
  { d with regs := { d.regs with
      shadows := new.foldl (fun m e => SMap.set 0 m e.1 e.2) old
      wides := SMap.keep (fun k _ => !part k) d.regs.wides } }

/-- Boundaries that stopped domains have missed (R585). -/
def Dev.missBoundary (d : Dev) : Dev :=
  let d := forN 8 (fun s d =>
    let x := d.slc s
    d.setSlc s { x with
      missed := if d.groupStopped (s + 2) then x.missed + 1 else 0
      macMissed := if d.groupStopped (2 * s + 17) then x.macMissed + 1 else 0 }) d
  let d := forN 4 (fun k d =>
    let x := SMap.get {} d.hbm k
    { d with hbm := SMap.set {} d.hbm k { x with missed := if d.groupStopped (k + 13) then x.missed + 1 else 0 } }) d
  { d with fan := { d.fan with fabricMissed := if d.fan.fabricAsleep then d.fan.fabricMissed + 1 else 0 } }

/-- What counters of groups do when their domain next runs, after `n` missed boundaries (R585). -/
def Dev.catchUp (d : Dev) (p : Nat → Bool) (n : Nat) : Dev := if n = 0 then d else d.latchGroups p (decide (2 ≤ n))

def Dev.catchSlice (d : Dev) (s : Nat) : Dev :=
  let d := d.catchUp (fun g => decide (g = s + 2)) (d.slc s).missed
  d.setSlc s { d.slc s with missed := 0 }
def Dev.catchMac (d : Dev) (s : Nat) : Dev :=
  let d := d.catchUp (fun g => decide (g = 2 * s + 17) || decide (g = 2 * s + 18)) (d.slc s).macMissed
  d.setSlc s { d.slc s with macMissed := 0 }
def Dev.catchFabric (d : Dev) : Dev :=
  let d := d.catchUp (fun g => decide (10 ≤ g) && decide (g ≤ 12)) d.fan.fabricMissed
  { d with fan := { d.fan with fabricMissed := 0 } }
def Dev.catchHbm (d : Dev) (k : Nat) : Dev :=
  let d := d.catchUp (fun g => decide (g = k + 13)) (SMap.get {} d.hbm k).missed
  { d with hbm := SMap.set {} d.hbm k { SMap.get {} d.hbm k with missed := 0 } }

/-- Domains that run again and have missed boundaries (R585). -/
def Dev.catchAll (d : Dev) : Dev :=
  let d := forN 8 (fun s d =>
    let d := if d.groupStopped (s + 2) || decide ((d.slc s).missed = 0) then d else d.catchSlice s
    if d.groupStopped (2 * s + 17) || decide ((d.slc s).macMissed = 0) then d else d.catchMac s) d
  let d := forN 4 (fun k d =>
    if d.groupStopped (k + 13) || decide ((SMap.get {} d.hbm k).missed = 0) then d else d.catchHbm k) d
  if d.fan.fabricAsleep || decide (d.fan.fabricMissed = 0) then d else d.catchFabric

/-- The statistics period in ns. -/
def Dev.statPeriod (d : Dev) : Nat := min 60000 (max 1 (d.fldOf R.STAT_PERIOD_MS 0 0 16)) * 1000000

/-- The first boundary instant at or after `t` (R584). -/
def Dev.nextBoundary (d : Dev) (t : Nat) : Nat :=
  t + (((d.rd64 R.STAT_ALIGN 0 : Int) - (t : Int)) % (d.statPeriod : Int)).toNat

/-- STAT_BOUNDARY (R584, R587): the next boundary has been reached; several passed at once make one latch. -/
def Dev.statBoundary (d : Dev) : Dev :=
  match d.stats.next with
  | none => d
  | some t =>
    let now := d.ns64
    if now < t then d
    else
      let last := t + (now - t) / d.statPeriod * d.statPeriod
      let d := d.missBoundary
      let runs := d.groupStopped
      let d := d.latchGroups (fun g => !runs g) false
      let d := (d.wr64 R.STAT_LAST_TIME 0 last).inc R.STAT_SEQ 0 1
      let d := d.setFld R.STAT_STATUS 0 1 1 (b2n d.stats.short)
      { d with stats := { d.stats with next := some (last + d.statPeriod), short := false } }.raiseBit R.STAT_EVENTS 0 0

/-- After a write of STAT_PERIOD_MS, STAT_ALIGN or STAT_CTRL (R587): `was` is EN before it. -/
def Dev.statConfig (d : Dev) (was : Bool) : Dev :=
  let on := d.bitOf R.STAT_CTRL 0 0
  if !on then { d with stats := { d.stats with next := none, short := false } }
  else { d with stats := { d.stats with next := some (d.nextBoundary (d.ns64 + 1000000)), short := was } }

/-- A write of STAT_CTRL: EN that keeps its value changes nothing. -/
def Dev.statCtrl (d : Dev) (v : Nat) : Dev :=
  let was := d.bitOf R.STAT_CTRL 0 0
  let d := d.wr R.STAT_CTRL 0 (v % 2)
  if was = decide (v % 2 = 1) then d else d.statConfig was

/-- A write of STAT_PERIOD_MS or of one word of STAT_ALIGN, made by `f`. -/
def Dev.statPeriodWrite (d : Dev) (f : Dev → Dev) : Dev :=
  let d := f d
  if d.bitOf R.STAT_CTRL 0 0 then d.statConfig true else d

/-- The time unit's time has been replaced (R560, R587): after a step backwards the boundary instants come again (DEDUCED,
log 54). -/
def Dev.statStepped (d : Dev) (before : Nat) : Dev :=
  if d.stats.next.isSome && decide (d.ns64 < before) then
    { d with stats := { d.stats with next := some (d.nextBoundary (d.ns64 + 1)) } }
  else d

/-- STAT_STATUS. -/
def Dev.statStatus (d : Dev) : Nat := packFields [(0, 1, b2n d.stats.next.isSome), (1, 1, d.fldOf R.STAT_STATUS 0 1 1)]

/-! ## Samples (R592, R593) -/

def Dev.sampleQ (d : Dev) (s : Nat) : List Sample := SMap.get [] d.stats.samples s

/-- PMC_SAMPLE: the oldest sample called for in slice `s` is taken (R592, R593). -/
def Dev.pmcSample (d : Dev) (s : Nat) : Dev :=
  match takeFirst (fun (x : SampleDue) => decide (x.slice = s)) d.stats.due with
  | none => d
  | some (x, rest) =>
    let d := { d with stats := { d.stats with due := rest } }
    let t := d.thr s x.thread
    let q := d.sampleQ s
    if 256 ≤ q.length then d.inc R.PMS_LOST s 1
    else
      let q := q ++ [Sample.mk x.counter x.thread x.event x.pc t.epoch t.inTrap d.time.ns (d.time.secs % 2 ^ 32)]
      { d with stats := { d.stats with samples := SMap.set [] d.stats.samples s q } }

/-- A read of PMS_W0 (R593): the head sample, with its other words copied and the entry removed. -/
def Dev.pmsRead (d : Dev) (s : Nat) : Nat × Dev :=
  match d.sampleQ s with
  | [] => (0, ((d.wr R.PMS_W1 s 0).wr R.PMS_W2 s 0).wr R.PMS_W3 s 0)
  | x :: rest =>
    let d := { d with stats := { d.stats with samples := SMap.set [] d.stats.samples s rest } }
    (packFields [(31, 1, 1), (24, 5, x.counter), (16, 8, x.thread), (0, 12, x.event)],
      ((d.wr R.PMS_W1 s (packFields [(0, 16, x.pc), (16, 4, x.epoch), (20, 1, b2n x.inTrap)])).wr R.PMS_W2 s x.ns).wr R.PMS_W3 s x.secs)

/-! ## Freeze and snapshot (R594, R595) -/

/-- A write of PERF_CMD. -/
def Dev.perfCmd (d : Dev) (v : Nat) : Dev :=
  if v % 4 = 0 then d
  else
    let now := d.ns64
    let at_ := d.rd64 R.PERF_SCHED_TIME 0
    let t := if fld v 8 1 = 1 ∧ now + 1000 < at_ then at_ else now + 1000
    let d := if d.stats.perf.isSome then d.raiseBit R.PERF_EVENTS 0 1 else d
    { d with stats := { d.stats with perf := some (v % 4, t) } }

/-- Every counter is copied into its snapshot register. -/
def Dev.snapCopy (d : Dev) : Dev :=
  let d := forN 256 (fun i d => d.wr64 R.PMC_SNAP i (d.rd64 R.PMC i)) d
  forN 32 (fun i d => d.wr64 R.FAB_PMC_SNAP i (d.rd64 R.FAB_PMC i)) d

/-- PERF_ACTION (R594): the action time has been reached. -/
def Dev.perfAction (d : Dev) : Dev :=
  match d.stats.perf with
  | none => d
  | some (a, t) =>
    if d.ns64 < t then d
    else
      let d := { d with stats := { d.stats with perf := none } }
      let d := match a with
        | 1 => { d with stats := { d.stats with frozen := true } }
        | 2 => { d with stats := { d.stats with frozen := false } }
        | _ => let d := (d.snapCopy).wr64 R.PERF_SNAP_TIME 0 t
          { d with stats := { d.stats with snapSeq := d.stats.snapSeq + 1 } }
      d.raiseBit R.PERF_EVENTS 0 0

/-- PERF_STATUS. -/
def Dev.perfStatus (d : Dev) : Nat :=
  packFields [(0, 1, b2n d.stats.frozen), (1, 1, b2n d.stats.perf.isSome), (2, 2, match d.stats.perf with | some (a, _) => a | none => 0),
    (16, 16, d.stats.snapSeq)]

end Sys2Proof.Machine
end

