-- ==== Sys2Proof/Machine/Reset.lean ====
section
/-! DEFINITION. The resets (R553 to R558): what warm and cold resets leave, and losing power. -/
namespace Sys2Proof.Machine

/-! ## Registers through resets (R554) -/

def inTable (t : List RegInfo) (id : Nat) : Bool := t.any (fun r => decide (r.id = id))

/-- Registers of the AON island, which warm and cold resets keep, with the lit-second counts. -/
def aonReg (id : Nat) : Bool :=
  inTable (R.table_fan ++ R.table_aon ++ R.table_rst ++ R.table_fuse) id || decide (id = R.OE_PRI_SECS.id) || decide (id = R.OE_SPR_SECS.id)

/-- Registers that a warm reset keeps besides (R554): the time unit, MSI-X, AML_SEQ. -/
def warmReg (id : Nat) : Bool :=
  aonReg id || inTable R.table_time id || decide (id = R.MSIX_TABLE.id) || decide (id = R.MSIX_PBA.id)
    || decide (id = R.AML_SEQ.id)

/-- The register bank after a reset that keeps the registers meeting `p`: companion counts, latches and shadows are 0. -/
def Regs.resetTo (p : Nat → Bool) (r : Regs) : Regs := {
  words := SMap.keep (fun k _ => p (k / 2 ^ 20)) r.words
  wides := SMap.keep (fun k _ => p (k / 2 ^ 20)) r.wides }

/-- RST_CAUSE: cause (R567) and source (R566). -/
def Dev.setCause (d : Dev) (cause src : Nat) : Dev := d.wr R.RST_CAUSE 0 (packFields [(0, 4, cause), (8, 3, src)])

/-- RST_CAUSE.SOURCE of an accessor (R566). -/
def Accessor.source : Accessor → Nat
  | .host h => h
  | .i3c => 4
  | .bridge _ => 5
  | .amiler _ => 6
  | .oob _ => 6

/-! ## Cold reset -/

/-- A host port after a cold reset: its PERST#, its host's memory and what it last gave the link stand. -/
def HostPort.cold (p : HostPort) : HostPort := {
  perstOff := p.perstOff, mem := p.mem, readData := p.readData, msixSent := p.msixSent
  lnkWidth := p.lnkWidth, lnkSpeed := p.lnkSpeed, lnkBme := p.lnkBme, lnkMps := p.lnkMps }

/-- An optical engine after a cold reset: dark, with its non-volatile memory (R115, R134, R144). DESIGN CHOICE (log 158): a save
of its lane maps goes on through the reset. -/
def Engine.cold (now : Nat) (e : Engine) : Engine := {
  spare := e.spare, failed := e.failed, degraded := e.degraded, spareDeg := e.spareDeg, nvMaps := e.nvMaps, saving := e.saving
  savedSecs := e.savedSecs, lastSave := now, litMark := now, litNs := e.litNs }

/-- What the ECN shift register takes at a cold reset (R458): TM_ECN_SEED, which has its reset value by then (DEDUCED, log 170); 0 acts
as 1. -/
def Dev.ecnSeed (d : Dev) : Nat := max 1 (d.rd R.TM_ECN_SEED 0)

/-- Everything but the AON island at its state after cold reset (R553, R554): the fantail state `st` is entered. -/
def Dev.clearCore (d : Dev) (st : FanState) : Dev :=
  let d := forN 16 (fun k d => d.accrueLit k) d
  let c : Dev := {
    now := d.now, freeCount := d.freeCount, regs := d.regs.resetTo aonReg
    hosts := SMap.mapV {} (fun _ p => p.cold) d.hosts
    fan := { d.fan with
      st := st, since := d.now, hbmDone := false, fabricAsleep := false, fabricWakeReq := false, fabricIdleSince := none
      fabricMissed := 0, resetWaiting := none, warmRunning := none, ppsOut := false }
    fuses := d.fuses, errs := { remaps := d.errs.remaps }
    pports := SMap.mapV {} (fun _ p => { signal := p.signal, cdrLock := p.cdrLock }) d.pports
    engines := SMap.mapV {} (fun _ e => e.cold d.now) d.engines
    hbm := SMap.mapV {} (fun _ x => { trained := x.trained }) d.hbm
    nextFid := d.nextFid, arrivals := d.arrivals, grants := d.grants, nextCid := d.nextCid, wire := d.wire }
  let c := forN 8 (fun s c => c.setSlc s { since := d.now, macIdleSince := d.now }) c
  { c.lmapLoad with tm := { c.tm with lfsr := c.ecnSeed } }

/-- The clocks start (R546): the time unit at 0 s, every HBM controller in INIT, no refill due yet (R466). -/
def Dev.clocksStart (d : Dev) : Dev :=
  forN 4 (fun k d => { d with hbm := SMap.set {} d.hbm k { SMap.get {} d.hbm k with st := .init, since := d.now } }) { d with
    time := {}, tm := { d.tm with lastRefill := d.now } }

/-- A cold reset into fantail state `st`, counted and recorded (R554, R566, R567). -/
def Dev.coldReset (d : Dev) (st : FanState) (cause src : Nat) : Dev :=
  ((d.clearCore st).setCause cause src).inc R.RST_COLD_COUNT 0 1

/-- The lit-second counts are those last saved (R134). -/
def Dev.loadLit (d : Dev) : Dev :=
  forN 16 (fun k d => forN 16 (fun n d =>
    d.wr64 (if n < 8 then R.OE_PRI_SECS else R.OE_SPR_SECS) (k * 8 + n % 8) (SMap.get 0 (d.eng k).savedSecs n)) d) d

/-- Power has been lost without saving: lit seconds since the last save are lost (R134, R550), a fuse change in progress is
left torn (R97). -/
def Dev.unsaved (d : Dev) : Dev := d.loadLit.fuseTear

/-! ## Warm reset -/

/-- A host port after a warm reset (R500, R554): its link and key stand. -/
def HostPort.warm (p : HostPort) : HostPort := { p with
  punt := [], injHeld := none, injTurn := 0, oobBusy := false, dma := none, keyStage := [], nowSecs := 0, nowFrac := 0, ppsSecs := 0 }

/-- The shared buffer after a warm reset: every cell but the raw cells of host ports is free (R379, R554). -/
def Buffer.warm (b : Buffer) : Buffer :=
  let stays := fun (r : CellRec) => r.alloc && decide (r.owner / 8192 = 3)
  { b with
    recs := SMap.mapV {} (fun _ r => if stays r then r else { owner := r.owner }) b.recs
    freed := b.freed ++ (b.recs.filter (fun e => e.2.alloc && !stays e.2)).map (·.1)
    freeReq := [], used := [] }

/-- The tables after a warm reset: entries, settings, sweeps and the scrubber stand; learns and step-throughs are gone. -/
def Tables.warm (t : Tables) : Tables := { t with
  slices := SMap.mapV {} (fun _ x => { x with lastKind := 0, learnAt := none, learnQ := [], noRoomAt := [], limitAt := [] }) t.slices
  steps := [] }

/-- A stack after a warm reset: its state, with every page that is not RETIRED free. -/
def Hbm.warm (x : Hbm) : Hbm := { x with
  pages := SMap.keep (fun _ p => decide (p.st = .retired)) x.pages, writing := false, sleepReq := false, wakeReq := false, diag := 0
  fails := 0, retry := [], lastRead := 7, lastWrite := 7, repair := none }

/-- The threads after a warm reset: each restarted in the running bank (R294, R554). -/
def Dev.warmThreads (d : Dev) : Dev :=
  match d.epochs.run with
  | none => d
  | some e => forN 8 (fun s d => forN 256 (fun t d =>
      let r := thrRec (d.imageOf e) s t
      d.modThr s t (fun x => {
        st := if r.en then .run else .disabled, epoch := e, pc := r.entry
        timer := x.timer, expired := x.expired, timerInt := x.timerInt, sigpend := x.sigpend })) d) d

/-- The loader at a warm reset (R556). -/
def Dev.warmLoader (d : Dev) : Dev :=
  let d := d.loadAbort
  let d := match d.epochs.old, d.epochs.run with
    | some o, some e => d.retireNow o e
    | _, _ => d
  d.ld (fun l => { l with img := [], held := false, owner := 0 })

/-- What a warm reset leaves (R554 to R556). The slices and the fabric run afterwards (DESIGN CHOICE, log 55). -/
def Dev.warmCore (d : Dev) : Dev :=
  let c : Dev := { d with
    regs := d.regs.resetTo warmReg
    hosts := SMap.mapV {} (fun _ p => p.warm) d.hosts
    rings := [], ringQ := [], leases := SMap.mapV {} (fun _ l => { l with holder := none, deadline := 0 }) d.leases
    bridge := [], fan := { d.fan with fabricAsleep := false, fabricWakeReq := false, fabricIdleSince := none, fabricMissed := 0 }
    slices := SMap.mapV {} (fun _ x => { since := d.now, macRun := x.macRun, macIdleSince := d.now }) d.slices
    epochs := { d.epochs with live := [] }, vers := { d.vers with live := [] }
    errs := { d.errs with tracker := [], log := [], armed := false }
    stats := {}, lports := [], pports := SMap.mapV {} (fun _ p => { signal := p.signal, cdrLock := p.cdrLock }) d.pports
    frames := [], copies := [], pfcRx := [], hoppers := [], isas := [], tbl := d.tbl.warm, amlQ := [], aml := none, cmdqs := []
    links := [], linkErrs := [], senders := [], rsqs := [], admitQ := [], buf := d.buf.warm
    tm := { policers := d.tm.policers, lfsr := d.tm.lfsr, plan := d.epochs.run, lastRefill := d.tm.lastRefill }
    hbm := SMap.mapV {} (fun _ x => x.warm) d.hbm, spill := []
    ae := { d.ae with chans := [], dogs := [], evLost := [], patch := [], guardWait := [] } }
  let c := (forN 16 (fun k c => c.darkLater k) c).lmapLoad
  let c := (c.warmLoader.versionRetire).stampAll
  match c.epochs.run with
  | some e => (c.warmThreads).chansDue e
  | none => c

/-- A warm reset starts (R553 to R556). -/
def Dev.warmReset (d : Dev) (src : Nat) : Dev :=
  let d := ((d.warmCore).setCause 4 src).inc R.RST_WARM_COUNT 0 1
  { d with fan := { d.fan with warmRunning := some d.now, resetWaiting := none } }

/-- A reset of either kind by command starts. -/
def Dev.startReset (d : Dev) (k : ResetKind) (src : Nat) : Dev :=
  match k with
  | .warm => d.warmReset src
  | .cold => (d.coldReset .init 3 src).clocksStart

/-! ## RST_CMD (R557, R558, R566) -/

/-- A reset command in READY: it waits for a fuse change (R105, R557); while a reset waits or runs only COLD over WARM is taken (R557). -/
def Dev.askReset (d : Dev) (k : ResetKind) (src : Nat) : Dev :=
  let warmFirst := match d.fan.resetWaiting with | some (.cold, _) => false | _ => true
  let other := d.fan.resetWaiting.isSome || d.fan.warmRunning.isSome
  if d.fan.st ≠ .ready then d
  else if other && !(warmFirst && decide (k = .cold)) then d
  else if d.fuseBusy then { d with fan := { d.fan with resetWaiting := some (k, src) } }
  else d.startReset k src

/-- The key of RST_CMD and FAN_CMD (R558). -/
def keyOk (v : Nat) : Bool := decide (fld v 16 16 = 0x5AFE)

/-- A write of RST_CMD with the key. -/
def Dev.rstCmd (d : Dev) (src v : Nat) : Dev :=
  match v % 4 with
  | 1 => d.askReset .warm src
  | 2 => d.askReset .cold src
  | _ => d

/-- DEFERRED_RESET_START (R557). -/
def Dev.deferredReset (d : Dev) : Dev :=
  match d.fan.resetWaiting with
  | some (k, src) => if d.fuseBusy then d else { d with fan := { d.fan with resetWaiting := none } }.startReset k src
  | none => d

/-- WARM_RESET_DONE (R555): within 500 µs of the command; BAR0 accesses resume. -/
def Dev.warmDone (d : Dev) : Dev := { d with fan := { d.fan with warmRunning := none } }

/-! ## Port reset (R500) -/

/-- Every lease of host port `h` is freed (R504). -/
def Dev.leasesReset (d : Dev) (h : Nat) : Dev :=
  forN 64 (fun n d =>
    let l := d.lease n
    if l.holder = some h then (d.setLease n { l with holder := none, deadline := 0 }).leaseOthers h n 3 l.gen else d) d

/-- PORT_RESET of host port `h` (R500); `linkDown` where the Data Link Layer goes down. -/
def Dev.portReset (d : Dev) (h : Nat) (linkDown : Bool) : Dev :=
  let d := d.leasesReset h
  let d := forN 11 (fun r d =>
    let i := ringAt h r
    (((d.setFld R.RING_CTRL i 8 1 0).wr R.RING_PROD i 0).wr R.RING_CONS i 0).setRing i {}) d
  let d := { d with ringQ := d.ringQ.filter (fun q => decide (q.host ≠ h)) }
  let held := (d.host h).punt
  let d := d.setHost h { d.host h with punt := [], dma := none }
  let d := held.foldl (fun d e => d.puntDrop e.fid) (d.inc R.HPL_PUNT_DROPS h held.length)
  let d := match (d.host h).injHeld with
    | none => d
    | some (fid, _) => match d.frame fid with
      | some f =>
        if f.place = Place.offered then
          let p := f.slice * 4 + f.pipe
          ((d.setIsa p { d.isa p with host := (d.isa p).host.filter (· ≠ fid) }).dropFrame fid).inc R.HPL_INJ_ABANDONED h 1
        else d
      | none => d
  let d := match d.aml with
    | some a => if a.oob && decide (a.host = h) then
        { d with aml := if a.waitSince.isSome then some { a with abandon := true } else none } else d
    | none => d
  let d := if d.owns h then d.releaseClaim else d
  let d := forN 128 (fun w d => d.toReset (h * 128 + w) R.MSIX_TABLE) d
  let d := d.wr R.MSIX_PBA (h * 2) 0
  let p := d.host h
  d.setHost h { p with up := p.up && !linkDown, bme := false, mps := 0, injHeld := none, injTurn := 0, oobBusy := false }

/-- A host port's link comes up with what its host gives it (R547). -/
def Dev.linkUp (d : Dev) (h : Nat) : Dev :=
  let p := d.host h
  d.setHost h { p with up := true, bme := p.lnkBme, mps := p.lnkMps }

/-- Host ports are enabled: from the 8.0 ms point of R546, which comes at most 3.0 ms after the entry to INIT, and in READY. -/
def Dev.hostsEnabled (d : Dev) : Bool :=
  decide (d.fan.st = .ready) || (decide (d.fan.st = .init) && decide (d.fan.since + 3000000 ≤ d.now))

/-- The host ports whose PERST# is off and whose link is down come up (R547). -/
def Dev.linksUp (d : Dev) : Dev := forN 4 (fun h d => if (d.host h).perstOff && !(d.host h).up then d.linkUp h else d) d

/-- PERST_DEASSERT (R547): link training starts at once where host ports are enabled, else when they are. The width, the
speed, Bus Master Enable and the payload size are what the host then sets (log 53). -/
def Dev.perstDeassert (d : Dev) (h width speed : Nat) (bme : Bool) (mps : Nat) : Dev :=
  let d := d.setHost h { d.host h with perstOff := true, lnkWidth := width, lnkSpeed := speed, lnkBme := bme, lnkMps := mps }
  if d.hostsEnabled then d.linkUp h else d

end Sys2Proof.Machine
end

