-- ==== Sys2Proof/Machine/Power.lean ====
section
/-! DEFINITION. The fantail (13_power_clocks_reset): slice and fabric sleep, the main state, losing and gaining power, the time
unit, I3C addressing, JTAG, and the passing of time. -/
namespace Sys2Proof.Machine

/-! ## Events of the fantail -/

/-- A FAN_EVENTS bit is set; its rise raises an in-band interrupt where AON_I3C_IBI_EN enables it (R564). -/
def Dev.fanEvent (d : Dev) (bit : Nat) : Dev :=
  let rises := !d.bitOf R.FAN_EVENTS 0 bit && d.bitOf R.AON_I3C_IBI_EN 0 bit
  let d := d.raiseBit R.FAN_EVENTS 0 bit
  if rises then { d with fan := { d.fan with ibi := d.fan.ibi ++ [bit] } } else d

/-- The synthesisers run (R534): host/control, time and the data path. -/
def Dev.clocksOn (d : Dev) : Bool := decide (d.fan.st = .init) || decide (d.fan.st = .ready)

/-! ## Slice sleep and wake (R535 to R541) -/

/-- A frame is in an ingress pipeline or at the link edge of slice `s`. -/
def Frame.inSlice (f : Frame) (s : Nat) : Bool :=
  decide (f.slice = s) && (match f.place with
    | .offered | .granted _ | .ingress _ | .deparse => true
    | .fabric => !f.sentLast
    | _ => false)

/-- The array of slice `s` reports idle (R345). -/
def Dev.arrayIdle (d : Dev) (s : Nat) : Bool :=
  d.ae.threads.all (fun e => decide (e.1 / 256 ≠ s) ||
    ((match e.2.st with | .idle | .disabled | .stopped | .faulted => true | _ => false) && e.2.timer.isNone))
  && d.ae.chans.all (fun e => decide (e.1 / 256 ≠ s) || decide (e.2.msgs = []))

/-- The idle rule of slice `s` (R536); a copy that is parked counts as held by the traffic manager (R609). -/
def Dev.idleRule (d : Dev) (s : Nat) : Bool :=
  (List.range 8).all (fun q => decide ((d.hop (s * 8 + q)).fill = 0))
  && d.frames.all (fun e => match e.2 with | some f => !f.inSlice s | none => true)
  && d.links.all (fun c => decide (c.slice ≠ s))
  && (List.range 4).all (fun p => decide ((d.rsq (streamOf true s p)).slots = []))
  && d.copies.all (fun e => match e.2 with | some c => decide (sliceOfQueue c.queue ≠ s) | none => true)
  && d.arrayIdle s
  && decide ((d.tslice s).learnQ = []) && !(d.tslice s).tblSweep && !(d.tslice s).bltSweep && !(d.tslice s).ageWait
  && [Engine7.blt, .tbl, .stg, .pch].all (fun e => decide (d.cmdQ e s = []))
  && d.bridge.all (fun a => decide (a.addr < 0x1000000 + s * 0x100000) || decide (0x1100000 + s * 0x100000 ≤ a.addr))

def Dev.modSlc (d : Dev) (s : Nat) (f : SliceSt → SliceSt) : Dev := d.setSlc s (f (d.slc s))

/-- SLICE_SLEEP_ENTRY (R535): RUN to ENTERING. A slice that retirement needs stays awake (R611). -/
def Dev.sleepEntry (d : Dev) (s : Nat) : Dev :=
  let x := d.slc s
  let us := max 1 (d.fldOf R.FAN_IDLE 0 0 16)
  let long := match x.idleSince with | some t => decide (t + us * 1000 ≤ d.now) | none => false
  if decide (d.fan.st = .ready) && decide (x.st = .run) && long && d.idleRule s && d.bitOf R.FAN_SLEEP_EN 0 s
      && !d.bitOf R.FAN_HOLD 0 s && !d.loader.retireWake then
    d.setSlc s { x with st := .entering, since := d.now, idleSince := none }
  else d

/-- SLICE_ASLEEP (R535): ENTERING to ASLEEP, unless a wake request has come. -/
def Dev.sliceAsleep (d : Dev) (s : Nat) : Dev :=
  let x := d.slc s
  if x.st = .entering ∧ x.wakeReq = false then (d.setSlc s { x with st := .asleep, since := d.now }).inc R.FAN_SLEEPS s 1 else d

/-- ENTERING or ASLEEP to WAKING (R535). -/
def Dev.startWake (d : Dev) (s : Nat) : Dev :=
  let x := d.slc s
  if x.st = .entering ∨ x.st = .asleep then (d.setSlc s { x with st := .waking, since := d.now, wakeReq := false }).wakeFabric else d

/-- SLICE_WAKE (R535, R538): the fantail takes a wake request. -/
def Dev.sliceWake (d : Dev) (s : Nat) : Dev := if (d.slc s).wakeReq then d.startWake s else d

/-- SLICE_WAKE_DONE (R535, R538, R79, R585): WAKING to RUN; what the slice slept through takes effect. -/
def Dev.sliceWakeDone (d : Dev) (s : Nat) : Dev :=
  let x := d.slc s
  if x.st ≠ .waking then d
  else
    let d := d.setSlc s { x with st := .run, since := d.now, wakeReq := false, switchDue := false, idleSince := none }
    let d := if x.switchDue then forN 4 (fun p d => d.setIsa (s * 4 + p)
        { d.isa (s * 4 + p) with epoch := d.epochs.run.getD 0, version := d.vers.cur }) d else d
    ((d.drainSlice s).inc R.FAN_WAKES s 1).catchAll

/-- A write of FAN_HOLD (R541): a 1 wakes a slice that sleeps or is about to. -/
def Dev.fanHold (d : Dev) (v : Nat) : Dev :=
  forN 8 (fun s d => if fld v s 1 = 1 then d.startWake s else d) (d.wr R.FAN_HOLD 0 (v % 512))

/-- MAC_DOMAIN_STOP (R542): 10 µs after the last logical port of the slice entered DISABLED. -/
def Dev.macStop (d : Dev) (s : Nat) : Dev :=
  let x := d.slc s
  if x.macRun ∧ d.sliceIdle s ∧ d.bitOf R.FAN_HOLD 0 s = false ∧ x.macIdleSince + 10000 ≤ d.now ∧ d.fan.st = .ready then
    d.setSlc s { x with macRun := false }
  else d

/-- PORT_LIGHT (R117, R542, R585): a MAC domain that had stopped runs again. -/
def Dev.portLightRow (d : Dev) (lport : Nat) : Dev := (d.portLight lport).catchAll

/-! ## The fabric (R543, R544) -/

/-- The idle rule of the fabric (R543), but for its time. -/
def Dev.fabricIdle (d : Dev) : Bool :=
  (List.range 8).all (fun s => decide ((d.slc s).st = .asleep))
  && d.buf.recs.all (fun e => !(e.2.alloc && decide (e.2.owner / 8192 = 1)))
  && decide (d.copies = [])
  && d.tm.ports.all (fun e => e.2.pauseEnd.all (fun x => decide (x.2 ≤ d.now)) && decide (e.2.xoff = 0))
  && decide (d.cmdQ .rpl 0 = []) && decide (d.cmdQ .bpm 0 = []) && (List.range 8).all (fun s => decide (d.cmdQ .gov s = []))
  && d.bitOf R.FAN_SLEEP_EN 0 8 && !d.bitOf R.FAN_HOLD 0 8

/-- FABRIC_SLEEP (R543): the fabric sleeps and asks every HBM controller in RUN to sleep. -/
def Dev.fabricSleep (d : Dev) : Dev :=
  let us := max 1 (d.fldOf R.FAN_IDLE 0 16 16)
  let long := match d.fan.fabricIdleSince with | some t => decide (t + us * 1000 ≤ d.now) | none => false
  if !d.fan.fabricAsleep && long && d.fabricIdle && !d.fan.fabricWakeReq && decide (d.fan.st = .ready) then
    let d := { d with fan := { d.fan with fabricAsleep := true, fabricIdleSince := none } }
    forN 4 (fun k d => if (d.stk k).st = .run then d.setStk k { d.stk k with sleepReq := true } else d) d
  else d

/-- FABRIC_WAKE (R543, R544): the refills missed, the gate states of the time at wake, gate changes that passed. -/
def Dev.fabricWake (d : Dev) : Dev :=
  if !(d.fan.fabricAsleep && d.fan.fabricWakeReq) then d
  else
    let d := { d with fan := { d.fan with fabricAsleep := false, fabricWakeReq := false } }.inc R.FAN_FABRIC_WAKES 0 1
    let d := if d.refillsDue = 0 then d else d.refill d.refillsDue
    let d := d.tm.ports.foldl (fun d e => (d.gateChange e.1).gateBoundary e.1) d
    let d := forN 4 (fun k d => d.setStk k { d.stk k with sleepReq := false, wakeReq := decide ((d.stk k).st = .sleep) }) d
    d.drainFabric.catchAll

/-- HBM_SLEEP_EXIT with what the controller's counters missed (R439, R585). -/
def Dev.hbmWakeRow (d : Dev) (k : Nat) : Dev := (d.hbmWake k).catchAll

/-- HBM_TRAIN_DONE; HBM_DONE is set once no controller has its training still to come (R546). -/
def Dev.hbmTrainRow (d : Dev) (k mask : Nat) (reused : Bool) : Dev :=
  let d := d.hbmTrainDone k mask reused
  let all := (List.range 4).all (fun j => match (d.stk j).st with | .off | .init | .train => false | _ => true)
  if all then { d with fan := { d.fan with hbmDone := true } } else d

/-! ## The main state (R545 to R552) -/

/-- Entry to POWER_UP: a cold reset; a remembered exit is cleared (R545, R553). -/
def Dev.powerUp (d : Dev) (src : Nat) : Dev :=
  { d with fan := { d.fan with exitHeld := false } }.coldReset .powerUp 2 src

/-- INPUT_QUALIFIED (R545, R552, R624): 48 V has been above 44 V for 10 ms. -/
def Dev.inputQualified (d : Dev) : Dev :=
  if !d.fan.aonOn then d
  else
    let d := { d with fan := { d.fan with inputHigh := true, inputOk := true } }
    if d.fan.st = .standby ∧ d.bitOf R.AON_CTRL 0 0 = true ∧ d.fan.exitHeld = false then d.powerUp 7 else d

/-- A die temperature in eighths of a degree. -/
def Dev.dieTemp (d : Dev) (k : Nat) : Int := sext 12 (d.rd R.FAN_TEMP k)

/-- FAN_CMD.POWER_ON (R545). -/
def Dev.powerOn (d : Dev) (src : Nat) : Dev :=
  match d.fan.st with
  | .standby => if d.fan.inputHigh then d.powerUp src else d
  | .tripped => if (List.range 9).all (fun k => decide (d.dieTemp k < 800)) then d.powerUp src else d
  | _ => d

/-- FAN_CMD.SHUTDOWN (R549, R552): ports are disabled, lasers go dark, lit seconds are saved, memory enters self-refresh. -/
def Dev.shutdown (d : Dev) (src : Nat) : Dev :=
  if d.fan.st ≠ .ready then d
  else
    let d := forN 512 (fun n d => d.lpDisable n) d
    let d := forN 16 (fun k d => (d.darkEngine k).saveLit k) d
    let d := forN 4 (fun k d => if (d.stk k).st = .run then d.setStk k { d.stk k with st := .sleep, since := d.now } else d) d
    { d with fan := { d.fan with st := .shutdown, since := d.now, exitHeld := true, ppsOut := false } }.setCause 7 src

/-- A write of FAN_CMD with the key (R558, R568). -/
def Dev.fanCmd (d : Dev) (src v : Nat) : Dev :=
  match v % 4 with
  | 1 => d.powerOn src
  | 2 => d.shutdown src
  | _ => d

/-- The AON island loses power (R626): what it held is lost, and nothing answers until the standby rail rises. -/
def Dev.unpower (d : Dev) : Dev :=
  let c := d.clearCore .standby
  { c with regs := {}, errs := {}, hbm := [], fan := { inputHigh := d.fan.inputHigh, vsb3 := false, aonOn := false } }

/-- SHUTDOWN_DONE (R549): frames are discarded, the conversion is off, the island is on the standby rail. -/
def Dev.shutdownDone (d : Dev) : Dev :=
  if d.fan.st ≠ .shutdown then d
  else
    let d := ((d.clearCore .standby).fuseTear).fanEvent 1
    if d.fan.vsb3 then d else d.unpower

/-- RAILS_GOOD (R546): POWER_UP to INIT, clocks started. -/
def Dev.railsGood (d : Dev) : Dev :=
  if d.fan.st = .powerUp then ({ d with fan := { d.fan with st := .init, since := d.now } }).clocksStart else d

/-- STARTUP_DONE (R546, R547): INIT to READY; host ports whose PERST# is off come up. -/
def Dev.startupDone (d : Dev) : Dev :=
  if d.fan.st ≠ .init then d
  else
    let d := { d with fan := { d.fan with st := .ready, since := d.now } }.fanEvent 0
    let d := forN 8 (fun s d => d.modSlc s (fun x => { x with macIdleSince := d.now })) d
    d.linksUp

/-- The conversion is off at once, with nothing saved: the fantail enters `st` (R550, R551). -/
def Dev.powerCut (d : Dev) (st : FanState) (cause : Nat) : Dev := ((d.clearCore st).unsaved).setCause cause 7

/-- A thermal trip (R551, R552). -/
def Dev.trip (d : Dev) : Dev := { d with fan := { d.fan with exitHeld := true } }.powerCut .tripped 6

/-- The main states in which brownout and trip act. -/
def FanState.live : FanState → Bool
  | .powerUp => true
  | .init => true
  | .ready => true
  | _ => false

/-- BROWNOUT (R545, R550, R568, R626, R627): 48 V falls below 40 V; `hot` where a die reaches 125 °C in the same clock. -/
def Dev.brownout (d : Dev) (hot : Bool) : Dev :=
  let d := if d.fan.inputOk then { d with fan := { d.fan with inputOk := false } }.fanEvent 2 else d
  let d := { d with fan := { d.fan with inputHigh := false }, loader := { d.loader with arbDue := false } }
  let d :=
    if d.fan.st.live then (if hot then d.trip else d.powerCut .standby 5)
    else if d.fan.st = .tripped then { d with fan := { d.fan with st := .standby, since := d.now } }
    else d
  if d.fan.vsb3 then d else d.unpower

/-- TEMP_SAMPLE (R551): die `k` reads `t`; a crossing of WARN, and a trip at 125 °C. -/
def Dev.tempSample (d : Dev) (k t : Nat) : Dev :=
  if !d.fan.aonOn then d
  else
    let warn : Int := d.fldOf R.FAN_THERM 0 0 8 * 8
    let was := d.dieTemp k
    let d := d.wr R.FAN_TEMP k (t % 4096)
    let d := if was < warn ∧ warn ≤ d.dieTemp k then d.fanEvent 3 else d
    if d.fan.st.live && decide (1000 ≤ d.dieTemp k) then d.trip else d

/-- STANDBY_RAIL_LOSS (R626): the AON island goes on from the conversion while that runs, else it has no power. -/
def Dev.railLoss (d : Dev) : Dev :=
  let d := { d with fan := { d.fan with vsb3 := false } }
  if d.fan.inputHigh && (d.fan.st.live || decide (d.fan.st = .shutdown)) then d else d.unpower

/-- POWER_ON_RESET (R553, R567): the standby rail rises; everything but non-volatile memory is reset. -/
def Dev.powerOnReset (d : Dev) : Dev :=
  let c := ((if d.fuses.busy then d else d.fuseResult 0).unsaved).clearCore .standby
  { c with regs := {}, errs := {}, hbm := [], fan := { inputHigh := d.fan.inputHigh } }.loadLit.setCause 1 7

/-! ## The time unit (R559 to R562) -/

/-- TIME_RATE as it acts: at most ±1,000 ppm (R559). -/
def Dev.timeRate (d : Dev) : Int := max (-4294967) (min 4294967 (sext 32 (d.rd R.TIME_RATE 0)))

/-- One time clock (R559). -/
def TimeUnit.tick (t : TimeUnit) (rate : Int) : TimeUnit :=
  let f := ((t.frac : Int) + 2 ^ 32 + rate).toNat
  let n := t.ns + f / 2 ^ 32
  if n < 10 ^ 9 then { t with ns := n, frac := f % 2 ^ 32 }
  else { secs := (t.secs + 1) % 2 ^ 48, ns := n - 10 ^ 9, frac := f % 2 ^ 32 }

/-- The time unit takes a new time (R560). -/
def Dev.timeTo (d : Dev) (t : TimeUnit) : Dev :=
  let before := d.ns64
  ({ d with time := t }.statStepped before).raiseBit R.TIME_EVENTS 0 2

/-- TIME_CMD.SET (R560): a TIME_SET_NS above 999,999,999 gives a nanoseconds field that the spec does not state (log 2). -/
def Dev.timeSet (d : Dev) : Dev :=
  let secs := d.rd R.TIME_SET_SL 0 + d.fldOf R.TIME_SET_SH 0 0 16 * 2 ^ 32
  let ns := d.rd R.TIME_SET_NS 0
  if ns < 10 ^ 9 then d.timeTo { secs := secs, ns := ns }
  else
    let (v, d) := d.free 30
    d.timeTo { secs := secs, ns := v % 10 ^ 9 }

/-- TIME_CMD.STEP (R560): the signed TIME_STEP_NS is added; the fraction stands. -/
def Dev.timeStep (d : Dev) : Dev :=
  let n := ((d.ns64 : Int) + sext 32 (d.rd R.TIME_STEP_NS 0)) % (2 ^ 48 * 10 ^ 9 : Int)
  d.timeTo { secs := n.toNat / 10 ^ 9, ns := n.toNat % 10 ^ 9, frac := d.time.frac }

/-- A write of TIME_CMD: both bits set is ignored (R569). -/
def Dev.timeCmd (d : Dev) (v : Nat) : Dev :=
  match v % 4 with
  | 1 => d.timeSet
  | 2 => d.timeStep
  | _ => d

/-- A write of TIME_CTRL: without REF_SEL nothing is locked or held over (R561), without PPS_OUT_EN the 1PPS output is low (R632). -/
def Dev.timeCtrl (d : Dev) (v : Nat) : Dev :=
  let d := d.wr R.TIME_CTRL 0 (v &&& R.TIME_CTRL.mask)
  let d := if fld v 2 1 = 0 then { d with fan := { d.fan with ppsOut := false } } else d
  if v % 2 = 0 then d.wr R.TIME_STATUS 0 0 else d

/-- REF_LOST (R561): no 10 MHz edge for 1 µs while REF_SEL is 1. -/
def Dev.refLost (d : Dev) : Dev :=
  if d.clocksOn && d.bitOf R.TIME_CTRL 0 0 then (d.wr R.TIME_STATUS 0 2).raiseBit R.TIME_EVENTS 0 1 else d

/-- REF_RELOCK (R561): the 10 MHz input has been stable for 100 ms while REF_SEL is 1. -/
def Dev.refRelock (d : Dev) : Dev := if d.clocksOn && d.bitOf R.TIME_CTRL 0 0 then d.wr R.TIME_STATUS 0 1 else d

/-- TIME_STATUS: LOCKED and HOLDOVER mean something while REF_SEL is 1. -/
def Dev.timeStatus (d : Dev) : Nat := if d.bitOf R.TIME_CTRL 0 0 then d.rd R.TIME_STATUS 0 % 4 else 0

/-- PPS_IN_EDGE (R562). -/
def Dev.ppsIn (d : Dev) : Dev :=
  if d.clocksOn && d.bitOf R.TIME_CTRL 0 1 then
    ((((d.wr R.TIME_PPS_IN_NS 0 d.time.ns).wr R.TIME_PPS_IN_SL 0 d.time.secs).wr R.TIME_PPS_IN_SH 0 (d.time.secs / 2 ^ 32 % 65536))).raiseBit
      R.TIME_EVENTS 0 0
  else d

/-- PPS_OUT_RISE (R562, R632): in READY the nanoseconds field equals OFFSET_NS, within 2 ns. -/
def Dev.ppsRise (d : Dev) : Dev :=
  let off := d.fldOf R.TIME_PPS_OUT 0 0 30
  if decide (d.fan.st = .ready) && d.bitOf R.TIME_CTRL 0 2 && !d.fan.ppsOut && decide (off ≤ d.time.ns + 2) && decide (d.time.ns ≤ off + 2) then
    { d with fan := { d.fan with ppsOut := true, ppsOutSince := d.now } }
  else d

/-- PPS_OUT_FALL (R562): WIDTH_MS after the rise; 0 acts as 1. -/
def Dev.ppsFall (d : Dev) : Dev :=
  if d.fan.ppsOut && decide (d.fan.ppsOutSince + max 1 (d.fldOf R.TIME_PPS_WIDTH 0 0 10) * 1000000 ≤ d.now) then
    { d with fan := { d.fan with ppsOut := false } }
  else d

/-! ## I3C addressing and JTAG (R563, R565) -/

/-- The provisioned ID of the I3C target (R563). -/
def provisionedId : Nat := packFields [(33, 15, Config.mipiId), (16, 16, 0x1024), (0, 8, R.DEV_REV.reset)]

/-- ENTDAA (R563): the target sends its provisioned ID and takes its dynamic address. -/
def Dev.entdaa (d : Dev) (addr : Nat) : Dev :=
  if d.fan.aonOn then { d with fan := { d.fan with i3cPid := provisionedId } }.wr R.AON_I3C_STATUS 0 (addr % 128 + 128) else d

/-- A JTAG instruction, by its number in `Fan.jtagInsn`, with the data register that it captures. -/
def Dev.jtag (d : Dev) (insn data : Nat) : Dev :=
  if d.fan.aonOn then { d with fan := { d.fan with jtagInsn := insn, jtagData := data } } else d

/-- BYPASS: a single bit, captured as 0. -/
def Dev.jtagBypass (d : Dev) : Dev := d.jtag 0 0

/-- IDCODE (R565): the JEP106 code is the manufacturer's. -/
def Dev.jtagIdcode (d : Dev) : Dev :=
  d.jtag 1 (packFields [(28, 4, R.DEV_REV.reset), (12, 16, 0x1024), (1, 11, Config.jep106), (0, 1, 1)])

/-- SAMPLE/PRELOAD and EXTEST work in READY; elsewhere they act as BYPASS (DEDUCED, log 56). JTAG_LOCK leaves boundary scan
and identification (R104). -/
def Dev.jtagOpen (d : Dev) : Bool := decide (d.fan.st = .ready)

/-- SAMPLE/PRELOAD: the pins are captured (free values, log 2) and the boundary cells take `data`. -/
def Dev.jtagSample (d : Dev) (data : Nat) : Dev :=
  if d.jtagOpen then
    let (v, d) := d.free 64
    let d := d.jtag 2 v
    { d with fan := { d.fan with jtagCells := data } }
  else d.jtagBypass

/-- EXTEST: the boundary cells drive the pins, which are captured; then the cells take `data`. -/
def Dev.jtagExtest (d : Dev) (data : Nat) : Dev :=
  if d.jtagOpen then
    let (v, d) := d.free 64
    let d := d.jtag 3 v
    { d with fan := { d.fan with jtagCells := data } }
  else d.jtagBypass

/-! ## Views (R568) -/

def FanState.code : FanState → Nat
  | .standby => 0 | .powerUp => 1 | .init => 2 | .ready => 3 | .shutdown => 4 | .tripped => 5

def SliceState.code : SliceState → Nat
  | .run => 0 | .entering => 1 | .asleep => 2 | .waking => 3

/-- FAN_STATUS. -/
def Dev.fanStatus (d : Dev) : Nat :=
  let warm := d.fan.warmRunning.isSome || (match d.fan.resetWaiting with | some (.warm, _) => true | _ => false)
  packFields [(0, 3, d.fan.st.code), (8, 1, b2n d.fan.inputOk), (9, 1, b2n d.fan.hbmDone), (10, 1, b2n warm), (11, 1, b2n d.fan.exitHeld)]

/-- FAN_SLICE_STATE. -/
def Dev.fanSlices (d : Dev) : Nat :=
  packFields ((16, 1, b2n d.fan.fabricAsleep) :: (List.range 8).map (fun s => (2 * s, 2, (d.slc s).st.code)))

/-- FAN_DOM_RUN (R534): outside INIT and READY only the AON domain runs. -/
def Dev.fanDomains (d : Dev) : Nat :=
  let on := d.clocksOn
  let bit := fun (k : Nat) (b : Bool) => (k, 1, b2n (on && b))
  packFields ((0, 1, 1) :: (List.range 8).map (fun s => bit (1 + s) (decide ((d.slc s).st ≠ .asleep)))
    ++ (List.range 8).map (fun s => bit (9 + s) (d.slc s).macRun)
    ++ [bit 17 (!d.fan.fabricAsleep), bit 18 (!d.fan.fabricAsleep)]
    ++ (List.range 4).map (fun k => bit (19 + k) (!d.groupStopped (13 + k)))
    ++ [bit 23 true, bit 24 true])

/-- FAN_INPUT: what the input measures, 0 in STANDBY; a free value (log 2). -/
def Dev.fanInput (d : Dev) : Nat × Dev := if d.fan.st = .standby then (0, d) else d.free 32

/-! ## The passing of time (log 57) -/

/-- Clocks of a domain of `num / den` GHz between two readings of the model's time. -/
def clocksBetween (t0 t1 num den : Nat) : Nat := t1 * num / den - t0 * num / den

/-- Slots of an engine with nothing issued (R591): the class and, where blocked, its cause. -/
def Dev.engineSlot (d : Dev) (s e : Nat) : Nat × Nat :=
  let ts := (List.range 8).map (fun k => (d.thr s (e * 8 + k)).st)
  let serve := ts.filter (· ≠ .disabled)
  if serve.all (fun t => decide (t = .idle) || decide (t = .blkRd)) then (0x022, 0)
  else if serve.any (· = .run) then (0x023, 0x028)
  else if serve.any (fun t => decide (t = .blkWr) || decide (t = .blkShare) || decide (t = .waiting)) then (0x023, 0x029)
  else (0x023, 0x02A)

/-- What `n` core clocks of slice `s` add to a counter of an event that clocks count (R588). -/
def Dev.clockEvent (d : Dev) (s ev unit n : Nat) : Nat :=
  let left := fun (k per : Nat) => n * per - SMap.get 0 (d.slc s).slots k
  match ev with
  | 0x001 => n
  | 0x012 => if unit < 4 ∧ d.laneHeld s unit = 0 then left (64 + unit) 4 else 0
  | 0x013 => if unit < 4 ∧ d.laneHeld s unit ≠ 0 then left (64 + unit) 4 else 0
  | 0x014 => if unit < 4 ∧ d.laneHeld s unit = 1 then left (64 + unit) 4 else 0
  | 0x015 => if unit < 4 ∧ d.laneHeld s unit = 2 then left (64 + unit) 4 else 0
  | 0x01A => if unit < 4 ∧ d.macBlocked s unit = false then left (32 + unit) 4 else 0
  | 0x01B => if unit < 4 ∧ d.macBlocked s unit = true then left (32 + unit) 4 else 0
  | 0x022 => if unit < 32 ∧ (d.engineSlot s unit).1 = 0x022 then left unit 1 else 0
  | 0x023 => if unit < 32 ∧ (d.engineSlot s unit).1 = 0x023 then left unit 1 else 0
  | 0x028 | 0x029 | 0x02A => if unit < 32 ∧ (d.engineSlot s unit).2 = ev then left unit 1 else 0
  | 0x034 => if d.cmdQ .tbl s = [] ∧ (d.tslice s).learnQ = [] then 0 else n
  | 0x041 => if d.waiters s unit = [] then 0 else n
  | 0x051 => if unit < 8 ∧ d.fldOf R.HOP_HIGH_MARK (s * 8 + unit) 0 14 ≤ (d.hop (s * 8 + unit)).fill then n else 0
  | _ => 0

/-- What `n` traffic-manager clocks, or `x` crossbar clocks, add to a fabric counter (R588). -/
def Dev.clockEventFab (d : Dev) (ev unit n x : Nat) : Nat :=
  match ev with
  | 0x101 => n
  | 0x130 => if d.freeCells ≤ d.guard then n else 0
  | 0x140 => if unit < 8 ∧ (d.spf unit).panic = true then n else 0
  | 0x160 => if unit < 32 ∧ (d.rsq unit).gapSince.isSome = true then x else 0
  | _ => 0

/-- Performance counters of clocked events at one nanosecond, which begins at `t`. -/
def Dev.clockCounters (d : Dev) (t : Nat) : Dev :=
  if d.stats.frozen then d else
  let core := clocksBetween t (t + 1) 27 20
  let xbar := clocksBetween t (t + 1) 8 5
  d.regs.words.foldl (fun c e =>
    let sel := e.2.toNat
    let i := e.1 % 2 ^ 20
    if fld sel 31 1 = 0 then c
    else if e.1 / 2 ^ 20 = R.PMC_SEL.id then
      if (d.slc (i / 32)).st = .asleep then c else c.inc R.PMC i (d.clockEvent (i / 32) (fld sel 0 12) (fld sel 12 8) core)
    else if e.1 / 2 ^ 20 = R.FAB_PMC_SEL.id then
      if d.fan.fabricAsleep then c else c.inc R.FAB_PMC i (d.clockEventFab (fld sel 0 12) (fld sel 12 8) core xbar)
    else c) d

/-- One nanosecond of a slice: its running time, its sleeping time (R568), its slots, its idle rule (R536). -/
def Dev.sliceTick (d : Dev) (s core : Nat) : Dev :=
  let x := d.slc s
  match x.st with
  | .asleep =>
    let n := x.asleepNs + 1
    (d.setSlc s { x with asleepNs := n % 1000 }).inc R.FAN_ASLEEP_US s (n / 1000)
  | st =>
    let idle := decide (st = .run) && d.idleRule s
    let d := forN 4 (fun p d => d.inc R.ISA_IDLE_SLOTS (s * 4 + p) (4 * core - SMap.get 0 x.slots (64 + p))) d
    d.setSlc s { x with
      runClk := x.runClk + core
      used := x.slots.foldl (fun m e => if e.1 < 32 then SMap.modify 0 m e.1 (· + min core e.2) else m) x.used
      slots := SMap.mapV 0 (fun k n => n - (if k < 32 then core else 4 * core)) x.slots
      idleSince := if idle then (match x.idleSince with | some t => some t | none => some d.now) else none }

/-- An empty queue: one nanosecond passes (DESIGN CHOICE, log 57). -/
def Dev.tick (d : Dev) : Dev :=
  let t := d.now
  let d' := { d with now := t + 1 }
  if !d.clocksOn then d'
  else
    let core := clocksBetween t (t + 1) 27 20
    let d' := { d' with time := d.time.tick d.timeRate }.clockCounters t
    if d.fan.st ≠ .ready then (if d'.hostsEnabled then d'.linksUp else d')
    else
      let d' := forN 8 (fun s d => d.sliceTick s core) d'
      let idle := !d'.fan.fabricAsleep && d'.fabricIdle
      { d' with fan := { d'.fan with
          fabricIdleSince := if idle then (match d'.fan.fabricIdleSince with | some t => some t | none => some d'.now) else none } }

end Sys2Proof.Machine
end

