-- ==== Sys2Proof/Machine/Views.lean ====
section
/-! DEFINITION. What reads of registers return whose value is not held in the register bank: the status, occupancy and
identification registers of every chapter's register tables, each computed from the state that it reports. -/
namespace Sys2Proof.Machine

/-- A row of a table of views: a register and the value of its element `i`. -/
abbrev View := RegInfo × (Nat → Nat)

/-- The view of element `i` of the register of number `id`. -/
def viewIn (id i : Nat) : List View → Option Nat
  | [] => none
  | (r, f) :: vs => if r.id = id then some (f i) else viewIn id i vs

/-! ## Device-global registers -/

/-- FUSE_STEPS. -/
def Dev.fuseStepsReg (d : Dev) : Nat := packFields [(0, 5, fuseUsed d.fuses 4), (8, 8, fuseUsed d.fuses 3), (16, 4, fuseUsed d.fuses 5)]

/-- Word `j` of a change log record (R106). -/
def LogRecord.word (r : LogRecord) (j : Nat) : Nat := match j with | 0 => r.w0 | 1 => r.w1 | 2 => r.w2 | _ => r.w3

/-- A word of the change log: an unwritten record reads zeros (R106). -/
def Dev.logWord (d : Dev) (i : Nat) : Nat := match d.fuses.log[i / 4]? with | some r => r.word (i % 4) | none => 0

/-- Live tags of an epoch that may not exist. -/
def Dev.liveOf (d : Dev) (e : Option Nat) : Nat := match e with | some e => SMap.get 0 d.epochs.live e | none => 0

/-- Loader, version, fuse, AON and time registers. -/
def Dev.viewsHead (d : Dev) : List View := [
  (R.DEV_VARIANT, fun _ => if Config.opticsD2K then 2 else 1),
  (R.IMG_OWNER, fun _ => packFields [(0, 2, d.loader.owner), (8, 1, b2n d.loader.held)]),
  (R.IMG_STATUS, fun _ => d.imgStatus),
  (R.IMG_NEXT_OFFSET, fun _ => d.loader.img.length),
  (R.IMG_INFLIGHT_OLD, fun _ => d.liveOf d.epochs.old),
  (R.IMG_INFLIGHT_RUN, fun _ => d.liveOf d.epochs.run),
  (R.IMG_RUN_INFO, fun _ => imgInfo d.runImage),
  (R.IMG_STG_INFO, fun _ => imgInfo d.stagedImage),
  (R.IMG_SVN, fun _ => d.imgSvns),
  (R.VER_STATUS, fun _ => packFields [(0, 16, d.vers.cur), (16, 1, b2n d.vers.pending)]),
  (R.VER_OLD, fun _ => packFields [(0, 16, d.vers.old), (16, 1, b2n d.vers.oldLive)]),
  (R.VER_INFLIGHT_CUR, fun _ => SMap.get 0 d.vers.live d.vers.cur),
  (R.VER_INFLIGHT_OLD, fun _ => if d.vers.oldLive then SMap.get 0 d.vers.live d.vers.old else 0),
  (R.FUSE_ARB, fun _ => fuseVal d.fuses 3),
  (R.FUSE_LANE_MAP, fun _ => fuseVal d.fuses 4),
  (R.FUSE_BOOT_POLICY, fun _ => fuseVal d.fuses 5),
  (R.FUSE_STEPS, fun _ => d.fuseStepsReg),
  (R.FUSE_KEY_CTRL, fun _ => fuseKeyCtrl d.fuses),
  (R.FUSE_STATUS, fun _ => packFields [(0, 1, b2n d.fuseBusy), (8, 4, d.fuses.result)]),
  (R.FUSE_LOG_COUNT, fun _ => d.fuses.log.length),
  (R.FUSE_KEY_HASH, fun i => leAt (keyHash d.fuses (i / 12)) (4 * (i % 12)) 4),
  (R.FUSE_LOG_WORD, fun i => d.logWord i),
  (R.FAN_STATUS, fun _ => d.fanStatus),
  (R.FAN_DOM_RUN, fun _ => d.fanDomains),
  (R.FAN_SLICE_STATE, fun _ => d.fanSlices),
  (R.TIME_STATUS, fun _ => d.timeStatus),
  (R.AON_JTAG_STATUS, fun _ => b2n (d.policy 0)),
  (R.STAT_STATUS, fun _ => d.statStatus),
  (R.ERR_TRACK_USED, fun _ => d.errs.tracker.length),
  (R.ERR_INJ_STATUS, fun _ => b2n d.errs.armed),
  (R.PERF_STATUS, fun _ => d.perfStatus),
  (R.AML_STATUS, fun _ => packFields [(0, 5, d.amlQ.length), (8, 1, b2n d.aml.isSome)])]

/-! ## Slices -/

/-- STATUS of element `i` of a command set, with BUSY (R206). -/
def Dev.setStatus (d : Dev) (e : Engine7) (i : Nat) : Nat := putFld (d.rd e.regs.status i) 31 1 (b2n (d.cmdBusy e (i / 4) (i % 4)))

/-- Ports, hoppers, parsers, tables and Action Engine arrays of a slice. -/
def Dev.viewsSlice (d : Dev) : List View := [
  (R.ISA_STATUS, fun i => d.isaStatus i),
  (R.HOP_STATUS, fun q => d.hopStatus q),
  (R.PAR_STATUS, fun i => d.parStatus i),
  (R.BLT_STATUS, fun s => b2n (d.tslice s).bltSweep),
  (R.BLT_CASC, fun i => d.bltCasc (i / 48) (i / 12 % 4) (i % 12)),
  (R.TBL_STATUS, fun s => d.tblStatusReg s),
  (R.TBL_OVF_STATUS, fun s => d.ovfUsed s),
  (R.AE_UCODE_ID, fun s => (arrayRec d.runImage s).1),
  (R.AE_UCODE_VER, fun s => (arrayRec d.runImage s).2.1),
  (R.AE_PATCH_STATUS, fun s => d.patchStatus s),
  (R.AE_CELLS_USED, fun s => d.aeCells s),
  (R.AE_OUT_USED, fun s => d.outUsed s),
  (R.AE_ENG_STATUS, fun i => d.engStatus (i / 32) (i % 32)),
  (R.AE_ENG_WD, fun i => d.engWd (i / 32) (i % 32)),
  (R.AE_THR_STATUS, fun i => d.thrStatus (i / 256) (i % 256)),
  (R.AE_THR_PC, fun i => (d.thr (i / 256) (i % 256)).pc),
  (R.AE_THR_FAULT, fun i => d.thrFaultReg (i / 256) (i % 256)),
  (R.AE_THR_USE, fun i => d.thrUse (i / 256) (i % 256)),
  (R.AE_CHAN_STATUS, fun i => d.chanStatus (i / 256) (i % 256)),
  (R.MRS_STATUS, fun s => d.mrsStatus s),
  (R.PMS_STATUS, fun s => (d.sampleQ s).length),
  (R.PP_STATUS, fun p => d.ppStatus p),
  (R.LP_STATUS, fun n => d.lpStatus n),
  (R.OE_STATUS, fun k => d.oeStatus k),
  (R.OE_SRC_SEL, fun k => d.oeSrcSel k),
  (R.OE_LMAP_STATUS, fun k => packFields [(0, 1, b2n (d.eng k).saving.isSome), (1, 1, b2n (d.eng k).saveFailed)])]

/-! ## Fabric, memory and command sets -/

/-- Millrace, shared buffer, HBM, traffic manager, and the STATUS registers of the command sets. -/
def Dev.viewsFabric (d : Dev) : List View := [
  (R.MRC_STATUS, fun _ => d.mrcStatus),
  -- every link is always trained (log 13)
  (R.MRC_LINK, fun i => packFields [(0, 8, d.rd R.MRC_LINK i), (8, 2, 3)]),
  (R.BPM_STATUS, fun _ => b2n (decide (cellCount < d.committed))),
  (R.BPM_FREE_CELLS, fun _ => d.freeCells),
  (R.BPM_POOL_USED, fun p => d.used p),
  (R.HBM_STATUS, fun k => d.hbmStatus k),
  (R.HBM_PAGES_FREE, fun k => d.pagesFree k),
  (R.HBM_PAGES_RETIRED, fun k => d.pagesRetired k),
  (R.HBM_DIAG_STATUS, fun k => d.diagStatus k),
  (R.SPE_STG_STATUS, fun s => d.staged s none),
  (R.FLE_STATUS, fun s => d.fleStatus s),
  (R.TM_STATUS, fun _ => d.tmStatus),
  (R.TMP_STATUS, fun n => d.tmpStatus n),
  (R.TMP_PFC_ING, fun i => SMap.get 0 d.tm.pfcIng i),
  (R.TMQ_DEPTH, fun q => d.depthOf q),
  (R.TMQ_STATUS, fun q => d.tmqStatus q),
  (R.SLU_STATUS, fun n => d.sluStatus n),
  (R.SLU_OPER_CYCLE, fun n => ((d.tmp n).oper.getD {}).cycle),
  (R.SLU_OPER_EXT, fun n => ((d.tmp n).oper.getD {}).ext),
  (R.SLU_OPER_LEN, fun n => ((d.tmp n).oper.getD {}).ents.length),
  (R.SLU_OPER_ENT_GATES, fun i => (((d.tmp (i / 64)).oper.getD {}).ents.getD (i % 64) (0, 0)).1),
  (R.SLU_OPER_ENT_INTERVAL, fun i => (((d.tmp (i / 64)).oper.getD {}).ents.getD (i % 64) (0, 0)).2),
  (R.BLT_CMD_STATUS, fun i => d.setStatus .blt i),
  (R.TBL_CMD_STATUS, fun i => d.setStatus .tbl i),
  (R.STG_CMD_STATUS, fun i => d.setStatus .stg i),
  (R.RPL_CMD_STATUS, fun i => d.setStatus .rpl i),
  (R.AE_PCH_STATUS, fun i => putFld (d.setStatus .pch i) 8 7 (d.patchStaged (i / 4) (i % 4)).length),
  (R.BPM_CMD_STATUS, fun i => d.setStatus .bpm i),
  (R.GOV_CMD_STATUS, fun i => d.setStatus .gov i)]

/-! ## Host-port-local registers (R532) -/

/-- HPL_INFO. -/
def Dev.hplInfo (d : Dev) (h : Nat) : Nat :=
  let p := d.host h
  packFields [(0, 2, h), (4, 4, if p.up then p.lnkWidth else 0), (8, 4, if p.up then p.lnkSpeed else 0), (16, 1, b2n p.bme)]

/-- BAR0 offset to device address for the rights of host port `h` (R497); none where nothing lies. -/
def deviceAddr (h a : Nat) : Option Nat :=
  if 0x200000 ≤ a ∧ a < 0x300000 then some (a + 0x10000000 * (h + 1))
  else if a < 0x10000000 then some a
  else none

/-- HPL_CMP_COUNT (R506): 0 for an offset that is not a W1C register. -/
def Dev.cmpCount (d : Dev) (h : Nat) : Nat :=
  match (deviceAddr h (d.rd R.HPL_CMP_ADDR h)).bind resolve with
  | some (r, i, _) =>
    if r.kind = .w1c then (SMap.get 0 d.regs.companions (r.key i * 32 + d.fldOf R.HPL_CMP_BIT h 0 5)).toNat else 0
  | none => 0

def Dev.viewsLocal (d : Dev) : List View := [
  (R.RING_STATUS, fun i => d.ringStatus i),
  (R.HPL_INFO, fun h => d.hplInfo h),
  (R.HPL_CMP_COUNT, fun h => d.cmpCount h),
  (R.HPL_LEASE_STATE, fun i => d.leaseState (i % 64)),
  (R.HPL_AML_KEY_CTRL, fun h => packFields [(8, 1, b2n (d.host h).key.isSome)]),
  (R.HPL_AML_OOB_STATUS, fun h => putFld (d.rd R.HPL_AML_OOB_STATUS h) 31 1 (b2n (d.host h).oobBusy))]

/-- The value that a read of a 32-bit register returns, apart from what the read itself does: a view, 0 of a WO register
(R9), else what the bank holds. -/
def Dev.wordView (d : Dev) (r : RegInfo) (i : Nat) : Nat :=
  match viewIn r.id i (d.viewsHead ++ d.viewsSlice ++ d.viewsFabric ++ d.viewsLocal) with
  | some v => v % 2 ^ 32
  | none => if r.kind = .wo then 0 else d.rd r i

/-! ## 64-bit registers -/

/-- 64-bit registers that are computed. -/
def Dev.viewsWide (d : Dev) : List View := [
  (R.IMG_RUN_ID, fun _ => imgIdent d.runImage),
  (R.IMG_RUN_DIGEST, fun _ => imgDigest d.runImage),
  (R.IMG_STG_ID, fun _ => imgIdent d.stagedImage),
  (R.IMG_STG_DIGEST, fun _ => imgDigest d.stagedImage),
  (R.TIME_NS64, fun _ => d.ns64),
  (R.STAT_NEXT_TIME, fun _ => d.stats.next.getD 0),
  (R.SLU_OPER_BASE, fun n => ((d.tmp n).oper.getD {}).base),
  (R.AE_ENG_EMPTY, fun i => d.engEmpty (i / 32) (i % 32))]

/-- The value of a 64-bit register or counter as host port `view` sees it: a shadow where it asks for one (R586). -/
def Dev.wideView (d : Dev) (view : Option Nat) (r : RegInfo) (i : Nat) : Nat :=
  let shadow := match view with | some h => d.bitOf R.STAT_VIEW h 0 && d.takesPart (r.key i) | none => false
  if shadow then (SMap.get 0 d.regs.shadows (r.key i)).toNat
  else match viewIn r.id i d.viewsWide with
    | some v => v % 2 ^ 64
    | none => d.rd64 r i

/-- Registers that are read as counters (R12 to R14): the counters themselves, the performance counters (R589), and the
identifiers and times that the spec reads low word first. -/
def RegInfo.latched (r : RegInfo) : Bool :=
  decide (r.kind = .counter) || [R.PMC, R.FAB_PMC, R.IMG_RUN_ID, R.IMG_RUN_DIGEST, R.IMG_STG_ID, R.IMG_STG_DIGEST, R.TIME_NS64,
    R.SLU_ADMIN_BASE, R.SLU_OPER_BASE, R.SLU_CHANGE_TIME].any (fun x => decide (x.id = r.id))

/-- A counter is brought up to date before it is read: lit seconds (R134), paused nanoseconds (R487). -/
def Dev.counterNow (d : Dev) (r : RegInfo) (i : Nat) : Dev :=
  if r.id = R.OE_PRI_SECS.id ∨ r.id = R.OE_SPR_SECS.id then d.accrueLit (i / 8)
  else if r.id = R.TMP_PAUSED_NS.id then d.accruePause (i / 8) (i % 8)
  else d

end Sys2Proof.Machine
end

