-- ==== Sys2Proof/Machine/Bus.lean ====
section
/-! DEFINITION. Register accesses: who may reach what, how each access type behaves, what a write starts and what a read does
(R6 to R15, R39 to R42, R63 to R65, R99, R202, R206, R344, R497, R505 to R507, R528, R555, R563, R564, R586). -/
namespace Sys2Proof.Machine

/-! ## Accessors -/

/-- The host port whose rights an access carries; the I3C target carries none (R505). -/
def Accessor.rights : Accessor → Option Nat
  | .host h => some h
  | .bridge h => some h
  | .amiler h => some h
  | .oob h => some h
  | .i3c => none

/-- The access comes from a host port itself (R65, R99, R344, R528). -/
def Accessor.isHost : Accessor → Bool
  | .host _ => true
  | _ => false

/-- Index of the latches of an accessor: its host port's, or those of the I3C target (DESIGN CHOICE, log 58). -/
def Accessor.latch (w : Accessor) : Nat := w.rights.getD 4

/-- How an access ends: completed, under R7, or as a write discarded for want of rights (R528). -/
inductive BusSays where
  | ok | unassigned | denied
  deriving DecidableEq, Repr

/-- An access under R7 is counted against the host port whose rights it carries. -/
def Dev.countBad (d : Dev) (w : Accessor) : Dev := match w.rights with | some h => d.badAccess h | none => d

/-- A write that R7 discards. -/
def Dev.badWrite (d : Dev) (w : Accessor) : BusSays × Dev := (.unassigned, d.countBad w)

/-- A write that R63, R65, R99 or R202 discards and counts. -/
def Dev.deniedWrite (d : Dev) (w : Accessor) : BusSays × Dev := (.denied, d.countBad w)

/-- A write of the loader registers: the owner's own host port only (R63 to R65). -/
def Dev.ownerWrite (d : Dev) (w : Accessor) (f : Dev → Dev) : BusSays × Dev :=
  match w with
  | .host h => if d.owns h then (.ok, f d) else d.deniedWrite w
  | _ => d.deniedWrite w

/-- A write that only host ports may make (R65, R99). -/
def Dev.hostOnly (d : Dev) (w : Accessor) (f : Nat → Dev → Dev) : BusSays × Dev :=
  match w with
  | .host h => (.ok, f h d)
  | _ => d.deniedWrite w

/-! ## Command sets (R202, R206) -/

/-- The engine, slice and host port of the command set that holds a device address. -/
def setOf (a : Nat) : Option (Engine7 × Nat × Nat) :=
  let at_ := fun (e : Engine7) => some (e, a / 0x1000 % 16, a / 0x400 % 4)
  if a < 0x8000000 ∨ 0x8070000 ≤ a then none
  else match (a - 0x8000000) / 0x10000 with
    | 0 => at_ .blt
    | 1 => at_ .tbl
    | 2 => if a / 0x1000 % 16 = 0 then at_ .rpl else none
    | 3 => at_ .stg
    | 4 => at_ .pch
    | 5 => at_ .bpm
    | _ => at_ .gov

/-- Register that counts the writes ignored while BUSY. -/
def Engine7.ignored : Engine7 → RegInfo
  | .blt => R.BLT_CMD_IGNORED | .tbl => R.TBL_CMD_IGNORED | .stg => R.STG_CMD_IGNORED | .rpl => R.RPL_CMD_IGNORED
  | .pch => R.AE_PCH_IGNORED | .bpm => R.BPM_CMD_IGNORED | .gov => R.GOV_CMD_IGNORED

/-- The command registers of an engine. -/
def isCmd (id : Nat) : Bool :=
  [R.BLT_CMD, R.TBL_CMD, R.STG_CMD, R.RPL_CMD, R.AE_PCH_CMD, R.BPM_CMD, R.BPM_FREE_CMD, R.GOV_CMD].any (fun r => decide (r.id = id))

/-- The word that is queued for a command: BPM_FREE_CMD is operation 2 of the pool manager, with its cell above the
operation; operation 2 of BPM_CMD itself is not defined, and is queued as the undefined operation 7. -/
def cmdWord (id v : Nat) : Nat :=
  if id = R.BPM_FREE_CMD.id then 2 + v % 2 ^ 20 * 16
  else if id = R.BPM_CMD.id ∧ v % 16 = 2 then 7
  else v

/-- A slice is woken by a queued command of its command sets, the fabric by one of its own (R537, R543). -/
def Dev.wakeFor (d : Dev) (e : Engine7) (s : Nat) : Dev :=
  match e with
  | .blt | .tbl | .stg | .pch => d.wake s
  | _ => d.wakeFabric

/-- A write in a command set (R202, R206). -/
def Dev.setWrite (d : Dev) (w : Accessor) (e : Engine7) (s h : Nat) (r : RegInfo) (i v : Nat) : BusSays × Dev :=
  if w.rights ≠ some h then d.deniedWrite w
  else if isCmd r.id then
    if d.cmdBusy e s h then (.ok, d.inc e.ignored (s * 4 + h) 1)
    else (.ok, (d.cmdPush e s h (cmdWord r.id v)).wakeFor e s)
  else if r.kind = .rw then
    if d.cmdBusy e s h then (.ok, d.inc e.ignored (s * 4 + h) 1) else (.ok, d.wr r i (v &&& r.mask))
  else (.ok, d)

/-! ## Writes that start something -/

/-- A row of a table of writes: a register and what a write of `v` to its element `i` does. -/
abbrev Effect := RegInfo × (Nat → Nat → Dev → Dev)

/-- The effect of a write to the register of number `id`. -/
def effectIn (id : Nat) : List Effect → Option (Nat → Nat → Dev → Dev)
  | [] => none
  | (r, f) :: fs => if r.id = id then some f else effectIn id fs

/-- HBM_CMD: whether a THAW's repeated checks pass (R437) is open here; the row THAW carries it. -/
def Dev.hbmCmdWrite (d : Dev) (k v : Nat) : Dev :=
  let (p, d) := if v % 16 = 2 then d.free 1 else (0, d)
  d.hbmCmd k v (decide (p = 1))

/-- HBM_RETIRE_CMD (R432). -/
def Dev.retireWrite (d : Dev) (k v : Nat) : Dev := if fld v 31 1 = 1 then d.pageRetire k (v % 2 ^ 20) else d

/-- SLU_CMD (R480): both bits set is ignored. -/
def Dev.sluCmd (d : Dev) (n v : Nat) : Dev := match v % 4 with | 1 => d.gateConfig n | 2 => d.gateCancel n | _ => d

/-- ERR_INJ_CMD: ARM, then CANCEL (log 59). -/
def Dev.injCmd (d : Dev) (v : Nat) : Dev :=
  let d := if fld v 0 1 = 1 then d.injArm else d
  if fld v 1 1 = 1 then d.injCancel else d

/-- HOP_CMD (R151). -/
def Dev.hopCmd (d : Dev) (q v : Nat) : Dev := if fld v 8 1 = 1 then d.hopperDropRem q (v % 8) else d

/-- OE_LMAP_CMD (R115). -/
def Dev.lmapCmd (d : Dev) (k v : Nat) : Dev := if v % 2 = 1 then d.lmapSave k else d

/-- AE_DBG_BP_b (R337): an enable is ignored while AE_DEBUG_DIS is 1. -/
def Dev.bpWrite (d : Dev) (i v : Nat) : Dev :=
  let v := v &&& R.AE_DBG_BP.mask
  if fld v 31 1 = 1 ∧ d.policy 1 = true then (d.wr R.AE_DBG_BP i (v % 2 ^ 31)).debugOff (i / 4) else d.wr R.AE_DBG_BP i v

/-- MRC_CTRL or MRC_LINK: planes and links may open, and waiting cells then leave (R354). -/
def Dev.linkWrite (d : Dev) (r : RegInfo) (i v : Nat) : Dev := (d.wr r i (v &&& r.mask)).pumpAll

/-- HPL_AML_KEY_j (R530). -/
def Dev.keyWrite (d : Dev) (i v : Nat) : Dev :=
  let h := i / 8
  let p := d.host h
  d.setHost h { p with keyStage := spliceAt ((p.keyStage ++ List.replicate 32 0).take 32) (4 * (i % 8)) (leBytes 4 v) }

/-- HPL_AML_KEY_CTRL.LOAD (R530): the staged key becomes the key; bytes never staged are 0. -/
def Dev.keyLoad (d : Dev) (h : Nat) : Dev :=
  let p := d.host h
  d.setHost h { p with key := some ((p.keyStage ++ List.replicate 32 0).take 32) }

/-- HPL_AML_KEY_CTRL.CLEAR (R530). -/
def Dev.keyClear (d : Dev) (h : Nat) : Dev := d.setHost h { d.host h with key := none, keyStage := [] }

/-- HPL_AML_KEY_CTRL: LOAD, then CLEAR (log 59). -/
def Dev.keyCtrl (d : Dev) (h v : Nat) : Dev :=
  let d := if fld v 0 1 = 1 then d.keyLoad h else d
  if fld v 1 1 = 1 then d.keyClear h else d

/-- HPL_AML_OOB_CMD.GO (R531): ignored while BUSY is 1. -/
def Dev.oobGo (d : Dev) (h : Nat) : Dev := if (d.host h).oobBusy then d else d.setHost h { d.host h with oobBusy := true }

def Dev.oobCmd (d : Dev) (h v : Nat) : Dev := if v % 2 = 1 then d.oobGo h else d

/-- A write to PFC_TX_EN, XOFF or XON of a logical port: the conditions of R488 are tested anew. -/
def Dev.pfcCtrlWrite (d : Dev) (r : RegInfo) (n v : Nat) : Dev := (d.wr r n (v &&& r.mask)).pfcStates n

/-- Writes that do more than their access type says. -/
def effects : List Effect := [
  (R.STAT_CTRL, fun _ v d => d.statCtrl v),
  (R.STAT_PERIOD_MS, fun _ v d => d.statPeriodWrite (fun d => d.wr R.STAT_PERIOD_MS 0 (v % 65536))),
  (R.PERF_CMD, fun _ v d => d.perfCmd v),
  (R.ERR_INJ_CMD, fun _ v d => d.injCmd v),
  (R.ERR_SPARE_CMD, fun _ v d => if v % 2 = 1 then d.spareGo else d),
  (R.FAN_HOLD, fun _ v d => d.fanHold v),
  (R.TIME_CTRL, fun _ v d => d.timeCtrl v),
  (R.TIME_CMD, fun _ v d => d.timeCmd v),
  (R.HOP_CMD, fun q v d => d.hopCmd q v),
  (R.AE_THR_CMD, fun i v d => d.thrCmd (i / 256) (i % 256) v),
  (R.AE_DBG_DATA_HI, fun s v d => d.dbgWrite s v),
  (R.AE_DBG_BP, fun i v d => d.bpWrite i v),
  (R.MRC_CTRL, fun i v d => d.linkWrite R.MRC_CTRL i v),
  (R.MRC_LINK, fun i v d => d.linkWrite R.MRC_LINK i v),
  (R.HBM_CMD, fun k v d => d.hbmCmdWrite k v),
  (R.HBM_RETIRE_CMD, fun k v d => d.retireWrite k v),
  (R.HBM_DIAG_CMD, fun k v d => d.diagWrite k v),
  (R.SLU_CMD, fun n v d => d.sluCmd n v),
  (R.TMP_CTRL, fun n v d => d.pfcCtrlWrite R.TMP_CTRL n v),
  (R.TMP_PFC_XOFF, fun n v d => d.pfcCtrlWrite R.TMP_PFC_XOFF n v),
  (R.TMP_PFC_XON, fun n v d => d.pfcCtrlWrite R.TMP_PFC_XON n v),
  (R.LP_FEC_DEG, fun n v d => d.fecDegWrite n v),
  (R.TBL_LEARN_CTRL, fun s v d => (d.wr R.TBL_LEARN_CTRL s (v &&& R.TBL_LEARN_CTRL.mask)).drainBad .tbl s 8),
  (R.OE_LMAP_CMD, fun k v d => d.lmapCmd k v),
  (R.OE_FAILOVER_CMD, fun k v d => d.failoverCmd k v),
  (R.PP_LMAP_TX, fun p v d => d.lmapWrite R.PP_LMAP_TX p v),
  (R.PP_LMAP_RX, fun p v d => d.lmapWrite R.PP_LMAP_RX p v),
  (R.RING_CTRL, fun i v d => d.ringCtrl i v),
  (R.RING_BASE_LO, fun i v d => d.ringBaseWrite R.RING_BASE_LO i v),
  (R.RING_BASE_HI, fun i v d => d.ringBaseWrite R.RING_BASE_HI i v),
  (R.RING_CONS, fun i v d => d.ringCons i v),
  (R.HPL_LEASE_CMD, fun h v d => d.leaseCmd h v),
  (R.HPL_AML_KEY, fun i v d => d.keyWrite i v),
  (R.HPL_AML_KEY_CTRL, fun h v d => d.keyCtrl h v),
  (R.HPL_AML_OOB_CMD, fun h v d => d.oobCmd h v),
  (R.MSIX_TABLE, fun i v d => d.msixWrite (i / 128) (i % 128) v)]

/-! ## Access types (R9) -/

/-- A write of `v` to one W1C register while hardware sets the bits `hw` in the same clock (R505, R506): a set wins over a
clear; a collision is counted once for the write (DEDUCED, log 60) and posted as R512 states. -/
def Dev.w1cWrite (d : Dev) (w : Accessor) (r : RegInfo) (i v hw : Nat) : Dev :=
  let hw := hw &&& r.mask
  let v := v &&& r.mask
  let old := d.rd r i
  let won := v &&& hw
  let risen := hw &&& (old ^^^ 0xFFFFFFFF)
  let new := (old &&& (v ^^^ 0xFFFFFFFF)) ||| hw
  let d := (d.wr r i new).bumpAll r i hw
  let d :=
    if won = 0 then d
    else match w.rights with
      | some h => d.inc R.HPL_W1C_COLLISIONS h 1
      | none => d.inc R.AON_I3C_COLLISIONS 0 1
  if risen ||| won = 0 then d else d.postFlag r i (risen ||| won) new (decide (won ≠ 0))

/-- One word of a 64-bit register takes a value. -/
def Dev.wideWord (d : Dev) (r : RegInfo) (i o v : Nat) : Dev := d.wr64 r i (putFld (d.rd64 r i) (8 * o) 32 v)

/-- RST_CMD and FAN_CMD (R558): a write without the key is discarded and counted; by I3C it is not counted, as no host
port made it (log 58). In STANDBY and TRIPPED an RST_CMD write by I3C is ignored (R564). -/
def Dev.keyed (d : Dev) (w : Accessor) (v : Nat) (f : Dev → Dev) : BusSays × Dev := if keyOk v then (.ok, f d) else d.badWrite w

/-- Writes whose effect depends on who makes them. The injector takes those of host ports only (R574); DESIGN CHOICE (log 174):
others are discarded and not counted. -/
def Dev.rightsWrite (d : Dev) (w : Accessor) (r : RegInfo) (i o v : Nat) : Option (BusSays × Dev) :=
  if r.id = R.IMG_OWNER.id then some (d.hostOnly w (fun h d => d.imgOwner h v))
  else if r.id = R.IMG_CMD.id then some (d.ownerWrite w (fun d => d.imgCmd v))
  else if r.id = R.IMG_WIN.id then some (d.ownerWrite w (fun d => d.wr R.IMG_WIN 0 (v % 4)))
  else if r.id = R.IMG_ACT_TIME.id then some (d.ownerWrite w (fun d => d.wideWord R.IMG_ACT_TIME 0 o v))
  else if (r.id = R.IMG_DRAIN_LIMIT.id ∨ r.id = R.IMG_EVENTS.id) ∧ w.isHost = false then some (d.deniedWrite w)
  else if (r.id = R.ERR_INJ_SEL.id ∨ r.id = R.ERR_INJ_SYM.id ∨ r.id = R.ERR_INJ_CMD.id) ∧ w.isHost = false then some (.ok, d)
  else if r.id = R.VER_CMD.id then some (.ok, d.verCmd w.latch v)
  else if r.id = R.FUSE_ARB.id then some (d.hostOnly w (fun h d => d.fuseWrite 3 h v))
  else if r.id = R.FUSE_LANE_MAP.id then some (d.hostOnly w (fun h d => d.fuseWrite 4 h v))
  else if r.id = R.FUSE_BOOT_POLICY.id then some (d.hostOnly w (fun h d => d.fuseWrite 5 h v))
  else if r.id = R.FUSE_KEY_CMD.id then some (d.hostOnly w (fun h d => d.fuseKeyCmd h v))
  else if r.id = R.FUSE_KEY_STAGE.id then some (d.hostOnly w (fun _ d => d.wr R.FUSE_KEY_STAGE i v))
  else if r.id = R.RST_CMD.id then some (d.keyed w v (fun d => d.rstCmd w.source v))
  else if r.id = R.FAN_CMD.id then some (d.keyed w v (fun d => d.fanCmd w.source v))
  else if r.id = R.STAT_VIEW.id then some (if w.rights = some i then (.ok, d.wr R.STAT_VIEW i (v % 2)) else d.badWrite w)
  else if r.id = R.STAT_ALIGN.id then some (.ok, d.statPeriodWrite (fun d => d.wideWord R.STAT_ALIGN 0 o v))
  else none

/-- A 4-byte write to element `i`, byte `o`, of a register. -/
def Dev.regWrite (d : Dev) (w : Accessor) (r : RegInfo) (i o v hw : Nat) : BusSays × Dev :=
  match d.rightsWrite w r i o v with
  | some x => x
  | none =>
    match effectIn r.id effects with
    | some f => (.ok, f i v d)
    | none =>
      match r.kind with
      | .rw => (.ok, d.wr r i ((d.rd r i &&& (r.mask ^^^ 0xFFFFFFFF)) ||| (v &&& r.mask)))
      | .w1c => (.ok, d.w1cWrite w r i v hw)
      | .rw64 => (.ok, d.wideWord r i o v)
      | _ => (.ok, d)

/-! ## Domains (R40, R42) -/

/-- The domain, if any, that holds a device address and that an access has to wake: a slice core that is not RUN (R537), the
sleeping fabric, a controller in SLEEP. -/
inductive Stopped where
  | slice (s : Nat)
  | fabric
  | hbm (k : Nat)
  deriving DecidableEq, Repr

def Dev.stoppedAt (d : Dev) (a : Nat) : Option Stopped :=
  if 0x1000000 ≤ a ∧ a < 0x1800000 then
    let s := (a - 0x1000000) / 0x100000
    if (d.slc s).st = .run then none else some (.slice s)
  else if 0x2000000 ≤ a ∧ a < 0x2400000 then (if d.fan.fabricAsleep then some .fabric else none)
  else if 0x3000000 ≤ a ∧ a < 0x3400000 then
    let k := (a - 0x3000000) / 0x100000
    if (d.stk k).st = .sleep then some (.hbm k) else none
  else none

/-- The fantail is asked to start a domain. -/
def Dev.askStart (d : Dev) : Stopped → Dev
  | .slice s => d.wake s
  | .fabric => d.wakeFabric
  | .hbm k => d.setStk k { d.stk k with wakeReq := true }

/-- A domain is started for an access whose maker waits for it: the request, the wake and its completion in one step (log 61). -/
def Dev.startNow (d : Dev) : Stopped → Dev
  | .slice s => ((d.wake s).fabricWake.startWake s).sliceWakeDone s
  | .fabric => d.wakeFabric.fabricWake
  | .hbm k => (d.askStart (.hbm k)).hbmWakeRow k

/-- What an access does to the idle timers of the domain that it reaches: a slice's idle rule breaks (R536, R537); a MAC
domain runs, and stops again 10 µs later if no port holds it (R42). -/
def Dev.touch (d : Dev) (a : Nat) : Dev :=
  if 0x1000000 ≤ a ∧ a < 0x1800000 then d.wake ((a - 0x1000000) / 0x100000)
  else if 0x4000000 ≤ a ∧ a < 0x5000000 then
    let s := (a - 0x4000000) / 0x200000
    let ran := (d.slc s).macRun
    let d := d.modSlc s (fun x => { x with macRun := true, macIdleSince := d.now })
    if ran then d else d.catchAll
  else d

/-- The controller that holds a device address is OFFLINE: writes other than to HBM_EVENTS are discarded (R42). -/
def Dev.offlineAt (d : Dev) (a : Nat) : Bool :=
  decide (0x3000000 ≤ a ∧ a < 0x3400000) && decide ((d.stk ((a - 0x3000000) / 0x100000)).st = .offline)

/-! ## Reach -/

/-- A device address that an accessor's BAR0 offset names. -/
def Accessor.reach (w : Accessor) (a : Nat) : Option Nat :=
  match w.rights with
  | some h => deviceAddr h a
  | none => if 0x200000 ≤ a ∧ a < 0x300000 ∨ 0x10000000 ≤ a then none else some a

/-- The offsets that the I3C target reaches (R564). -/
def Dev.i3cReach (d : Dev) (a : Nat) : Bool :=
  decide (a < 0xC) || decide (0x9000 ≤ a ∧ a < 0xA000) || decide (0x100000 ≤ a ∧ a < 0x140000) || decide (0x1C0000 ≤ a ∧ a < 0x1D0000)
    || (decide (0x180000 ≤ a ∧ a < 0x190000) && decide (d.fan.st = .ready))

/-- Offsets exempt from the window of a warm reset (R555). -/
def warmExempt (a : Nat) : Bool := decide (a < 0xA000) || decide (0x100000 ≤ a ∧ a < 0x1D0000)

/-- Registers in the exempt ranges whose writes a running warm reset discards (R555). -/
def warmBlocked (id : Nat) : Bool :=
  [R.IMG_OWNER, R.IMG_CMD, R.IMG_WIN, R.IMG_ACT_TIME, R.VER_CMD, R.FUSE_ARB, R.FUSE_LANE_MAP, R.FUSE_BOOT_POLICY,
    R.FUSE_KEY_CMD].any (fun r => decide (r.id = id))

/-- The staging aperture. -/
def inAperture (a : Nat) : Bool := decide (0xC000000 ≤ a ∧ a < 0x10000000)

/-! ## A write -/

/-- An 8-byte write: a performance counter takes it (R589), any other counter ignores it (R6, R9), the MSI-X table takes two
words. -/
def Dev.regWrite8 (d : Dev) (w : Accessor) (r : RegInfo) (i o v : Nat) : BusSays × Dev :=
  if (r.id = R.PMC.id ∨ r.id = R.FAB_PMC.id) ∧ o = 0 then (.ok, d.wr64 r i v)
  else if r.kind = .counter ∧ o = 0 then (.ok, d)
  else if r.id = R.MSIX_TABLE.id ∧ i % 2 = 0 then
    (.ok, (d.msixWrite (i / 128) (i % 128) v).msixWrite (i / 128) (i % 128 + 1) (v / 2 ^ 32))
  else d.badWrite w

/-- A write that has reached its running domain. -/
def Dev.deviceWrite (d : Dev) (w : Accessor) (a size v hw : Nat) : BusSays × Dev :=
  match resolve a with
  | none => if d.offlineAt a then (.ok, d) else d.badWrite w
  | some (r, i, o) =>
    if d.fan.warmRunning.isSome && warmBlocked r.id then (.ok, d)
    else if d.offlineAt a && decide (r.id ≠ R.HBM_EVENTS.id) then (.ok, d)
    else if size = 8 then
      match setOf a with
      | some (_, _, h) => if w.rights ≠ some h then d.deniedWrite w else d.regWrite8 w r i o v
      | none => d.regWrite8 w r i o v
    else
      let v := v % 2 ^ 32
      match setOf a with
      | some (e, s, h) => d.setWrite w e s h r i v
      | none => d.regWrite w r i o v hw

/-- An access must be naturally aligned and of 4 bytes, or of 8 where a register takes that (R6). -/
def aligned (a size : Nat) : Bool := (decide (size = 4) || decide (size = 8)) && decide (a % size = 0)

/-- A write of `size` bytes at BAR0 offset `a` whose domain runs; `hw` are the W1C bits that hardware sets in its clock. -/
def Dev.busWrite (d : Dev) (w : Accessor) (a size v hw : Nat) : BusSays × Dev :=
  if decide (w = .i3c) && !d.i3cReach a then (.ok, d.inc R.AON_I3C_BAD 0 1)
  else if d.fan.warmRunning.isSome && !warmExempt a then (.ok, d)
  else if inAperture a then
    match w with
    | .host h => if d.owns h then (.ok, d.apertureWrite h a (leBytes size v)) else d.deniedWrite w
    | _ => d.deniedWrite w
  else if !aligned a size then (if (w.reach a).any d.offlineAt then (.ok, d) else d.badWrite w)
  else match w.reach a with
    | none => d.badWrite w
    | some a => (d.touch a).deviceWrite w a size v hw

/-! ## A read -/

/-- The latch of an accessor for a counter (R12). -/
def Dev.setLatch (d : Dev) (k key v : Nat) : Dev :=
  { d with regs := { d.regs with latches := SMap.set 0 d.regs.latches (k * 2 ^ 40 + key) (BitVec.ofNat 32 v) } }
def Dev.latch (d : Dev) (k key : Nat) : Nat := (SMap.get 0 d.regs.latches (k * 2 ^ 40 + key)).toNat

/-- A 4-byte read of a 64-bit register: a low word fills the latch, and a high word is the latch's, where it is read as a
counter (R12, R13). -/
def Dev.readWide4 (d : Dev) (w : Accessor) (r : RegInfo) (i o : Nat) : Nat × Dev :=
  let d := d.counterNow r i
  let v := d.wideView w.rights r i
  if !r.latched then (fld v (8 * o) 32, d)
  else if o = 0 then (v % 2 ^ 32, d.setLatch w.latch (r.key i) (v / 2 ^ 32))
  else (d.latch w.latch (r.key i), d)

/-- The value at which a peak or minimum restarts when it is read (R507): what it measures now. -/
def Dev.restartAt (d : Dev) (r : RegInfo) (i : Nat) : Nat :=
  if r.id = R.HOP_PEAK_FILL.id then (d.hop i).fill
  else if r.id = R.BPM_MIN_FREE.id then d.freeCells
  else if r.id = R.BPM_POOL_PEAK.id then d.used i
  else if r.id = R.TMQ_PEAK.id then d.depthOf i
  else 0

/-- A read of an RC register (R507): the head of a FIFO is removed, a peak restarts. `upd` is what hardware updates the
field to in the same clock: the read returns the value before it, and the clear does not remove it. -/
def Dev.readClear (d : Dev) (r : RegInfo) (i : Nat) (upd : Option Nat) : Nat × Dev :=
  if r.id = R.LP_TSFIFO_W0.id then d.tsFifoRead i
  else if r.id = R.ERR_LOG_W0.id then d.errLogRead
  else if r.id = R.PMS_W0.id then d.pmsRead i
  else (d.rd r i, d.wr r i ((upd.getD (d.restartAt r i)) &&& r.mask))

/-- TIME_NOW_NS (R569): the whole time goes into the reader's latch. -/
def Dev.readNow (d : Dev) (k : Nat) : Nat × Dev :=
  (d.time.ns, d.setHost k { d.host k with nowSecs := d.time.secs, nowFrac := d.time.frac16 })

/-- TIME_PPS_IN_NS (R569): the seconds words are latched for the reader. -/
def Dev.readPps (d : Dev) (k : Nat) : Nat × Dev :=
  (d.rd R.TIME_PPS_IN_NS 0,
    d.setHost k { d.host k with ppsSecs := d.rd R.TIME_PPS_IN_SL 0 + d.fldOf R.TIME_PPS_IN_SH 0 0 16 * 2 ^ 32 })

/-- A 4-byte read of element `i`, byte `o`, of a register. -/
def Dev.regRead (d : Dev) (w : Accessor) (r : RegInfo) (i o : Nat) (upd : Option Nat) : Nat × Dev :=
  let k := w.latch
  if r.id = R.TIME_NOW_NS.id then d.readNow k
  else if r.id = R.TIME_NOW_SL.id then ((d.host k).nowSecs % 2 ^ 32, d)
  else if r.id = R.TIME_NOW_SH.id then (packFields [(0, 16, (d.host k).nowSecs / 2 ^ 32), (16, 16, (d.host k).nowFrac)], d)
  else if r.id = R.TIME_PPS_IN_NS.id then d.readPps k
  else if r.id = R.TIME_PPS_IN_SL.id then ((d.host k).ppsSecs % 2 ^ 32, d)
  else if r.id = R.TIME_PPS_IN_SH.id then ((d.host k).ppsSecs / 2 ^ 32 % 65536, d)
  else if r.id = R.AE_DBG_DATA_LO.id then d.dbgRead i
  else if r.id = R.FAN_INPUT.id then d.fanInput
  else match r.kind with
    | .rc => d.readClear r i upd
    | .counter | .ro64 | .rw64 => d.readWide4 w r i o
    | _ => (d.wordView r i, d)

/-- An 8-byte read: a counter, sampled at one instant, its latch unchanged (R14), or two words of the MSI-X table. -/
def Dev.regRead8 (d : Dev) (w : Accessor) (r : RegInfo) (i o : Nat) : BusSays × Nat × Dev :=
  if r.latched && decide (o = 0) then
    let d := d.counterNow r i
    (.ok, d.wideView w.rights r i, d)
  else if r.id = R.MSIX_TABLE.id ∧ i % 2 = 0 then (.ok, d.rd r i + d.rd r (i + 1) * 2 ^ 32, d)
  else (.unassigned, 0, d.countBad w)

/-- A read that has reached its running domain. -/
def Dev.deviceRead (d : Dev) (w : Accessor) (a size : Nat) (upd : Option Nat) : BusSays × Nat × Dev :=
  match resolve a with
  | none => (.unassigned, 0, d.countBad w)
  | some (r, i, o) =>
    if size = 8 then d.regRead8 w r i o
    else
      let (v, d) := d.regRead w r i o upd
      (.ok, v, d)

/-- A read of `size` bytes at BAR0 offset `a` whose domain runs. The staging aperture reads zeros (R66). -/
def Dev.busRead (d : Dev) (w : Accessor) (a size : Nat) (upd : Option Nat) : BusSays × Nat × Dev :=
  if decide (w = .i3c) && !d.i3cReach a then (.ok, 0, d.inc R.AON_I3C_BAD 0 1)
  else if d.fan.warmRunning.isSome && !warmExempt a then (.ok, 0, d)
  else if inAperture a then (.ok, 0, d)
  else if !aligned a size then (.unassigned, 0, d.countBad w)
  else match w.reach a with
    | none => (.unassigned, 0, d.countBad w)
    | some a => (d.touch a).deviceRead w a size upd

/-! ## Accesses of host ports -/

/-- The stopped domain that an access would have to wait for. -/
def Dev.waitsFor (d : Dev) (w : Accessor) (a : Nat) : Option Stopped := (w.reach a).bind d.stoppedAt

/-- An access goes to its register: a read's data go to the host port. -/
def Dev.accessNow (d : Dev) (x : Access) : Dev :=
  if x.write then (d.busWrite x.who x.addr x.size x.value x.hwSet).2
  else
    let (_, v, d) := d.busRead x.who x.addr x.size x.upd
    match x.who with
    | .host h => d.setHost h { d.host h with readData := BitVec.ofNat 64 v }
    | _ => d

/-- A host port's access: nothing while its link is down; held while its domain is stopped, which the fantail is asked to
start (R40, R42). -/
def Dev.hostAccess (d : Dev) (x : Access) : Dev :=
  match x.who with
  | .host h =>
    if !(d.host h).up then d
    else match d.waitsFor x.who x.addr with
      | some p => { (d.askStart p) with bridge := d.bridge ++ [x] }
      | none => d.accessNow x
  | _ => d

/-- A 4-byte write of host port `h`. -/
def Dev.hostPut (d : Dev) (h a v hw : Nat) : Dev :=
  d.hostAccess { who := .host h, addr := a, write := true, size := 4, value := v, hwSet := hw, upd := none }

/-- A 4-byte read of host port `h`. -/
def Dev.hostGet (d : Dev) (h a : Nat) (upd : Option Nat) : Dev :=
  d.hostAccess { who := .host h, addr := a, write := false, size := 4, value := 0, hwSet := 0, upd := upd }

/-- A 4-byte write of host port `h` to element `i` of a register. -/
def Dev.hostReg (d : Dev) (h : Nat) (r : RegInfo) (i v : Nat) : Dev := d.hostPut h (r.addr i % 0x10000000) v 0

/-- Held accesses whose domain runs complete, oldest first (R40). -/
def Dev.bridgeGo (d : Dev) : Dev :=
  let ready := d.bridge.filter (fun x => decide (d.waitsFor x.who x.addr = none))
  let rest := d.bridge.filter (fun x => decide (d.waitsFor x.who x.addr ≠ none))
  ready.foldl (fun d x => d.accessNow x) { d with bridge := rest }

/-! ## Accesses of the device's own engines -/

/-- A write of an engine, or by the register bridge, which waits for its domain (R40). -/
def Dev.engineWrite (d : Dev) (w : Accessor) (a size v : Nat) : BusSays × Dev :=
  match d.waitsFor w a with
  | some p => (d.startNow p).busWrite w a size v 0
  | none => d.busWrite w a size v 0

/-- A read of an engine, or by the register bridge. -/
def Dev.engineRead (d : Dev) (w : Accessor) (a size : Nat) : BusSays × Nat × Dev :=
  match d.waitsFor w a with
  | some p => (d.startNow p).busRead w a size none
  | none => d.busRead w a size none

end Sys2Proof.Machine
end

