-- ==== Sys2Proof/Machine/Engines.lean ====
section
/-! DEFINITION. Engines that make register accesses: DMA descriptors (R521 to R523), the Amiler engine (R524 to R531), the
register bridge of the Action Engine arrays (R344), the I3C target (R563, R564). -/
namespace Sys2Proof.Machine

/-! ## DMA descriptors -/

/-- A descriptor of the DMA ring (R521). -/
structure DmaDesc where
  host : Nat
  bar : Nat
  len : Nat
  op : Nat
  wide : Bool
  out : Nat
  /-- Every field is in range. -/
  good : Bool
  deriving DecidableEq, Repr

def dmaDesc (e : List Byte) : DmaDesc :=
  let host := leAt e 0 8
  let bar := leAt e 8 4
  let len := leAt e 12 4
  let op := byteAt e 16
  let flags := byteAt e 17
  let unit := if flags % 2 = 1 ∨ op = 3 then 8 else 4
  { host := host, bar := bar, len := len, op := op, wide := decide (flags % 2 = 1), out := leAt e 24 8
    good := decide (host % 8 = 0) && decide (bar % 4 = 0) && decide (bar < 2 ^ 28) && decide (len % unit = 0) && decide (4 ≤ len)
      && decide (len ≤ 16777216) && decide (flags < 2) && decide (leAt e 18 2 = 0) && decide (1 ≤ op ∧ op ≤ 3) }

/-- The DMA ring of host port `h` may go on (R501, R517). -/
def Dev.dmaLive (d : Dev) (h : Nat) : Bool := (d.host h).up && (d.host h).bme && d.ringEn (ringAt h 10)

/-- The descriptor that the DMA ring takes next. -/
def Dev.dmaHead (d : Dev) (h : Nat) : Option DmaDesc :=
  let i := ringAt h 10
  if d.dmaLive h && decide (d.ringUsed i ≠ 0) then some (dmaDesc (d.hostRead h (d.ringEntry i (d.rd R.RING_CONS i) 32) 32)) else none

/-- A descriptor ends: bytes 20 to 23, then RING_CONS (R523). One whose ring has stopped meanwhile is abandoned. -/
def Dev.dmaEnd (d : Dev) (h status units : Nat) : Dev :=
  let i := ringAt h 10
  let d := d.setHost h { d.host h with dma := none }
  if !d.dmaLive h then d
  else ((d.hostWrite h (d.ringEntry i (d.rd R.RING_CONS i) 32 + 20) (leBytes 4 (status + units % 2 ^ 24 * 256))).ringNext h i).bridgeGo

/-- A request in host memory fails after `units` (R517, R523). -/
def Dev.dmaFail (d : Dev) (h units : Nat) : Dev := (d.dmaEnd h 2 units).ringError h (ringAt h 10)

/-- What the units of a block transfer leave: units done, and whether an access fell under R7. -/
structure DmaAcc where
  units : Nat := 0
  bad : Bool := false
  dev : Dev

/-- READ_BLOCK: `n` accesses from offset `a` to host address `m` upward. -/
def readUnits (h size : Nat) : Nat → Nat → Nat → DmaAcc → DmaAcc
  | 0, _, _, x => x
  | n + 1, a, m, x =>
    if !x.dev.dmaLive h then x
    else
      let (ans, v, d) := x.dev.engineRead (.host h) a size
      readUnits h size n (a + size) (m + size)
        { units := x.units + size / 4, bad := x.bad || decide (ans ≠ .ok), dev := d.hostWrite h m (leBytes size v) }

/-- WRITE_BLOCK. -/
def writeUnits (h : Nat) : Nat → Nat → Nat → DmaAcc → DmaAcc
  | 0, _, _, x => x
  | n + 1, a, m, x =>
    if !x.dev.dmaLive h then x
    else
      let (ans, d) := x.dev.engineWrite (.host h) a 4 (leNat (x.dev.hostRead h m 4))
      writeUnits h n (a + 4) (m + 4) { units := x.units + 1, bad := x.bad || decide (ans ≠ .ok), dev := d }

/-- The DMA row of operation `op`: its descriptor, or one whose OP is undefined, which any of the three ends (log 15). -/
def Dev.dmaRow (d : Dev) (h op : Nat) (run : DmaDesc → Dev → Dev) : Dev :=
  match d.dmaHead h with
  | none => d
  | some e =>
    if e.op ≠ op ∧ 1 ≤ e.op ∧ e.op ≤ 3 then d
    else if !e.good then d.dmaEnd h 1 0
    else run e d

/-- A block transfer that has made `x` of its `n` accesses. -/
def dmaBlock (h : Nat) (failed : Bool) (x : DmaAcc) : Dev :=
  if failed then x.dev.dmaFail h x.units else x.dev.dmaEnd h (if x.bad then 4 else 0) x.units

/-- READ_BLOCK (R522). With `fail` a request in host memory fails after that many accesses. -/
def Dev.readBlock (d : Dev) (h : Nat) (fail : Option Nat) : Dev :=
  d.dmaRow h 1 (fun e d =>
    let size := if e.wide then 8 else 4
    let n := e.len / size
    dmaBlock h (decide (fail.getD n < n)) (readUnits h size (min n (fail.getD n)) e.bar e.host { dev := d }))

/-- WRITE_BLOCK (R522). -/
def Dev.writeBlock (d : Dev) (h : Nat) (fail : Option Nat) : Dev :=
  d.dmaRow h 2 (fun e d =>
    let n := e.len / 4
    dmaBlock h (decide (fail.getD n < n)) (writeUnits h (min n (fail.getD n)) e.bar e.host { dev := d }))

/-- AML_CTRL.WAIT_US in ns; 0 acts as 1. -/
def Dev.amlWait (d : Dev) : Nat := max 1 (d.fldOf R.AML_CTRL 0 16 16) * 1000

def Dev.setRun (d : Dev) (h : Nat) (x : DmaRun) : Dev := d.setHost h { d.host h with dma := some x }

/-- Entries of a PROGRAM from the next one on, `n` at most (R522, R526): a WAIT that does not hold suspends the program, and
times out after WAIT_US. Bits 29:28 of an entry are ignored (log 63). -/
def programRun (h : Nat) (e : DmaDesc) : Nat → DmaRun → Dev → Dev
  | 0, x, d => d.dmaEnd h (if x.bad then 4 else 0) x.done
  | n + 1, x, d =>
    if !d.dmaLive h then d
    else
      let at_ := e.host + 8 * x.done
      let w := leNat (d.hostRead h at_ 4)
      let value := leNat (d.hostRead h (at_ + 4) 4)
      let a := fld w 0 28
      let next := fun (ans : BusSays) (outs : Nat) => DmaRun.mk (x.done + 1) outs (x.bad || decide (ans ≠ .ok)) none
      let emit := fun (v : Nat) (d : Dev) => d.hostWrite h (e.out + 8 * x.outs) (leBytes 8 v)
      match fld w 30 2 with
      | 0 =>
        let (ans, d) := d.engineWrite (.host h) a 4 value
        programRun h e n (next ans x.outs) d
      | 1 =>
        let (ans, v, d) := d.engineRead (.host h) a 4
        programRun h e n (next ans (x.outs + 1)) (emit v d)
      | 2 =>
        let (ans, v, d) := d.engineRead (.host h) a 4
        let since := x.waitSince.getD d.now
        if v &&& value = 0 then programRun h e n (next ans x.outs) d
        else if since + d.amlWait ≤ d.now then d.dmaEnd h 3 x.done
        else d.setRun h { x with waitSince := some since }
      | _ =>
        let (ans, v, d) := d.engineRead (.host h) a 8
        programRun h e n (next ans (x.outs + 1)) (emit v d)

/-- PROGRAM (R522): it starts, or goes on from the WAIT at which it stands. With `fail` a request in host memory fails. -/
def Dev.programRow (d : Dev) (h : Nat) (fail : Bool) : Dev :=
  d.dmaRow h 3 (fun e d =>
    let x := (d.host h).dma.getD {}
    if fail then d.dmaFail h x.done else programRun h e (e.len / 8 - x.done) x d)

/-! ## The Amiler engine -/

/-- The entries of a body: bytes 0 to 3 and VALUE (R526). -/
def amlEntries (body : List Byte) (count : Nat) : List (Nat × Nat) :=
  (List.range count).map (fun k => (beAt body (16 + 8 * k) 4, beAt body (20 + 8 * k) 4))

/-- The header and the entries of a body are well formed (R525 to R527); `hostUsed` where the HOST field counts. -/
def amlFormat (body : List Byte) (hostUsed : Bool) : Bool :=
  let count := byteAt body 3
  decide (byteAt body 0 = 1) && decide (byteAt body 1 % 2 = 0) && decide (byteAt body 1 < 8) && decide (1 ≤ count ∧ count ≤ 64)
    && (!hostUsed || decide (byteAt body 2 < 4)) && (amlEntries body count).all (fun e => decide (fld e.1 28 2 = 0))

/-- The request that a body states. -/
def amlRun (host : Nat) (oob : Bool) (body key eth : List Byte) (tag : Tag) : AmlRun := {
  host := host, oob := oob, stop := decide (fld (byteAt body 1) 2 1 = 1), noReply := decide (fld (byteAt body 1) 1 1 = 1)
  todo := amlEntries body (byteAt body 3), key := key, head := body.take 16, eth := eth, tag := tag }

/-- A diverted frame is rejected (R527). -/
def Dev.amlReject (d : Dev) (ctr : RegInfo) (fid : Nat) : Dev := ((d.inc ctr 0 1).raiseBit R.AML_EVENTS 0 0).puntDrop fid

/-- The Ethernet header of a frame: 14 bytes, or 18 with a tag (R524). -/
def ethLen (bs : List Byte) : Nat := if beAt bs 12 2 = 0x8100 ∨ beAt bs 12 2 = 0x88A8 then 18 else 14

/-- The checks of R527 on a whole diverted frame, in order; one that passes becomes the request in execution. -/
def Dev.amlAccept (d : Dev) (fid : Nat) (f : Frame) : Dev :=
  let (data, ue, d) := d.readCells f.cells
  let k := ethLen data
  let body := (data.take (data.length - 4)).drop k
  let n := 16 + 8 * byteAt body 3
  let h := byteAt body 2
  if f.bufBad ≠ 0 ∨ ue = true ∨ body.length < n + 16 ∨ amlFormat body true = false then d.amlReject R.AML_REJ_FORMAT fid
  else match (d.host h).key with
    | none => d.amlReject R.AML_REJ_KEY fid
    | some key =>
      let seq := beAt body 4 8
      if cmac key (body.take n) ≠ slice body n 16 then d.amlReject R.AML_REJ_MAC fid
      else if seq ≤ d.rd64 R.AML_SEQ h then d.amlReject R.AML_REJ_REPLAY fid
      else
        let d := (d.wr64 R.AML_SEQ h seq).inc R.AML_ACCEPTED 0 1
        { (d.askFrees f.cells).dropFrame fid with aml := some (amlRun h false body key (data.take k) f.tag) }

/-- The oldest whole diverted frame. -/
def Dev.amlWhole (d : Dev) : Option Nat := d.amlQ.find? (fun fid => match d.frame fid with | some f => f.bufWhole | none => true)

/-- An out-of-band request starts (R531). One whose header or entries are malformed is rejected, and BUSY clears (log 64). -/
def Dev.oobStart (d : Dev) (h : Nat) : Dev :=
  let body := (List.range 256).flatMap (fun j => leBytes 4 (d.rd R.HPL_AML_REQ (h * 256 + j)))
  if amlFormat body false then { d with aml := some (amlRun h true body [] [] {}) }
  else ((d.inc R.AML_REJ_FORMAT 0 1).raiseBit R.AML_EVENTS 0 0).setHost h { d.host h with oobBusy := false }

/-- AMILER_REQUEST (R524, R527, R528, R531): with no request in execution, the next one is taken, an out-of-band request
first. A frame under a forced retire is discarded (R86, R91). -/
def Dev.amilerRequest (d : Dev) : Dev :=
  if d.aml.isSome then d
  else match (List.range 4).find? (fun h => (d.host h).oobBusy) with
    | some h => d.oobStart h
    | none =>
      match d.amlWhole with
      | none => d
      | some fid =>
        let d := { d with amlQ := d.amlQ.filter (· ≠ fid) }
        match d.frame fid with
        | none => d
        | some f =>
          match (if f.hasTag then d.forced f.tag else none) with
          | some ctr => (d.inc ctr 0 1).puntDrop fid
          | none => d.amlAccept fid f

/-- The response body of a request (R529), without MAC. -/
def AmlRun.response (a : AmlRun) : List Byte :=
  spliceAt a.head 1 [BitVec.ofNat 8 (byteAt a.head 1 + 1)]
    ++ a.done.flatMap (fun e => beBytes 4 e.1 ++ beBytes 1 e.2.1 ++ [0, 0, 0] ++ beBytes 8 e.2.2)

/-- Entries executed, and the worst status: the greatest (DEDUCED, log 65). -/
def AmlRun.executed (a : AmlRun) : Nat := (a.done.filter (fun e => decide (e.2.1 ≠ 4))).length
def AmlRun.worst (a : AmlRun) : Nat := (a.done.map (fun e => e.2.1)).foldl max 0

/-- A request's frame tag ends where no response carries it on. -/
def Dev.amlNoFrame (d : Dev) (a : AmlRun) : Dev := if a.oob then d else d.tagDown a.tag

/-- The response frame of an in-band request joins queue IN_LPORT × 16 + 15, in pool 15 (R491, R529); it keeps the tag of the
request (log 66). -/
def Dev.amlRespond (d : Dev) (a : AmlRun) : Dev :=
  let body := a.response
  let eth := slice a.eth 6 6 ++ a.eth.take 6 ++ a.eth.drop 12
  let data := padded (eth ++ body ++ cmac a.key body)
  let data := data ++ fcsBytes data
  let fid := d.nextFid
  let lport := a.tag.lport
  let tag := { a.tag with queue := lport * 16 + 15, mcast := false, bin := 0, colour := 0 }
  let f : Frame := {
    lport := lport, slice := sliceOf lport, pipe := pipeOf lport % 4, place := .fabric, arrival := d.arrivals, bytes := data
    whole := true, released := true, hasTag := true, tag := tag, headIn := 0, sent := cellsOf data.length, sentLast := true
    b1 := min 256 data.length }
  let d := { d with nextFid := fid + 1, arrivals := d.arrivals + 1 }
  let d := (d.setFrame fid f).admitFirst fid f (data.take 256)
  let d := forN (cellsOf data.length - 1) (fun k d =>
    match d.frame fid with
    | some f => if f.fate = .admitted then d.putCell fid 1 (slice data (256 * (k + 1)) 256) else d
    | none => d) d
  d.lastIn fid 0

/-- The bytes of an out-of-band response in HPL_AML_RSP. -/
def Dev.oobReply (d : Dev) (h : Nat) (body : List Byte) : Dev :=
  forN (ceilDiv body.length 4) (fun j d => d.wr R.HPL_AML_RSP (h * 512 + j) (leAt body (4 * j) 4)) d

/-- A request is finished: response, record, BUSY (R529, R531, R511). -/
def Dev.amlFinish (d : Dev) (a : AmlRun) : Dev :=
  let d := { d with aml := none }
  let h := a.host
  let record := leBytes 4 (beAt a.head 12 4) ++ leBytes 1 (b2n a.oob) ++ leBytes 1 a.worst ++ leBytes 1 a.executed ++ [0]
    ++ leBytes 8 (beAt a.head 4 8)
  if a.abandon then d
  else
    let d :=
      if a.oob then
        let d := if a.noReply then d else d.oobReply h a.response
        let d := (d.wr R.HPL_AML_OOB_STATUS h (packFields [(8, 8, a.executed), (0, 8, a.worst)])).inc R.AML_OOB 0 1
        d.setHost h { d.host h with oobBusy := false }
      else if a.noReply then d.amlNoFrame a
      else d.amlRespond a
    (d.post h 4 6 0 record).raiseBit R.HPL_EVENTS h 5

/-- An entry ends with a status and a value: the next one follows, or the request finishes; after a failure with STOP_ON_ERR the
entries left are skipped (R528). A request that its own access ended (R555) leaves nothing. -/
def Dev.amlEntryDone (d : Dev) (status value : Nat) : Dev :=
  match d.aml with
  | none => d.bridgeGo
  | some a =>
    match a.todo with
    | [] => d
    | e :: rest =>
      let skip := a.stop && decide (status ≠ 0)
      let done := a.done ++ (e.1, status, value) :: (if skip then rest.map (fun x => (x.1, 4, 0)) else [])
      let a : AmlRun := { a with done := done, todo := if skip then [] else rest, waitSince := none }
      let d := d.inc R.AML_ENTRIES 0 1
      let d := if a.todo.isEmpty || a.abandon then d.amlFinish a else { d with aml := some a }
      d.bridgeGo

/-- The accessor of a request (R528, R531). -/
def AmlRun.who (a : AmlRun) : Accessor := if a.oob then .oob a.host else .amiler a.host

def BusSays.status : BusSays → Nat
  | .ok => 0 | .unassigned => 1 | .denied => 2

/-- The next entry of the request, if it is of kind `kind`. -/
def Dev.amlNext (d : Dev) (kind : Nat) (f : AmlRun → Nat → Nat → Dev → Dev) : Dev :=
  match d.aml with
  | none => d
  | some a =>
    match a.todo with
    | [] => d
    | e :: _ => if fld e.1 30 2 = kind then f a (fld e.1 0 28) e.2 d else d

/-- AML_WRITE. -/
def Dev.amlWrite (d : Dev) : Dev :=
  d.amlNext 0 (fun a off v d =>
    let (ans, d) := d.engineWrite a.who off 4 v
    d.amlEntryDone ans.status 0)

/-- AML_READ. -/
def Dev.amlRead (d : Dev) : Dev :=
  d.amlNext 1 (fun a off _ d =>
    let (ans, v, d) := d.engineRead a.who off 4
    d.amlEntryDone ans.status v)

/-- AML_READ64. -/
def Dev.amlRead64 (d : Dev) : Dev :=
  d.amlNext 3 (fun a off _ d =>
    let (ans, v, d) := d.engineRead a.who off 8
    d.amlEntryDone ans.status v)

/-- AML_WAIT (R526): one read of the series; the entry ends when no bit of VALUE is set, or WAIT_US has passed. -/
def Dev.amlWaitRow (d : Dev) : Dev :=
  d.amlNext 2 (fun a off v d =>
    let (ans, got, d) := d.engineRead a.who off 4
    let since := a.waitSince.getD d.now
    if ans ≠ .ok ∨ got &&& v = 0 then d.amlEntryDone ans.status got
    else if since + d.amlWait ≤ d.now then (d.raiseBit R.AML_EVENTS 0 2).amlEntryDone 3 got
    else { d with aml := some { a with waitSince := some since } }.bridgeGo)

/-! ## The register bridge of the arrays (R344) -/

/-- BRIDGE_EN of the thread. -/
def AeIn.bridgeEn (i : AeIn) (d : Dev) : Bool := (d.recOf i.s i.t).bridge

/-- MMRD: EXT[1:0] names the host port whose rights apply, EXT[2] an 8-byte read. -/
def aeMmrdDef : AeDef := ⟨0x38, 7, true, false, false, fun _ => false, fun i d =>
  let a := i.a % 2 ^ 28
  if !i.bridgeEn d then (.fault 0x0D a, d)
  else
    let (_, v, d) := d.engineRead (.bridge (i.m.ext % 4)) a (if i.m.bit 2 then 8 else 4)
    (.next, d.setReg i.s i.t i.m.d v)⟩

/-- MMWR: WIDE asks for an 8-byte read, so a write with it is treated under R7. The thread has passed the microword when its
write arrives, which may restart it. -/
def aeMmwrDef : AeDef := ⟨0x39, 7, true, true, false, fun _ => false, fun i d =>
  let a := i.a % 2 ^ 28
  let w := Accessor.bridge (i.m.ext % 4)
  if !i.bridgeEn d then (.fault 0x0D a, d)
  else
    let d := d.modThr i.s i.t (fun x => { x with pc := (x.pc + 1) % 65536 })
    if i.m.bit 2 then (.done, d.countBad w) else (.done, (d.engineWrite w a 4 (i.b % 2 ^ 32)).2)⟩

/-! ## The I3C target (R563, R564) -/

/-- I3C_PRIVATE_WRITE: the offset, and 4 bytes to write where they follow. -/
def Dev.i3cWrite (d : Dev) (off : Nat) (v : Option Nat) : Dev :=
  if !d.fan.aonOn then d
  else
    let d := { d with fan := { d.fan with i3cOffset := off } }
    match v with
    | none => d
    | some v => (d.busWrite .i3c off 4 v 0).2

/-- Reads of `n` words from `off` upward. -/
def i3cWords : Nat → Nat → Dev → List Word × Dev
  | 0, _, d => ([], d)
  | n + 1, off, d =>
    let (_, v, d) := d.busRead .i3c off 4 none
    let (vs, d) := i3cWords n (off + 4) d
    (BitVec.ofNat 32 v :: vs, d)

/-- I3C_PRIVATE_READ of `n` words from the last offset given. -/
def Dev.i3cRead (d : Dev) (n : Nat) : Dev :=
  if !d.fan.aonOn then d
  else
    let (vs, d) := i3cWords n d.fan.i3cOffset d
    { d with fan := { d.fan with i3cRead := vs } }

/-! ## Rows that complete what earlier ones left -/

/-- SLICE_WAKE_DONE, with the accesses that waited for the slice (R40, R538). -/
def Dev.sliceWakeDoneRow (d : Dev) (s : Nat) : Dev := (d.sliceWakeDone s).bridgeGo

/-- FABRIC_WAKE, with the accesses that waited for the fabric (R42, R543). -/
def Dev.fabricWakeRow (d : Dev) : Dev := d.fabricWake.bridgeGo

/-- HBM_SLEEP_EXIT, with the accesses that waited for the controller (R40, R439). -/
def Dev.hbmExitRow (d : Dev) (k : Nat) : Dev := (d.hbmWakeRow k).bridgeGo

/-- ERROR_REPORT (R575, R576): the reports of one host/control clock, merged and in order, and the page retirements that
lasting faults of HBM lines ask for (R432). -/
def Dev.errorReports (d : Dev) (rs : List Report) : Dev :=
  ((inReportOrder (mergeReports rs)).foldl (fun d r => d.report r.cls r.unit r.loc r.ue r.inj) d).freeFell d.freeCells |>.retireAsked

end Sys2Proof.Machine
end

