-- ==== Sys2Proof/Machine/Commands.lean ====
section
/-! DEFINITION. Commands of a sender that are more than one plain register write: image bytes, THAW with the outcome of its checks,
commands that the I3C target may make too, and the registers of statistics periods. -/
namespace Sys2Proof.Machine

/-- IMAGE_WRITE (R63, R66, R67, R555): a posted write of `bs` at offset `off` of the staging aperture. -/
def Dev.imageWrite (d : Dev) (h off : Nat) (bs : List Byte) : Dev :=
  if !(d.host h).up || d.fan.warmRunning.isSome then d
  else if d.owns h then d.apertureWrite h (0xC000000 + off) bs
  else d.badAccess h

/-- THAW (R437): HBM_CMD.THAW of host port `h`; `pass` is the outcome of the repeated training checks, which only a FROZEN
controller makes. -/
def Dev.hostThaw (d : Dev) (h k : Nat) (pass : Bool) : Dev :=
  if (d.host h).up = true ∧ d.fan.warmRunning = none ∧ (d.stk k).st = .frozen then d.hbmCmd k 2 pass
  else d.hostReg h R.HBM_CMD k 2

/-- A write of a register of one element by a host port, or by the I3C target (none). -/
def Dev.senderReg (d : Dev) (w : Option Nat) (r : RegInfo) (v : Nat) : Dev :=
  match w with
  | some h => d.hostReg h r 0 v
  | none => d.i3cWrite (r.addr 0) (some v)

/-- Of the four register blocks of the rings (R516), the one that holds ring `r`. -/
def ringBlock {α : Type} (r : Nat) (event punt inject dma : α) : α :=
  if r < 5 then event else if r = 5 then punt else if r < 10 then inject else dma

/-- RING_CTRL and RING_CONS of ring `r`. -/
def ringCtrlReg (r : Nat) : RegInfo := ringBlock r R.RING_CTRL R.RING_CTRL_PUNT R.RING_CTRL_INJ R.RING_CTRL_DMA
def ringConsReg (r : Nat) : RegInfo := ringBlock r R.RING_CONS R.RING_CONS_PUNT R.RING_CONS_INJ R.RING_CONS_DMA

/-- POWER_ON (R545): FAN_CMD.POWER_ON; `high` says whether 48 V is above 44 V at that moment. -/
def Dev.powerOnCmd (d : Dev) (w : Option Nat) (high : Bool) : Dev :=
  { d with fan := { d.fan with inputHigh := high } }.senderReg w R.FAN_CMD 0x5AFE0001

/-- STAT_CONFIG_WRITE (R587): STAT_PERIOD_MS, a word of STAT_ALIGN, or STAT_CTRL with EN. -/
def Dev.statConfigPut (d : Dev) (h which v : Nat) : Dev :=
  match which with
  | 0 => d.hostReg h R.STAT_PERIOD_MS 0 v
  | 1 => d.hostReg h R.STAT_ALIGN 0 v
  | 2 => d.hostPut h (R.STAT_ALIGN.addr 0 + 4) v 0
  | _ => d.hostReg h R.STAT_CTRL 0 v

end Sys2Proof.Machine
end

