-- ==== Sys2Proof/Machine/State.lean ====
section
/-! DEFINITION. The state of the block: the device and the queue of commands that wait; the state after reset; the reasons to stop. -/
namespace Sys2Proof.Machine

/-- The state: everything the spec gives the QZ1024 (`Dev`), and the commands that wait, first in, first out. -/
structure State where
  dev : Dev := {}
  pending : List Instr := []
  deriving DecidableEq, Repr

/-- Reasons to stop with a fault. There are none: the spec gives every command an effect, errors included (R7), so no meaning
faults and the type has no constructor. Safe. -/
inductive Fault where
  deriving DecidableEq, Repr

/-- Reasons to refuse a command. -/
inductive Refusal where
  /-- The command has no meaning in the model. Raised by no arm of `exec`: every row has its meaning. Safe. -/
  | notModelled (mnemonic : String)
  deriving DecidableEq, Repr

/-- What a meaning answers. -/
abbrev Answer := Host.Outcome State Fault Refusal

/-- The state with the device changed; the queue stands. -/
def State.on (s : State) (f : Dev → Dev) : State := { s with dev := f s.dev }

/-- The machine right after a power-on reset (R553): every register at its reset value, the fantail in STANDBY without 48 V
qualified, RST_CAUSE POWER_ON with source 7 (R566, R567), no command waiting. -/
def State.reset : State := { dev := ({} : Dev).setCause 1 7, pending := [] }

end Sys2Proof.Machine
end

