-- ==== Sys2Proof/Machine/ExecAccess.lean ====
section
/-! DEFINITION. Register accesses that have no row of their own: the meaning of each row of this family. Every meaning answers a next state. -/
namespace Sys2Proof.Machine

/-- REGISTER_WRITE (R9). -/
def execRegisterWrite (h : HostNo) (a : Offset) (v : Word) (hw : Word) (s : State) : Answer := .next (s.on (fun d =>
  d.hostPut h a.toNat v.toNat hw.toNat))

/-- BAD_ACCESS (R7). -/
def execBadAccess (h : HostNo) (a : Offset) (size : Nat) (write : Bool) (v : DWord) (s : State) : Answer := .next (s.on (fun d =>
  d.hostAccess { who := .host h, addr := a.toNat, write := write, size := size, value := v.toNat, hwSet := 0, upd := none }))

/-- RC_READ (R507). -/
def execRcRead (h : HostNo) (a : Offset) (upd : Option Word) (s : State) : Answer := .next (s.on (fun d =>
  d.hostGet h a.toNat (upd.map (fun x => x.toNat))))

/-- COUNTER_LOW_READ (R12). -/
def execCounterLowRead (h : HostNo) (a : Offset) (s : State) : Answer := .next (s.on (fun d => d.hostGet h a.toNat none))

/-- STOPPED_DOMAIN_ACCESS (R40). -/
def execStoppedDomainAccess (h : HostNo) (a : Offset) (write : Bool) (v : Word) (s : State) : Answer := .next (s.on (fun d =>
  d.hostAccess { who := .host h, addr := a.toNat, write := write, size := 4, value := v.toNat, hwSet := 0, upd := none }))

end Sys2Proof.Machine
end

