-- ==== Sys2Proof/Machine/ExecArray.lean ====
section
/-! DEFINITION. The Action Engines: the meaning of each row of this family. Every meaning answers a next state. -/
namespace Sys2Proof.Machine

/-- STEER_TO_CHANNEL (R310). -/
def execSteerToChannel (fid : Nat) (s : State) : Answer := .next (s.on (fun d => d.steer fid))

/-- MESSAGE_DELIVER (R308). -/
def execMessageDeliver (sl : SliceNo) (c : ChannelNo) (s : State) : Answer := .next (s.on (fun d => d.messageDeliver sl c))

/-- BLOCKED_COMMIT (R306). -/
def execBlockedCommit (sl : SliceNo) (t : ThreadNo) (s : State) : Answer := .next (s.on (fun d => d.blockedCommit sl t))

/-- SHARE_ALLOCATE (R314). -/
def execShareAllocate (sl : SliceNo) (t : ThreadNo) (s : State) : Answer := .next (s.on (fun d => d.shareAllocate sl t))

/-- WAIT_SATISFIED (R320). -/
def execWaitSatisfied (sl : SliceNo) (t : ThreadNo) (s : State) : Answer := .next (s.on (fun d => d.waitSatisfied sl t))

/-- FLD_DATA_ARRIVE (R313). -/
def execFldDataArrive (sl : SliceNo) (t : ThreadNo) (s : State) : Answer := .next (s.on (fun d => d.fldArrive sl t))

/-- AE_TIMER_EXPIRE (R321). -/
def execAeTimerExpire (sl : SliceNo) (t : ThreadNo) (s : State) : Answer := .next (s.on (fun d => d.timerExpire sl t))

/-- AE_NOP (R298). -/
def execAeNop (sl : SliceNo) (t : ThreadNo) (s : State) : Answer := .next (s.on (fun d => d.nopRow sl t))

/-- AE_MOV (R298). -/
def execAeMov (sl : SliceNo) (t : ThreadNo) (s : State) : Answer := .next (s.on (fun d => d.aeRow aeMovDef sl t))

/-- AE_ADD (R298). -/
def execAeAdd (sl : SliceNo) (t : ThreadNo) (s : State) : Answer := .next (s.on (fun d => d.aeRow aeAddDef sl t))

/-- AE_SUB (R298). -/
def execAeSub (sl : SliceNo) (t : ThreadNo) (s : State) : Answer := .next (s.on (fun d => d.aeRow aeSubDef sl t))

/-- AE_AND (R298). -/
def execAeAnd (sl : SliceNo) (t : ThreadNo) (s : State) : Answer := .next (s.on (fun d => d.aeRow aeAndDef sl t))

/-- AE_OR (R298). -/
def execAeOr (sl : SliceNo) (t : ThreadNo) (s : State) : Answer := .next (s.on (fun d => d.aeRow aeOrDef sl t))

/-- AE_XOR (R298). -/
def execAeXor (sl : SliceNo) (t : ThreadNo) (s : State) : Answer := .next (s.on (fun d => d.aeRow aeXorDef sl t))

/-- AE_SHL (R298). -/
def execAeShl (sl : SliceNo) (t : ThreadNo) (s : State) : Answer := .next (s.on (fun d => d.aeRow aeShlDef sl t))

/-- AE_SHR (R298). -/
def execAeShr (sl : SliceNo) (t : ThreadNo) (s : State) : Answer := .next (s.on (fun d => d.aeRow aeShrDef sl t))

/-- AE_SAR (R298). -/
def execAeSar (sl : SliceNo) (t : ThreadNo) (s : State) : Answer := .next (s.on (fun d => d.aeRow aeSarDef sl t))

/-- AE_CMP (R297). -/
def execAeCmp (sl : SliceNo) (t : ThreadNo) (s : State) : Answer := .next (s.on (fun d => d.aeRow aeCmpDef sl t))

/-- AE_MUL (R298). -/
def execAeMul (sl : SliceNo) (t : ThreadNo) (s : State) : Answer := .next (s.on (fun d => d.aeRow aeMulDef sl t))

/-- AE_BFX (R298). -/
def execAeBfx (sl : SliceNo) (t : ThreadNo) (s : State) : Answer := .next (s.on (fun d => d.aeRow aeBfxDef sl t))

/-- AE_BFI (R298). -/
def execAeBfi (sl : SliceNo) (t : ThreadNo) (s : State) : Answer := .next (s.on (fun d => d.aeRow aeBfiDef sl t))

/-- AE_BR (R298). -/
def execAeBr (sl : SliceNo) (t : ThreadNo) (s : State) : Answer := .next (s.on (fun d => d.aeRow aeBrDef sl t))

/-- AE_CALL (R298). -/
def execAeCall (sl : SliceNo) (t : ThreadNo) (s : State) : Answer := .next (s.on (fun d => d.aeRow aeCallDef sl t))

/-- AE_RET (R298). -/
def execAeRet (sl : SliceNo) (t : ThreadNo) (s : State) : Answer := .next (s.on (fun d => d.aeRow aeRetDef sl t))

/-- AE_BRX (R298). -/
def execAeBrx (sl : SliceNo) (t : ThreadNo) (s : State) : Answer := .next (s.on (fun d => d.aeRow aeBrxDef sl t))

/-- AE_YIELD (R298). -/
def execAeYield (sl : SliceNo) (t : ThreadNo) (s : State) : Answer := .next (s.on (fun d => d.aeRow aeYieldDef sl t))

/-- AE_LD (R298). -/
def execAeLd (sl : SliceNo) (t : ThreadNo) (s : State) : Answer := .next (s.on (fun d => d.aeRow aeLdDef sl t))

/-- AE_ST (R298). -/
def execAeSt (sl : SliceNo) (t : ThreadNo) (s : State) : Answer := .next (s.on (fun d => d.aeRow aeStDef sl t))

/-- AE_ATOM (R298). -/
def execAeAtom (sl : SliceNo) (t : ThreadNo) (s : State) : Answer := .next (s.on (fun d => d.aeRow aeAtomDef sl t))

/-- AE_CHRD (R307). -/
def execAeChrd (sl : SliceNo) (t : ThreadNo) (s : State) : Answer := .next (s.on (fun d => d.aeRow aeChrdDef sl t))

/-- AE_CHRDNB (R307). -/
def execAeChrdnb (sl : SliceNo) (t : ThreadNo) (s : State) : Answer := .next (s.on (fun d => d.aeRow aeChrdnbDef sl t))

/-- AE_CHWR (R306). -/
def execAeChwr (sl : SliceNo) (t : ThreadNo) (s : State) : Answer := .next (s.on (fun d => d.aeRow aeChwrDef sl t))

/-- AE_CHSEND (R306). -/
def execAeChsend (sl : SliceNo) (t : ThreadNo) (s : State) : Answer := .next (s.on (fun d => d.aeRow aeChsendDef sl t))

/-- AE_CHDISC (R298). -/
def execAeChdisc (sl : SliceNo) (t : ThreadNo) (s : State) : Answer := .next (s.on (fun d => d.aeRow aeChdiscDef sl t))

/-- AE_FLD (R313). -/
def execAeFld (sl : SliceNo) (t : ThreadNo) (s : State) : Answer := .next (s.on (fun d => d.aeRow aeFldDef sl t))

/-- AE_FST (R313). -/
def execAeFst (sl : SliceNo) (t : ThreadNo) (s : State) : Answer := .next (s.on (fun d => d.aeRow aeFstDef sl t))

/-- AE_FALLOC (R314). -/
def execAeFalloc (sl : SliceNo) (t : ThreadNo) (s : State) : Answer := .next (s.on (fun d => d.aeRow aeFallocDef sl t))

/-- AE_FSEND (R316). -/
def execAeFsend (sl : SliceNo) (t : ThreadNo) (s : State) : Answer := .next (s.on (fun d => d.aeRow aeFsendDef sl t))

/-- AE_FLEN (R313). -/
def execAeFlen (sl : SliceNo) (t : ThreadNo) (s : State) : Answer := .next (s.on (fun d => d.aeRow aeFlenDef sl t))

/-- AE_CALLOC (R319). -/
def execAeCalloc (sl : SliceNo) (t : ThreadNo) (s : State) : Answer := .next (s.on (fun d => d.aeRow aeCallocDef sl t))

/-- AE_CFREE (R319). -/
def execAeCfree (sl : SliceNo) (t : ThreadNo) (s : State) : Answer := .next (s.on (fun d => d.aeRow aeCfreeDef sl t))

/-- AE_WAIT (R320). -/
def execAeWait (sl : SliceNo) (t : ThreadNo) (s : State) : Answer := .next (s.on (fun d => d.aeRow aeWaitDef sl t))

/-- AE_TMR (R321). -/
def execAeTmr (sl : SliceNo) (t : ThreadNo) (s : State) : Answer := .next (s.on (fun d => d.aeRow aeTmrDef sl t))

/-- AE_SIGNAL (R321). -/
def execAeSignal (sl : SliceNo) (t : ThreadNo) (s : State) : Answer := .next (s.on (fun d => d.aeRow aeSignalDef sl t))

/-- AE_TCTL_STOP (R329). -/
def execAeTctlStop (sl : SliceNo) (t : ThreadNo) (s : State) : Answer := .next (s.on (fun d => d.tctlRow 1 tctlStop sl t))

/-- AE_TCTL_RESUME (R329). -/
def execAeTctlResume (sl : SliceNo) (t : ThreadNo) (s : State) : Answer := .next (s.on (fun d => d.tctlRow 2 tctlResume sl t))

/-- AE_TCTL_RESTART (R329). -/
def execAeTctlRestart (sl : SliceNo) (t : ThreadNo) (s : State) : Answer := .next (s.on (fun d => d.tctlRow 3 tctlRestart sl t))

/-- AE_TCTL_DISABLE (R329). -/
def execAeTctlDisable (sl : SliceNo) (t : ThreadNo) (s : State) : Answer := .next (s.on (fun d => d.tctlRow 4 tctlDisable sl t))

/-- AE_TCTL_DISCARD_STAGED (R329). -/
def execAeTctlDiscardStaged (sl : SliceNo) (t : ThreadNo) (s : State) : Answer := .next (s.on (fun d =>
  d.tctlRow 5 tctlDiscard sl t))

/-- AE_TCTL_READ_STATE (R329). -/
def execAeTctlReadState (sl : SliceNo) (t : ThreadNo) (s : State) : Answer := .next (s.on (fun d => d.tctlRow 6 tctlRead sl t))

/-- AE_MFTS (R323). -/
def execAeMfts (sl : SliceNo) (t : ThreadNo) (s : State) : Answer := .next (s.on (fun d => d.aeRow aeMftsDef sl t))

/-- AE_MTTS (R323). -/
def execAeMtts (sl : SliceNo) (t : ThreadNo) (s : State) : Answer := .next (s.on (fun d => d.aeRow aeMttsDef sl t))

/-- AE_TRET (R324). -/
def execAeTret (sl : SliceNo) (t : ThreadNo) (s : State) : Answer := .next (s.on (fun d => d.aeRow aeTretDef sl t))

/-- AE_SWTRAP (R298). -/
def execAeSwtrap (sl : SliceNo) (t : ThreadNo) (s : State) : Answer := .next (s.on (fun d => d.aeRow aeSwtrapDef sl t))

/-- AE_MMRD (R344). -/
def execAeMmrd (sl : SliceNo) (t : ThreadNo) (s : State) : Answer := .next (s.on (fun d => d.aeRow aeMmrdDef sl t))

/-- AE_MMWR (R344). -/
def execAeMmwr (sl : SliceNo) (t : ThreadNo) (s : State) : Answer := .next (s.on (fun d => d.aeRow aeMmwrDef sl t))

/-- AE_TIME (R298). -/
def execAeTime (sl : SliceNo) (t : ThreadNo) (s : State) : Answer := .next (s.on (fun d => d.aeRow aeTimeDef sl t))

/-- THR_STOP (R337). -/
def execThrStop (h : HostNo) (sl : SliceNo) (t : ThreadNo) (s : State) : Answer := .next (s.on (fun d =>
  d.hostReg h R.AE_THR_CMD (sl * 256 + t) 1))

/-- THR_RESUME (R337). -/
def execThrResume (h : HostNo) (sl : SliceNo) (t : ThreadNo) (s : State) : Answer := .next (s.on (fun d =>
  d.hostReg h R.AE_THR_CMD (sl * 256 + t) 2))

/-- THR_STEP (R337). -/
def execThrStep (h : HostNo) (sl : SliceNo) (t : ThreadNo) (s : State) : Answer := .next (s.on (fun d =>
  d.hostReg h R.AE_THR_CMD (sl * 256 + t) 4))

/-- THR_RESTART (R294). -/
def execThrRestart (h : HostNo) (sl : SliceNo) (t : ThreadNo) (s : State) : Answer := .next (s.on (fun d =>
  d.hostReg h R.AE_THR_CMD (sl * 256 + t) 16))

/-- THR_DISABLE (R294). -/
def execThrDisable (h : HostNo) (sl : SliceNo) (t : ThreadNo) (s : State) : Answer := .next (s.on (fun d =>
  d.hostReg h R.AE_THR_CMD (sl * 256 + t) 32))

/-- THR_DISCARD_STAGED (R338). -/
def execThrDiscardStaged (h : HostNo) (sl : SliceNo) (t : ThreadNo) (s : State) : Answer := .next (s.on (fun d =>
  d.hostReg h R.AE_THR_CMD (sl * 256 + t) 8))

/-- THR_SIGNAL (R348). -/
def execThrSignal (h : HostNo) (sl : SliceNo) (t : ThreadNo) (s : State) : Answer := .next (s.on (fun d =>
  d.hostReg h R.AE_THR_CMD (sl * 256 + t) 64))

/-- BREAKPOINT_STOP (R337). -/
def execBreakpointStop (sl : SliceNo) (t : ThreadNo) (s : State) : Answer := .next (s.on (fun d => d.breakpointStop sl t))

/-- DEBUG_WRITE (R339). -/
def execDebugWrite (h : HostNo) (sl : SliceNo) (v : Word) (s : State) : Answer := .next (s.on (fun d =>
  d.hostReg h R.AE_DBG_DATA_HI sl v.toNat))

/-- STALLED_WRITER (R338). -/
def execStalledWriter (sl : SliceNo) (t : ThreadNo) (s : State) : Answer := .next (s.on (fun d => d.stalledWriter sl t))

/-- WATCHDOG (R332). -/
def execWatchdog (sl : SliceNo) (e : Fin 32) (s : State) : Answer := .next (s.on (fun d => d.watchdog sl e))

/-- MILLER_STALL (R328). -/
def execMillerStall (sl : SliceNo) (s : State) : Answer := .next (s.on (fun d => d.millerStall sl))

/-- FORCED_MOVE (R335). -/
def execForcedMove (sl : SliceNo) (t : ThreadNo) (s : State) : Answer := .next (s.on (fun d => d.forcedMove sl t))

/-- CHANNEL_CFG_UPDATE (R336). -/
def execChannelCfgUpdate (sl : SliceNo) (c : ChannelNo) (s : State) : Answer := .next (s.on (fun d => d.chanUpdate sl c))

/-- STAGE_WORD (R342). -/
def execStageWord (sl : SliceNo) (s : State) : Answer := .next (s.on (fun d => d.pchCmd sl 1))

/-- PATCH_COMMIT (R341). -/
def execPatchCommit (sl : SliceNo) (s : State) : Answer := .next (s.on (fun d => d.patchBegin sl 2))

/-- CLEAR_ALL (R341). -/
def execPatchClearAll (sl : SliceNo) (s : State) : Answer := .next (s.on (fun d => d.patchBegin sl 3))

/-- READ_WORD (R342). -/
def execPatchReadWord (sl : SliceNo) (s : State) : Answer := .next (s.on (fun d => d.pchCmd sl 4))

/-- UNSTAGE_ALL (R342). -/
def execUnstageAll (sl : SliceNo) (s : State) : Answer := .next (s.on (fun d => d.pchCmd sl 5))

/-- PATCH_INSTALL (R341). -/
def execPatchInstall (sl : SliceNo) (s : State) : Answer := .next (s.on (fun d => d.patchInstall sl))

/-- GUARD_TIMEOUT (R341). -/
def execGuardTimeout (sl : SliceNo) (s : State) : Answer := .next (s.on (fun d => d.guardTimeout sl))

/-- AE_DBG_DATA_LO_READ (R350). -/
def execAeDbgDataLoRead (h : HostNo) (sl : SliceNo) (s : State) : Answer := .next (s.on (fun d =>
  d.hostGet h (R.AE_DBG_DATA_LO.addr sl) none))

end Sys2Proof.Machine
end

