-- ==== Sys2Proof/Machine/ExecFabric.lean ====
section
/-! DEFINITION. The crossbar, the buffer and the HBM stacks: the meaning of each row of this family. Every meaning answers a next state. -/
namespace Sys2Proof.Machine

/-- CELL_RECEIVE (R359). -/
def execCellReceive (outbound : Bool) (sl : SliceNo) (plane : Fin 4) (crcFail : Bool) (s : State) : Answer := .next (s.on (fun d =>
  d.cellReceive outbound sl plane crcFail))

/-- RSQ_RELEASE (R361). -/
def execRsqRelease (outbound : Bool) (sl : SliceNo) (p : PipeNo) (s : State) : Answer := .next (s.on (fun d =>
  d.rsqRelease outbound sl p))

/-- GAP_TIMEOUT (R360). -/
def execGapTimeout (outbound : Bool) (sl : SliceNo) (p : PipeNo) (s : State) : Answer := .next (s.on (fun d =>
  d.gapTimeout outbound sl p))

/-- CONTEXT_TIMEOUT (R361). -/
def execContextTimeout (outbound : Bool) (sl : SliceNo) (p : PipeNo) (ctx : Fin 32) (s : State) : Answer := .next (s.on (fun d =>
  d.ctxTimeout outbound sl p ctx))

/-- HEAD_RELEASE (R363). -/
def execHeadRelease (sl : SliceNo) (p : PipeNo) (s : State) : Answer := .next (s.on (fun d => d.headRelease sl p))

/-- FRAME_ADMIT (R370). -/
def execFrameAdmit (s : State) : Answer := .next (s.on (fun d => d.frameAdmit.tableLosses))

/-- CELL_ADMIT (R372). -/
def execCellAdmit (s : State) : Answer := .next (s.on (fun d => d.cellAdmitted.tableLosses))

/-- CELL_FREE (R377). -/
def execCellFree (s : State) : Answer := .next (s.on (fun d => d.cellFreed))

/-- AGER_VISIT (R396). -/
def execAgerVisit (q : QueueNo) (s : State) : Answer := .next (s.on (fun d => (d.agerVisit q).tableLosses))

/-- COPY_START (R463). -/
def execCopyStart (sl : SliceNo) (p : PipeNo) (s : State) : Answer := .next (s.on (fun d => (d.copyStart sl p).tableLosses))

/-- ALLOC (R403). -/
def execBpmAlloc (s : State) : Answer := .next (s.on (fun d => d.bpmCmd 1))

/-- READ_STATE (R403). -/
def execBpmReadState (s : State) : Answer := .next (s.on (fun d => d.bpmCmd 3))

/-- SET_ATOMIC (R393). -/
def execSetAtomic (s : State) : Answer := .next (s.on (fun d => d.bpmCmd 4))

/-- CLEAR_ATOMIC (R393). -/
def execClearAtomic (s : State) : Answer := .next (s.on (fun d => d.bpmCmd 5))

/-- READ_ATOMIC (R403). -/
def execReadAtomic (s : State) : Answer := .next (s.on (fun d => d.bpmCmd 6))

/-- BPM_FREE (R377). -/
def execBpmFree (s : State) : Answer := .next (s.on (fun d => d.bpmCmd 2))

/-- SPILL_WRITE_DONE (R413). -/
def execSpillWriteDone (w : SpillWrites) (s : State) : Answer := .next (s.on (fun d => d.spillWriteDone w.cid w.n))

/-- FILL_EVALUATE (R416). -/
def execFillEvaluate (sl : SliceNo) (s : State) : Answer := .next (s.on (fun d => d.fillEvaluate sl))

/-- FILL_READ_DONE (R417). -/
def execFillReadDone (cid : Nat) (s : State) : Answer := .next (s.on (fun d => d.fillReadDone cid))

/-- HBM_PHASE_SWITCH (R422). -/
def execHbmPhaseSwitch (k : StackNo) (s : State) : Answer := .next (s.on (fun d => d.phaseSwitch k))

/-- HBM_REFRESH (R423). -/
def execHbmRefresh (k : StackNo) (pc : Fin 32) (s : State) : Answer := .next (s.on (fun d => d.hbmRefresh k pc))

/-- HBM_REPLAY (R427). -/
def execHbmReplay (r : ReplaySpan) (reread : Bool) (failed : Bool) (s : State) : Answer := .next (s.on (fun d =>
  d.hbmReplay r.k r.pc r.n reread failed))

/-- HBM_SCRUB_READ (R430). -/
def execHbmScrubRead (k : StackNo) (s : State) : Answer := .next (s.on (fun d => d.hbmScrub k))

/-- FREEZE (R434). -/
def execHbmFreeze (h : HostNo) (k : StackNo) (s : State) : Answer := .next (s.on (fun d => d.hostReg h R.HBM_CMD k 1))

/-- HBM_OVERTEMP (R434). -/
def execHbmOvertemp (k : StackNo) (t : BitVec 12) (s : State) : Answer := .next (s.on (fun d => d.hbmTemp k t.toNat))

/-- THAW (R437). -/
def execHbmThaw (h : HostNo) (k : StackNo) (pass : Bool) (s : State) : Answer := .next (s.on (fun d => d.hostThaw h k pass))

/-- OFFLINE (R438). -/
def execHbmOffline (h : HostNo) (k : StackNo) (s : State) : Answer := .next (s.on (fun d => d.hostReg h R.HBM_CMD k 4))

/-- RETRAIN (R437). -/
def execHbmRetrain (h : HostNo) (k : StackNo) (s : State) : Answer := .next (s.on (fun d => d.hostReg h R.HBM_CMD k 8))

/-- HBM_INIT_DONE (R439). -/
def execHbmInitDone (k : StackNo) (s : State) : Answer := .next (s.on (fun d => d.hbmInitDone k))

/-- HBM_TRAIN_DONE (R440). -/
def execHbmTrainDone (k : StackNo) (mask : Word) (reused : Bool) (s : State) : Answer := .next (s.on (fun d =>
  d.hbmTrainRow k mask.toNat reused))

/-- HBM_SLEEP_ENTRY (R439). -/
def execHbmSleepEntry (k : StackNo) (s : State) : Answer := .next (s.on (fun d => d.hbmSleep k))

/-- HBM_SLEEP_EXIT (R439). -/
def execHbmSleepExit (k : StackNo) (s : State) : Answer := .next (s.on (fun d => d.hbmExitRow k))

/-- PAGE_RETIRE (R432). -/
def execPageRetire (h : HostNo) (k : StackNo) (page : BitVec 20) (s : State) : Answer := .next (s.on (fun d =>
  d.hostReg h R.HBM_RETIRE_CMD k (2 ^ 31 + page.toNat)))

/-- READ_LINE (R441). -/
def execReadLine (k : StackNo) (s : State) : Answer := .next (s.on (fun d => d.diagReadLine k))

/-- TEST_PAGES (R441). -/
def execTestPages (k : StackNo) (bad : List Nat) (s : State) : Answer := .next (s.on (fun d => d.diagTest k bad))

end Sys2Proof.Machine
end

