-- ==== Sys2Proof/Machine/ExecForward.lean ====
section
/-! DEFINITION. Slot arbitration, hoppers, parser, stages, deparser and the table engines: the meaning of each row of this family. Every meaning answers a next state. -/
namespace Sys2Proof.Machine

/-- ISA_GRANT (R31). -/
def execIsaGrant (sl : SliceNo) (p : PipeNo) (s : State) : Answer := .next (s.on (fun d => d.isaGrantRow sl p))

/-- HOPPER_ADMIT (R148). -/
def execHopperAdmit (n : LportNo) (s : State) : Answer := .next (s.on (fun d => d.hopAdmit n))

/-- HOPPER_SEGMENT (R147). -/
def execHopperSegment (n : LportNo) (s : State) : Answer := .next (s.on (fun d => d.hopperSegment n))

/-- DROP_REM (R151). -/
def execDropRem (h : HostNo) (q : HopperNo) (sub : Fin 8) (s : State) : Answer := .next (s.on (fun d =>
  d.hostReg h R.HOP_CMD q (0x100 + sub)))

/-- PARSE (R164). -/
def execParse (sl : SliceNo) (p : PipeNo) (s : State) : Answer := .next (s.on (fun d => d.parse sl p))

/-- STAGE_PASS (R264). -/
def execStagePass (egress : Bool) (id : Nat) (s : State) : Answer := .next (s.on (fun d => d.stagePassed egress id))

/-- DEPARSE (R276). -/
def execDeparse (egress : Bool) (id : Nat) (s : State) : Answer := .next (s.on (fun d => d.deparse egress id))

/-- COUNT_BYTES_DEFERRED (R644). -/
def execCountBytesDeferred (egress : Bool) (id : Nat) (s : State) : Answer := .next (s.on (fun d => d.countDeferred egress id))

/-- READ_CTR (R289). -/
def execReadCtr (sl : SliceNo) (s : State) : Answer := .next (s.on (fun d => d.stgCmd sl 1))

/-- READ_CLEAR_CTR (R289). -/
def execReadClearCtr (sl : SliceNo) (s : State) : Answer := .next (s.on (fun d => d.stgCmd sl 2))

/-- READ_REG (R289). -/
def execReadReg (sl : SliceNo) (s : State) : Answer := .next (s.on (fun d => d.stgCmd sl 3))

/-- WRITE_REG (R289). -/
def execWriteReg (sl : SliceNo) (s : State) : Answer := .next (s.on (fun d => d.stgCmd sl 4))

/-- WRITE_MEMBER (R283). -/
def execWriteMember (s : State) : Answer := .next (s.on (fun d => d.rplCmd 1))

/-- READ_MEMBER (R290). -/
def execReadMember (s : State) : Answer := .next (s.on (fun d => d.rplCmd 2))

/-- SET_LIST (R283). -/
def execSetList (s : State) : Answer := .next (s.on (fun d => d.rplCmd 3))

/-- READ_LIST (R290). -/
def execReadList (s : State) : Answer := .next (s.on (fun d => d.rplCmd 4))

/-- BLT_ADD (R193). -/
def execBltAdd (sl : SliceNo) (s : State) : Answer := .next (s.on (fun d => d.bltCmd sl 1))

/-- BLT_DELETE (R194). -/
def execBltDelete (sl : SliceNo) (s : State) : Answer := .next (s.on (fun d => d.bltCmd sl 2))

/-- BLT_READ (R204). -/
def execBltRead (sl : SliceNo) (s : State) : Answer := .next (s.on (fun d => d.bltCmd sl 3))

/-- BLT_SEARCH (R209). -/
def execBltSearch (sl : SliceNo) (s : State) : Answer := .next (s.on (fun d => d.bltCmd sl 4))

/-- SEARCH_NEXT (R209). -/
def execSearchNext (sl : SliceNo) (s : State) : Answer := .next (s.on (fun d => d.bltCmd sl 5))

/-- BLT_SCRUB_CHECK (R190). -/
def execBltScrubCheck (sl : SliceNo) (s : State) : Answer := .next (s.on (fun d => d.bltScrub sl))

/-- BLT_SWEEP_VISIT (R196). -/
def execBltSweepVisit (sl : SliceNo) (s : State) : Answer := .next (s.on (fun d => d.bltSweepVisit sl))

/-- BLT_SWEEP_DONE (R196). -/
def execBltSweepDone (sl : SliceNo) (s : State) : Answer := .next (s.on (fun d => d.bltSweepDone sl))

/-- TBL_ADD (R229). -/
def execTblAdd (sl : SliceNo) (s : State) : Answer := .next (s.on (fun d => d.tblCmd sl 1 []))

/-- TBL_DELETE (R224). -/
def execTblDelete (sl : SliceNo) (s : State) : Answer := .next (s.on (fun d => d.tblCmd sl 2 []))

/-- REPLACE (R226). -/
def execTblReplace (sl : SliceNo) (s : State) : Answer := .next (s.on (fun d => d.tblCmd sl 3 []))

/-- TBL_READ (R252). -/
def execTblRead (sl : SliceNo) (s : State) : Answer := .next (s.on (fun d => d.tblCmd sl 4 []))

/-- LOOKUP (R252). -/
def execTblLookup (sl : SliceNo) (s : State) : Answer := .next (s.on (fun d => d.tblCmd sl 5 []))

/-- READ_SLOT (R252). -/
def execReadSlot (sl : SliceNo) (s : State) : Answer := .next (s.on (fun d => d.tblCmd sl 6 []))

/-- FLUSH_LEARNED (R252). -/
def execFlushLearned (f : FlushRun) (s : State) : Answer :=
  .next (s.on (fun d => d.tblCmd f.sl 7 (f.during.map (·.toNat))))

/-- STAT (R252). -/
def execTblStat (sl : SliceNo) (s : State) : Answer := .next (s.on (fun d => d.tblCmd sl 8 []))

/-- LEARN_EXECUTE (R242). -/
def execLearnExecute (sl : SliceNo) (s : State) : Answer := .next (s.on (fun d => d.learnExecute sl))

/-- TBL_SWEEP_DONE (R227). -/
def execTblSweepDone (sl : SliceNo) (s : State) : Answer := .next (s.on (fun d => d.tblSweepDone sl))

/-- AGEING_PASS (R245). -/
def execAgeingPass (sl : SliceNo) (s : State) : Answer := .next (s.on (fun d => d.ageingPass sl))

end Sys2Proof.Machine
end

