-- ==== Sys2Proof/Machine/ExecHealth.lean ====
section
/-! DEFINITION. Errors, statistics and performance counters: the meaning of each row of this family. Every meaning answers a next state. -/
namespace Sys2Proof.Machine

/-- ERROR_REPORT (R575, R576). -/
def execErrorReport (cls : BitVec 8) (unit : BitVec 16) (loc : Word) (ue : Bool) (more : ReportMore) (s : State) : Answer :=
  .next (s.on (fun d => d.errorReports ((⟨cls, unit, loc, ue, more.inj⟩ :: more.others).map (fun x =>
    ⟨x.cls.toNat, x.unit.toNat, x.loc.toNat, x.ue, x.inj⟩))))

/-- SPARE_REMAP (R579). -/
def execSpareRemap (s : State) : Answer := .next (s.on (fun d => d.spareRemap))

/-- INJ_ARM (R574). -/
def execInjArm (h : HostNo) (s : State) : Answer := .next (s.on (fun d => d.hostReg h R.ERR_INJ_CMD 0 1))

/-- INJ_CANCEL (R601). -/
def execInjCancel (h : HostNo) (s : State) : Answer := .next (s.on (fun d => d.hostReg h R.ERR_INJ_CMD 0 2))

/-- ERROR_INJECT (R574). -/
def execErrorInject (loc : Word) (s : State) : Answer := .next (s.on (fun d => d.errorInject loc.toNat))

/-- SPARE_GO (R581). -/
def execSpareGo (h : HostNo) (s : State) : Answer := .next (s.on (fun d => d.hostReg h R.ERR_SPARE_CMD 0 1))

/-- ERR_LOG_READ (R601). -/
def execErrLogRead (h : HostNo) (s : State) : Answer := .next (s.on (fun d => d.hostGet h (R.ERR_LOG_W0.addr 0) none))

/-- STAT_BOUNDARY (R584). -/
def execStatBoundary (s : State) : Answer := .next (s.on (fun d => d.statBoundary))

/-- STAT_CONFIG_WRITE (R587). -/
def execStatConfigWrite (h : HostNo) (which : Fin 4) (v : Word) (s : State) : Answer := .next (s.on (fun d =>
  d.statConfigPut h which v.toNat))

/-- PMC_SAMPLE (R592). -/
def execPmcSample (sl : SliceNo) (s : State) : Answer := .next (s.on (fun d => d.pmcSample sl))

/-- PMS_READ (R593). -/
def execPmsRead (h : HostNo) (sl : SliceNo) (s : State) : Answer := .next (s.on (fun d => d.hostGet h (R.PMS_W0.addr sl) none))

/-- PERF_FREEZE (R594). -/
def execPerfFreeze (h : HostNo) (sched : Bool) (s : State) : Answer := .next (s.on (fun d =>
  d.hostReg h R.PERF_CMD 0 (1 + b2n sched * 256)))

/-- PERF_UNFREEZE (R594). -/
def execPerfUnfreeze (h : HostNo) (sched : Bool) (s : State) : Answer := .next (s.on (fun d =>
  d.hostReg h R.PERF_CMD 0 (2 + b2n sched * 256)))

/-- SNAPSHOT (R594). -/
def execSnapshot (h : HostNo) (sched : Bool) (s : State) : Answer := .next (s.on (fun d =>
  d.hostReg h R.PERF_CMD 0 (3 + b2n sched * 256)))

/-- PERF_ACTION (R594). -/
def execPerfAction (s : State) : Answer := .next (s.on (fun d => d.perfAction))

end Sys2Proof.Machine
end

