-- ==== Sys2Proof/Machine/ExecHostSide.lean ====
section
/-! DEFINITION. Leases, rings, DMA and the Amiler engine: the meaning of each row of this family. Every meaning answers a next state. -/
namespace Sys2Proof.Machine

/-- ACQUIRE (R502). -/
def execLeaseAcquire (h : HostNo) (n : LeaseNo) (term : BitVec 16) (s : State) : Answer := .next (s.on (fun d =>
  d.hostReg h R.HPL_LEASE_CMD h (n + 0x100 + term.toNat * 65536)))

/-- RELEASE (R502). -/
def execLeaseRelease (h : HostNo) (n : LeaseNo) (s : State) : Answer := .next (s.on (fun d =>
  d.hostReg h R.HPL_LEASE_CMD h (n + 0x200)))

/-- LEASE_EXPIRE (R504). -/
def execLeaseExpire (n : LeaseNo) (s : State) : Answer := .next (s.on (fun d => d.leaseExpire n))

/-- PORT_RESET (R500). -/
def execPortReset (h : HostNo) (linkDown : Bool) (s : State) : Answer := .next (s.on (fun d => d.portReset h linkDown))

/-- RING_RECORD_POST (R509). -/
def execRingRecordPost (pcieErr : Bool) (s : State) : Answer := .next (s.on (fun d => d.recordPost pcieErr))

/-- MSIX_RAISE (R514). -/
def execMsixRaise (h : HostNo) (r : RingNo) (s : State) : Answer := .next (s.on (fun d => d.ringRaise h r))

/-- RING_CONS_WRITE (R514). -/
def execRingConsWrite (h : HostNo) (r : RingNo) (v : Word) (s : State) : Answer := .next (s.on (fun d =>
  d.hostReg h (ringConsReg r) (ringAt h r) v.toNat))

/-- RING_ENABLE (R517). -/
def execRingEnable (h : HostNo) (r : RingNo) (v : Word) (s : State) : Answer := .next (s.on (fun d =>
  d.hostReg h (ringCtrlReg r) (ringAt h r) (v.toNat ||| 0x100)))

/-- PUNT_WRITE (R519). -/
def execPuntWrite (h : HostNo) (pcieErr : Bool) (s : State) : Answer := .next (s.on (fun d => d.puntWrite h pcieErr))

/-- INJECT_DESCRIPTOR (R520). -/
def execInjectDescriptor (h : HostNo) (pcieErr : Bool) (s : State) : Answer := .next (s.on (fun d => d.injectDescriptor h pcieErr))

/-- READ_BLOCK (R522). -/
def execReadBlock (h : HostNo) (fail : Option Nat) (s : State) : Answer := .next (s.on (fun d => d.readBlock h fail))

/-- WRITE_BLOCK (R522). -/
def execWriteBlock (h : HostNo) (fail : Option Nat) (s : State) : Answer := .next (s.on (fun d => d.writeBlock h fail))

/-- PROGRAM (R522). -/
def execProgram (h : HostNo) (fail : Bool) (s : State) : Answer := .next (s.on (fun d => d.programRow h fail))

/-- AMILER_REQUEST (R528). -/
def execAmilerRequest (s : State) : Answer := .next (s.on (fun d => d.amilerRequest))

/-- AML_WRITE (R526). -/
def execAmlWrite (s : State) : Answer := .next (s.on (fun d => d.amlWrite))

/-- AML_READ (R526). -/
def execAmlRead (s : State) : Answer := .next (s.on (fun d => d.amlRead))

/-- AML_WAIT (R526). -/
def execAmlWait (s : State) : Answer := .next (s.on (fun d => d.amlWaitRow))

/-- AML_READ64 (R526). -/
def execAmlRead64 (s : State) : Answer := .next (s.on (fun d => d.amlRead64))

/-- LOAD (R530). -/
def execAmlKeyLoad (h : HostNo) (s : State) : Answer := .next (s.on (fun d => d.hostReg h R.HPL_AML_KEY_CTRL h 1))

/-- KEY_CLEAR (R530). -/
def execAmlKeyClear (h : HostNo) (s : State) : Answer := .next (s.on (fun d => d.hostReg h R.HPL_AML_KEY_CTRL h 2))

/-- GO (R531). -/
def execOobGo (h : HostNo) (s : State) : Answer := .next (s.on (fun d => d.hostReg h R.HPL_AML_OOB_CMD h 1))

end Sys2Proof.Machine
end

