-- ==== Sys2Proof/Machine/ExecLoading.lean ====
section
/-! DEFINITION. The loader, the rule versions and the fuses: the meaning of each row of this family. Every meaning answers a next state. -/
namespace Sys2Proof.Machine

/-- LOADER_CLAIM (R63). -/
def execLoaderClaim (h : HostNo) (s : State) : Answer := .next (s.on (fun d => d.hostReg h R.IMG_OWNER 0 h))

/-- LOADER_RELEASE (R93). -/
def execLoaderRelease (h : HostNo) (s : State) : Answer := .next (s.on (fun d => d.hostReg h R.IMG_OWNER 0 (2 ^ 31 + h)))

/-- BEGIN (R72). -/
def execImgBegin (h : HostNo) (s : State) : Answer := .next (s.on (fun d => d.hostReg h R.IMG_CMD 0 1))

/-- ABORT (R72). -/
def execImgAbort (h : HostNo) (s : State) : Answer := .next (s.on (fun d => d.hostReg h R.IMG_CMD 0 4))

/-- ARM (R78). -/
def execImgArm (h : HostNo) (s : State) : Answer := .next (s.on (fun d => d.hostReg h R.IMG_CMD 0 2))

/-- CLEAR (R72). -/
def execImgClear (h : HostNo) (s : State) : Answer := .next (s.on (fun d => d.hostReg h R.IMG_CMD 0 8))

/-- FORCE_RETIRE (R86). -/
def execImgForceRetire (h : HostNo) (s : State) : Answer := .next (s.on (fun d => d.hostReg h R.IMG_CMD 0 16))

/-- IMAGE_WRITE (R67). -/
def execImageWrite (h : HostNo) (off : BitVec 26) (bs : List Byte) (s : State) : Answer := .next (s.on (fun d =>
  d.imageWrite h off.toNat bs))

/-- LOAD_VERIFY (R68). -/
def execLoadVerify (s : State) : Answer := .next (s.on (fun d => d.loadVerify))

/-- STAGED_BANK_ERROR (R69). -/
def execStagedBankError (cls : BitVec 8) (unit : BitVec 16) (loc : Word) (s : State) : Answer := .next (s.on (fun d =>
  d.stagedError cls.toNat unit.toNat loc.toNat))

/-- ACTIVATION (R77). -/
def execActivation (s : State) : Answer := .next (s.on (fun d => d.activate))

/-- EPOCH_RETIRE (R85). -/
def execEpochRetire (s : State) : Answer := .next (s.on (fun d => d.epochRetire))

/-- DRAIN_SLOW (R86). -/
def execDrainSlow (s : State) : Answer := .next (s.on (fun d => d.drainSlow))

/-- ARB_AUTO_ADVANCE (R105). -/
def execArbAutoAdvance (s : State) : Answer := .next (s.on (fun d => d.arbAdvance))

/-- COMMIT (R88). -/
def execVerCommit (h : HostNo) (s : State) : Answer := .next (s.on (fun d => d.hostReg h R.VER_CMD 0 1))

/-- VERSION_FORCE_RETIRE (R91). -/
def execVersionForceRetire (h : HostNo) (s : State) : Answer := .next (s.on (fun d => d.hostReg h R.VER_CMD 0 2))

/-- VERSION_RETIRE (R91). -/
def execVersionRetire (s : State) : Answer := .next (s.on (fun d => d.versionRetire))

/-- VERSION_DRAIN_SLOW (R91). -/
def execVersionDrainSlow (s : State) : Answer := .next (s.on (fun d => d.verSlow))

/-- FUSE_ARB_WRITE (R100). -/
def execFuseArbWrite (h : HostNo) (v : Word) (s : State) : Answer := .next (s.on (fun d => d.hostReg h R.FUSE_ARB 0 v.toNat))

/-- FUSE_LANE_MAP_WRITE (R116). -/
def execFuseLaneMapWrite (h : HostNo) (v : Word) (s : State) : Answer := .next (s.on (fun d =>
  d.hostReg h R.FUSE_LANE_MAP 0 v.toNat))

/-- FUSE_BOOT_POLICY_WRITE (R100). -/
def execFuseBootPolicyWrite (h : HostNo) (v : Word) (s : State) : Answer := .next (s.on (fun d =>
  d.hostReg h R.FUSE_BOOT_POLICY 0 v.toNat))

/-- ENROL (R101). -/
def execEnrol (h : HostNo) (slot : Fin 4) (s : State) : Answer := .next (s.on (fun d =>
  d.hostReg h R.FUSE_KEY_CMD 0 (0x100 + slot)))

/-- REVOKE (R101). -/
def execRevoke (h : HostNo) (slot : Fin 4) (s : State) : Answer := .next (s.on (fun d =>
  d.hostReg h R.FUSE_KEY_CMD 0 (0x200 + slot)))

/-- FUSE_CHANGE_DONE (R97). -/
def execFuseChangeDone (s : State) : Answer := .next (s.on (fun d => d.fuseDone))

end Sys2Proof.Machine
end

