-- ==== Sys2Proof/Machine/ExecOptics.lean ====
section
/-! DEFINITION. Ports and optical engines: the meaning of each row of this family. Every meaning answers a next state. -/
namespace Sys2Proof.Machine

/-- LMAP_SAVE (R115). -/
def execLmapSave (h : HostNo) (k : EngineNo) (s : State) : Answer := .next (s.on (fun d => d.hostReg h R.OE_LMAP_CMD k 1))

/-- LMAP_SAVE_DONE (R115). -/
def execLmapSaveDone (k : EngineNo) (failed : Bool) (s : State) : Answer := .next (s.on (fun d => d.lmapSaveDone k failed))

/-- PORT_DISABLE (R117). -/
def execPortDisable (n : LportNo) (s : State) : Answer := .next (s.on (fun d => d.portDisable n))

/-- PORT_LIGHT (R117). -/
def execPortLight (n : LportNo) (s : State) : Answer := .next (s.on (fun d => d.portLightRow n))

/-- SOURCES_STABLE (R117). -/
def execSourcesStable (n : LportNo) (s : State) : Answer := .next (s.on (fun d => d.sourcesStable n))

/-- PCS_ALIGNED (R117). -/
def execPcsAligned (r : PcsReport) (s : State) : Answer := .next (s.on (fun d =>
  d.pcsAligned r.n r.signal.toNat r.cdr.toNat r.deskewed))

/-- ALIGNMENT_LOST (R117). -/
def execAlignmentLost (n : LportNo) (lanes : LaneSignals) (s : State) : Answer := .next (s.on (fun d =>
  d.alignmentLost n lanes.signal.toNat lanes.cdr.toNat))

/-- REMOTE_FAULT (R117). -/
def execRemoteFault (n : LportNo) (on : Bool) (s : State) : Answer := .next (s.on (fun d => d.remoteFault n on))

/-- UP_DELAY_EXPIRE (R117). -/
def execUpDelayExpire (n : LportNo) (s : State) : Answer := .next (s.on (fun d => d.upDelay n))

/-- GLITCH (R117). -/
def execGlitch (n : LportNo) (s : State) : Answer := .next (s.on (fun d => d.glitch n))

/-- DOWN_DELAY_EXPIRE (R117). -/
def execDownDelayExpire (n : LportNo) (s : State) : Answer := .next (s.on (fun d => d.downExpire n))

/-- FEC_DEG_WINDOW (R125). -/
def execFecDegWindow (n : LportNo) (cw : Nat) (corr : Nat) (uncorr : Nat) (syms : List Nat) (s : State) : Answer := .next (s.on (fun d =>
  d.fecWindow n cw corr uncorr syms))

/-- RX_FRAME (R126). -/
def execRxFrame (n : LportNo) (bs : List Byte) (fecUncorr : Bool) (s : State) : Answer := .next (s.on (fun d =>
  d.rxFrame n bs fecUncorr))

/-- SOURCE_DARK (R128). -/
def execSourceDark (k : EngineNo) (j : Fin 8) (s : State) : Answer := .next (s.on (fun d => d.sourceDark k j))

/-- SOURCE_MONITOR_SAMPLE (R129). -/
def execSourceMonitorSample (k : EngineNo) (j : Fin 8) (bias : BitVec 16) (power : BitVec 16) (s : State) : Answer := .next (s.on (fun d =>
  d.monitorSample k j bias.toNat power.toNat))

/-- FAILOVER_START (R130). -/
def execFailoverStart (k : EngineNo) (s : State) : Answer := .next (s.on (fun d => d.failoverStart k))

/-- FAILOVER_POWER_CHECK (R130). -/
def execFailoverPowerCheck (k : EngineNo) (power : BitVec 16) (s : State) : Answer := .next (s.on (fun d =>
  (d.failoverCheck k power.toNat).pfcDueSent))

/-- FAILOVER_SWITCH (R130). -/
def execFailoverSwitch (k : EngineNo) (s : State) : Answer := .next (s.on (fun d => (d.failoverSwitch k).pfcDueSent))

/-- TO_SPARE (R132). -/
def execToSpare (h : HostNo) (k : EngineNo) (j : Fin 8) (s : State) : Answer := .next (s.on (fun d =>
  d.hostReg h R.OE_FAILOVER_CMD k (0x100 + j)))

/-- TO_PRIMARY (R132). -/
def execToPrimary (h : HostNo) (k : EngineNo) (j : Fin 8) (s : State) : Answer := .next (s.on (fun d =>
  d.hostReg h R.OE_FAILOVER_CMD k (0x200 + j)))

/-- SOURCE_ABRUPT_FAIL (R131). -/
def execSourceAbruptFail (k : EngineNo) (p : SourcePower) (s : State) : Answer := .next (s.on (fun d =>
  d.abruptFail k p.j p.power.toNat))

/-- LIT_SECONDS_SAVE (R134). -/
def execLitSecondsSave (k : EngineNo) (s : State) : Answer := .next (s.on (fun d => d.litSave k))

/-- OE_OVERTEMP (R135). -/
def execOeOvertemp (k : EngineNo) (t : BitVec 12) (s : State) : Answer := .next (s.on (fun d => d.oeTemp k t.toNat))

/-- OE_OVERTEMP_CLEAR (R135). -/
def execOeOvertempClear (k : EngineNo) (t : BitVec 12) (s : State) : Answer := .next (s.on (fun d => d.oeTemp k t.toNat))

/-- FRAME_TRANSMIT (R387). -/
def execFrameTransmit (cid : Nat) (s : State) : Answer := .next (s.on (fun d => d.frameTransmit cid))

/-- TS_FIFO_READ (R140). -/
def execTsFifoRead (h : HostNo) (n : LportNo) (s : State) : Answer := .next (s.on (fun d =>
  d.hostGet h (R.LP_TSFIFO_W0.addr n) none))

end Sys2Proof.Machine
end

