-- ==== Sys2Proof/Machine/ExecQueueing.lean ====
section
/-! DEFINITION. Shapers, policers, gates and flow control: the meaning of each row of this family. Every meaning answers a next state. -/
namespace Sys2Proof.Machine

/-- SHAPER_REFILL (R466). -/
def execShaperRefill (s : State) : Answer := .next (s.on (fun d => d.shaperRefill))

/-- WRITE (R476). -/
def execGovWrite (sl : SliceNo) (s : State) : Answer := .next (s.on (fun d => d.govCmd sl 1))

/-- READ (R475). -/
def execGovRead (sl : SliceNo) (s : State) : Answer := .next (s.on (fun d => d.govCmd sl 2))

/-- READ_STATS (R476). -/
def execGovReadStats (sl : SliceNo) (s : State) : Answer := .next (s.on (fun d => d.govCmd sl 3))

/-- READ_CLEAR_STATS (R476). -/
def execGovReadClearStats (sl : SliceNo) (s : State) : Answer := .next (s.on (fun d => d.govCmd sl 4))

/-- RESET_BUCKETS (R476). -/
def execGovResetBuckets (sl : SliceNo) (s : State) : Answer := .next (s.on (fun d => d.govCmd sl 5))

/-- CONFIG_CHANGE (R480). -/
def execConfigChange (h : HostNo) (n : LportNo) (s : State) : Answer := .next (s.on (fun d => d.hostReg h R.SLU_CMD n 1))

/-- CANCEL (R480). -/
def execGateCancel (h : HostNo) (n : LportNo) (s : State) : Answer := .next (s.on (fun d => d.hostReg h R.SLU_CMD n 2))

/-- GATE_LIST_CHANGE (R481). -/
def execGateListChange (n : LportNo) (s : State) : Answer := .next (s.on (fun d => d.gateChange n))

/-- GATE_ENTRY_BOUNDARY (R482). -/
def execGateEntryBoundary (n : LportNo) (s : State) : Answer := .next (s.on (fun d => d.gateBoundary n))

/-- OVERSIZE_DISCARD (R484). -/
def execOversizeDiscard (q : QueueNo) (b : Fin 64) (s : State) : Answer := .next (s.on (fun d => d.oversizeDiscard q b))

/-- PFC_FRAME_RX (R486). -/
def execPfcFrameRx (s : State) : Answer := .next (s.on (fun d => d.pfcRxOne))

/-- PAUSE_TIMER_EXPIRE (R487). -/
def execPauseTimerExpire (n : LportNo) (prio : Fin 8) (s : State) : Answer := .next (s.on (fun d => d.pauseExpire n prio))

/-- PFC_REFRESH (R488). -/
def execPfcRefresh (n : LportNo) (prio : Fin 8) (s : State) : Answer := .next (s.on (fun d => d.pfcRefresh n prio))

end Sys2Proof.Machine
end

