-- ==== Sys2Proof/Machine/ExecSystem.lean ====
section
/-! DEFINITION. Power, sleep, resets, time and the side interfaces: the meaning of each row of this family. Every meaning answers a next state. -/
namespace Sys2Proof.Machine

/-- SLICE_SLEEP_ENTRY (R535). -/
def execSliceSleepEntry (sl : SliceNo) (s : State) : Answer := .next (s.on (fun d => d.sleepEntry sl))

/-- SLICE_ASLEEP (R535). -/
def execSliceAsleep (sl : SliceNo) (s : State) : Answer := .next (s.on (fun d => d.sliceAsleep sl))

/-- SLICE_WAKE (R538). -/
def execSliceWake (sl : SliceNo) (s : State) : Answer := .next (s.on (fun d => d.sliceWake sl))

/-- SLICE_WAKE_DONE (R538). -/
def execSliceWakeDone (sl : SliceNo) (s : State) : Answer := .next (s.on (fun d => d.sliceWakeDoneRow sl))

/-- FAN_HOLD_WRITE (R541). -/
def execFanHoldWrite (h : HostNo) (v : Word) (s : State) : Answer := .next (s.on (fun d => d.hostReg h R.FAN_HOLD 0 v.toNat))

/-- MAC_DOMAIN_STOP (R542). -/
def execMacDomainStop (sl : SliceNo) (s : State) : Answer := .next (s.on (fun d => d.macStop sl))

/-- FABRIC_SLEEP (R543). -/
def execFabricSleep (s : State) : Answer := .next (s.on (fun d => d.fabricSleep))

/-- FABRIC_WAKE (R543). -/
def execFabricWake (s : State) : Answer := .next (s.on (fun d => d.fabricWakeRow))

/-- INPUT_QUALIFIED (R545). -/
def execInputQualified (s : State) : Answer := .next (s.on (fun d => d.inputQualified))

/-- POWER_ON (R545). -/
def execPowerOn (w : Option HostNo) (high : Bool) (s : State) : Answer := .next (s.on (fun d =>
  d.powerOnCmd (w.map (fun h => h.val)) high))

/-- SHUTDOWN (R549). -/
def execShutdown (w : Option HostNo) (s : State) : Answer := .next (s.on (fun d =>
  d.senderReg (w.map (fun h => h.val)) R.FAN_CMD 0x5AFE0002))

/-- SHUTDOWN_DONE (R549). -/
def execShutdownDone (s : State) : Answer := .next (s.on (fun d => d.shutdownDone))

/-- RAILS_GOOD (R546). -/
def execRailsGood (s : State) : Answer := .next (s.on (fun d => d.railsGood))

/-- STARTUP_DONE (R546). -/
def execStartupDone (s : State) : Answer := .next (s.on (fun d => d.startupDone))

/-- BROWNOUT (R550). -/
def execBrownout (hot : Bool) (s : State) : Answer := .next (s.on (fun d => d.brownout hot))

/-- TEMP_SAMPLE (R551). -/
def execTempSample (k : Fin 9) (t : BitVec 12) (s : State) : Answer := .next (s.on (fun d => d.tempSample k t.toNat))

/-- POWER_ON_RESET (R553). -/
def execPowerOnReset (s : State) : Answer := .next (s.on (fun d => d.powerOnReset))

/-- WARM (R554). -/
def execWarm (w : Option HostNo) (s : State) : Answer := .next (s.on (fun d =>
  d.senderReg (w.map (fun h => h.val)) R.RST_CMD 0x5AFE0001))

/-- COLD (R554). -/
def execCold (w : Option HostNo) (s : State) : Answer := .next (s.on (fun d =>
  d.senderReg (w.map (fun h => h.val)) R.RST_CMD 0x5AFE0002))

/-- WARM_RESET_DONE (R555). -/
def execWarmResetDone (s : State) : Answer := .next (s.on (fun d => d.warmDone))

/-- DEFERRED_RESET_START (R557). -/
def execDeferredResetStart (s : State) : Answer := .next (s.on (fun d => d.deferredReset))

/-- PERST_DEASSERT (R547). -/
def execPerstDeassert (h : HostNo) (width : BitVec 4) (speed : BitVec 4) (cfg : HostSettings) (s : State) : Answer := .next (s.on (fun d =>
  d.perstDeassert h width.toNat speed.toNat cfg.bme cfg.mps))

/-- SET (R560). -/
def execTimeSet (h : HostNo) (s : State) : Answer := .next (s.on (fun d => d.hostReg h R.TIME_CMD 0 1))

/-- STEP (R560). -/
def execTimeStep (h : HostNo) (s : State) : Answer := .next (s.on (fun d => d.hostReg h R.TIME_CMD 0 2))

/-- REF_LOST (R561). -/
def execRefLost (s : State) : Answer := .next (s.on (fun d => d.refLost))

/-- REF_RELOCK (R561). -/
def execRefRelock (s : State) : Answer := .next (s.on (fun d => d.refRelock))

/-- PPS_IN_EDGE (R562). -/
def execPpsInEdge (s : State) : Answer := .next (s.on (fun d => d.ppsIn))

/-- PPS_OUT_RISE (R562). -/
def execPpsOutRise (s : State) : Answer := .next (s.on (fun d => d.ppsRise))

/-- PPS_OUT_FALL (R562). -/
def execPpsOutFall (s : State) : Answer := .next (s.on (fun d => d.ppsFall))

/-- I3C_PRIVATE_WRITE (R563). -/
def execI3cPrivateWrite (off : Word) (v : Option Word) (s : State) : Answer := .next (s.on (fun d =>
  d.i3cWrite off.toNat (v.map (fun x => x.toNat))))

/-- I3C_PRIVATE_READ (R563). -/
def execI3cPrivateRead (n : Nat) (s : State) : Answer := .next (s.on (fun d => d.i3cRead n))

/-- ENTDAA (R563). -/
def execEntdaa (addr : BitVec 7) (s : State) : Answer := .next (s.on (fun d => d.entdaa addr.toNat))

/-- BYPASS (R565). -/
def execJtagBypass (s : State) : Answer := .next (s.on (fun d => d.jtagBypass))

/-- IDCODE (R565). -/
def execJtagIdcode (s : State) : Answer := .next (s.on (fun d => d.jtagIdcode))

/-- SAMPLE_PRELOAD (R565). -/
def execJtagSample (data : DWord) (s : State) : Answer := .next (s.on (fun d => d.jtagSample data.toNat))

/-- EXTEST (R565). -/
def execJtagExtest (data : DWord) (s : State) : Answer := .next (s.on (fun d => d.jtagExtest data.toNat))

/-- STANDBY_RAIL_LOSS (R626). -/
def execStandbyRailLoss (s : State) : Answer := .next (s.on (fun d => d.railLoss))

/-- TIME_NOW_NS_READ (R569). -/
def execTimeNowNsRead (h : HostNo) (s : State) : Answer := .next (s.on (fun d => d.hostGet h (R.TIME_NOW_NS.addr 0) none))

/-- TIME_PPS_IN_NS_READ (R569). -/
def execTimePpsInNsRead (h : HostNo) (s : State) : Answer := .next (s.on (fun d => d.hostGet h (R.TIME_PPS_IN_NS.addr 0) none))

end Sys2Proof.Machine
end

