-- ==== Sys2Proof/Machine/Dispatch.lean ====
section
/-! DEFINITION. The one arm of each command: a direct call of its meaning. -/
namespace Sys2Proof.Machine

/-- What a command does to everything but the queue. -/
def exec (i : Instr) (s : State) : Host.Outcome State Fault Refusal :=
  match i with
  | .registerWrite h a v hw => Sys2Proof.Machine.execRegisterWrite h a v hw s
  | .badAccess h a size write v => Sys2Proof.Machine.execBadAccess h a size write v s
  | .rcRead h a upd => Sys2Proof.Machine.execRcRead h a upd s
  | .counterLowRead h a => Sys2Proof.Machine.execCounterLowRead h a s
  | .stoppedDomainAccess h a write v => Sys2Proof.Machine.execStoppedDomainAccess h a write v s
  | .isaGrant sl p => Sys2Proof.Machine.execIsaGrant sl p s
  | .loaderClaim h => Sys2Proof.Machine.execLoaderClaim h s
  | .loaderRelease h => Sys2Proof.Machine.execLoaderRelease h s
  | .imgBegin h => Sys2Proof.Machine.execImgBegin h s
  | .imgAbort h => Sys2Proof.Machine.execImgAbort h s
  | .imgArm h => Sys2Proof.Machine.execImgArm h s
  | .imgClear h => Sys2Proof.Machine.execImgClear h s
  | .imgForceRetire h => Sys2Proof.Machine.execImgForceRetire h s
  | .imageWrite h off bs => Sys2Proof.Machine.execImageWrite h off bs s
  | .loadVerify => Sys2Proof.Machine.execLoadVerify s
  | .stagedBankError cls unit loc => Sys2Proof.Machine.execStagedBankError cls unit loc s
  | .activation => Sys2Proof.Machine.execActivation s
  | .epochRetire => Sys2Proof.Machine.execEpochRetire s
  | .drainSlow => Sys2Proof.Machine.execDrainSlow s
  | .arbAutoAdvance => Sys2Proof.Machine.execArbAutoAdvance s
  | .verCommit h => Sys2Proof.Machine.execVerCommit h s
  | .versionForceRetire h => Sys2Proof.Machine.execVersionForceRetire h s
  | .versionRetire => Sys2Proof.Machine.execVersionRetire s
  | .versionDrainSlow => Sys2Proof.Machine.execVersionDrainSlow s
  | .fuseArbWrite h v => Sys2Proof.Machine.execFuseArbWrite h v s
  | .fuseLaneMapWrite h v => Sys2Proof.Machine.execFuseLaneMapWrite h v s
  | .fuseBootPolicyWrite h v => Sys2Proof.Machine.execFuseBootPolicyWrite h v s
  | .enrol h slot => Sys2Proof.Machine.execEnrol h slot s
  | .revoke h slot => Sys2Proof.Machine.execRevoke h slot s
  | .fuseChangeDone => Sys2Proof.Machine.execFuseChangeDone s
  | .lmapSave h k => Sys2Proof.Machine.execLmapSave h k s
  | .lmapSaveDone k failed => Sys2Proof.Machine.execLmapSaveDone k failed s
  | .portDisable n => Sys2Proof.Machine.execPortDisable n s
  | .portLight n => Sys2Proof.Machine.execPortLight n s
  | .sourcesStable n => Sys2Proof.Machine.execSourcesStable n s
  | .pcsAligned r => Sys2Proof.Machine.execPcsAligned r s
  | .alignmentLost n lanes => Sys2Proof.Machine.execAlignmentLost n lanes s
  | .remoteFault n on => Sys2Proof.Machine.execRemoteFault n on s
  | .upDelayExpire n => Sys2Proof.Machine.execUpDelayExpire n s
  | .glitch n => Sys2Proof.Machine.execGlitch n s
  | .downDelayExpire n => Sys2Proof.Machine.execDownDelayExpire n s
  | .fecDegWindow n cw corr uncorr syms => Sys2Proof.Machine.execFecDegWindow n cw corr uncorr syms s
  | .rxFrame n bs fecUncorr => Sys2Proof.Machine.execRxFrame n bs fecUncorr s
  | .sourceDark k j => Sys2Proof.Machine.execSourceDark k j s
  | .sourceMonitorSample k j bias power => Sys2Proof.Machine.execSourceMonitorSample k j bias power s
  | .failoverStart k => Sys2Proof.Machine.execFailoverStart k s
  | .failoverPowerCheck k power => Sys2Proof.Machine.execFailoverPowerCheck k power s
  | .failoverSwitch k => Sys2Proof.Machine.execFailoverSwitch k s
  | .toSpare h k j => Sys2Proof.Machine.execToSpare h k j s
  | .toPrimary h k j => Sys2Proof.Machine.execToPrimary h k j s
  | .sourceAbruptFail k p => Sys2Proof.Machine.execSourceAbruptFail k p s
  | .litSecondsSave k => Sys2Proof.Machine.execLitSecondsSave k s
  | .oeOvertemp k t => Sys2Proof.Machine.execOeOvertemp k t s
  | .oeOvertempClear k t => Sys2Proof.Machine.execOeOvertempClear k t s
  | .frameTransmit cid => Sys2Proof.Machine.execFrameTransmit cid s
  | .tsFifoRead h n => Sys2Proof.Machine.execTsFifoRead h n s
  | .hopperAdmit n => Sys2Proof.Machine.execHopperAdmit n s
  | .hopperSegment n => Sys2Proof.Machine.execHopperSegment n s
  | .dropRem h q sub => Sys2Proof.Machine.execDropRem h q sub s
  | .parse sl p => Sys2Proof.Machine.execParse sl p s
  | .stagePass egress id => Sys2Proof.Machine.execStagePass egress id s
  | .deparse egress id => Sys2Proof.Machine.execDeparse egress id s
  | .countBytesDeferred egress id => Sys2Proof.Machine.execCountBytesDeferred egress id s
  | .readCtr sl => Sys2Proof.Machine.execReadCtr sl s
  | .readClearCtr sl => Sys2Proof.Machine.execReadClearCtr sl s
  | .readReg sl => Sys2Proof.Machine.execReadReg sl s
  | .writeReg sl => Sys2Proof.Machine.execWriteReg sl s
  | .writeMember => Sys2Proof.Machine.execWriteMember s
  | .readMember => Sys2Proof.Machine.execReadMember s
  | .setList => Sys2Proof.Machine.execSetList s
  | .readList => Sys2Proof.Machine.execReadList s
  | .bltAdd sl => Sys2Proof.Machine.execBltAdd sl s
  | .bltDelete sl => Sys2Proof.Machine.execBltDelete sl s
  | .bltRead sl => Sys2Proof.Machine.execBltRead sl s
  | .bltSearch sl => Sys2Proof.Machine.execBltSearch sl s
  | .searchNext sl => Sys2Proof.Machine.execSearchNext sl s
  | .bltScrubCheck sl => Sys2Proof.Machine.execBltScrubCheck sl s
  | .bltSweepVisit sl => Sys2Proof.Machine.execBltSweepVisit sl s
  | .bltSweepDone sl => Sys2Proof.Machine.execBltSweepDone sl s
  | .tblAdd sl => Sys2Proof.Machine.execTblAdd sl s
  | .tblDelete sl => Sys2Proof.Machine.execTblDelete sl s
  | .tblReplace sl => Sys2Proof.Machine.execTblReplace sl s
  | .tblRead sl => Sys2Proof.Machine.execTblRead sl s
  | .tblLookup sl => Sys2Proof.Machine.execTblLookup sl s
  | .readSlot sl => Sys2Proof.Machine.execReadSlot sl s
  | .flushLearned f => Sys2Proof.Machine.execFlushLearned f s
  | .tblStat sl => Sys2Proof.Machine.execTblStat sl s
  | .learnExecute sl => Sys2Proof.Machine.execLearnExecute sl s
  | .tblSweepDone sl => Sys2Proof.Machine.execTblSweepDone sl s
  | .ageingPass sl => Sys2Proof.Machine.execAgeingPass sl s
  | .steerToChannel fid => Sys2Proof.Machine.execSteerToChannel fid s
  | .messageDeliver sl c => Sys2Proof.Machine.execMessageDeliver sl c s
  | .blockedCommit sl t => Sys2Proof.Machine.execBlockedCommit sl t s
  | .shareAllocate sl t => Sys2Proof.Machine.execShareAllocate sl t s
  | .waitSatisfied sl t => Sys2Proof.Machine.execWaitSatisfied sl t s
  | .fldDataArrive sl t => Sys2Proof.Machine.execFldDataArrive sl t s
  | .aeTimerExpire sl t => Sys2Proof.Machine.execAeTimerExpire sl t s
  | .aeNop sl t => Sys2Proof.Machine.execAeNop sl t s
  | .aeMov sl t => Sys2Proof.Machine.execAeMov sl t s
  | .aeAdd sl t => Sys2Proof.Machine.execAeAdd sl t s
  | .aeSub sl t => Sys2Proof.Machine.execAeSub sl t s
  | .aeAnd sl t => Sys2Proof.Machine.execAeAnd sl t s
  | .aeOr sl t => Sys2Proof.Machine.execAeOr sl t s
  | .aeXor sl t => Sys2Proof.Machine.execAeXor sl t s
  | .aeShl sl t => Sys2Proof.Machine.execAeShl sl t s
  | .aeShr sl t => Sys2Proof.Machine.execAeShr sl t s
  | .aeSar sl t => Sys2Proof.Machine.execAeSar sl t s
  | .aeCmp sl t => Sys2Proof.Machine.execAeCmp sl t s
  | .aeMul sl t => Sys2Proof.Machine.execAeMul sl t s
  | .aeBfx sl t => Sys2Proof.Machine.execAeBfx sl t s
  | .aeBfi sl t => Sys2Proof.Machine.execAeBfi sl t s
  | .aeBr sl t => Sys2Proof.Machine.execAeBr sl t s
  | .aeCall sl t => Sys2Proof.Machine.execAeCall sl t s
  | .aeRet sl t => Sys2Proof.Machine.execAeRet sl t s
  | .aeBrx sl t => Sys2Proof.Machine.execAeBrx sl t s
  | .aeYield sl t => Sys2Proof.Machine.execAeYield sl t s
  | .aeLd sl t => Sys2Proof.Machine.execAeLd sl t s
  | .aeSt sl t => Sys2Proof.Machine.execAeSt sl t s
  | .aeAtom sl t => Sys2Proof.Machine.execAeAtom sl t s
  | .aeChrd sl t => Sys2Proof.Machine.execAeChrd sl t s
  | .aeChrdnb sl t => Sys2Proof.Machine.execAeChrdnb sl t s
  | .aeChwr sl t => Sys2Proof.Machine.execAeChwr sl t s
  | .aeChsend sl t => Sys2Proof.Machine.execAeChsend sl t s
  | .aeChdisc sl t => Sys2Proof.Machine.execAeChdisc sl t s
  | .aeFld sl t => Sys2Proof.Machine.execAeFld sl t s
  | .aeFst sl t => Sys2Proof.Machine.execAeFst sl t s
  | .aeFalloc sl t => Sys2Proof.Machine.execAeFalloc sl t s
  | .aeFsend sl t => Sys2Proof.Machine.execAeFsend sl t s
  | .aeFlen sl t => Sys2Proof.Machine.execAeFlen sl t s
  | .aeCalloc sl t => Sys2Proof.Machine.execAeCalloc sl t s
  | .aeCfree sl t => Sys2Proof.Machine.execAeCfree sl t s
  | .aeWait sl t => Sys2Proof.Machine.execAeWait sl t s
  | .aeTmr sl t => Sys2Proof.Machine.execAeTmr sl t s
  | .aeSignal sl t => Sys2Proof.Machine.execAeSignal sl t s
  | .aeTctlStop sl t => Sys2Proof.Machine.execAeTctlStop sl t s
  | .aeTctlResume sl t => Sys2Proof.Machine.execAeTctlResume sl t s
  | .aeTctlRestart sl t => Sys2Proof.Machine.execAeTctlRestart sl t s
  | .aeTctlDisable sl t => Sys2Proof.Machine.execAeTctlDisable sl t s
  | .aeTctlDiscardStaged sl t => Sys2Proof.Machine.execAeTctlDiscardStaged sl t s
  | .aeTctlReadState sl t => Sys2Proof.Machine.execAeTctlReadState sl t s
  | .aeMfts sl t => Sys2Proof.Machine.execAeMfts sl t s
  | .aeMtts sl t => Sys2Proof.Machine.execAeMtts sl t s
  | .aeTret sl t => Sys2Proof.Machine.execAeTret sl t s
  | .aeSwtrap sl t => Sys2Proof.Machine.execAeSwtrap sl t s
  | .aeMmrd sl t => Sys2Proof.Machine.execAeMmrd sl t s
  | .aeMmwr sl t => Sys2Proof.Machine.execAeMmwr sl t s
  | .aeTime sl t => Sys2Proof.Machine.execAeTime sl t s
  | .thrStop h sl t => Sys2Proof.Machine.execThrStop h sl t s
  | .thrResume h sl t => Sys2Proof.Machine.execThrResume h sl t s
  | .thrStep h sl t => Sys2Proof.Machine.execThrStep h sl t s
  | .thrRestart h sl t => Sys2Proof.Machine.execThrRestart h sl t s
  | .thrDisable h sl t => Sys2Proof.Machine.execThrDisable h sl t s
  | .thrDiscardStaged h sl t => Sys2Proof.Machine.execThrDiscardStaged h sl t s
  | .thrSignal h sl t => Sys2Proof.Machine.execThrSignal h sl t s
  | .breakpointStop sl t => Sys2Proof.Machine.execBreakpointStop sl t s
  | .debugWrite h sl v => Sys2Proof.Machine.execDebugWrite h sl v s
  | .stalledWriter sl t => Sys2Proof.Machine.execStalledWriter sl t s
  | .watchdog sl e => Sys2Proof.Machine.execWatchdog sl e s
  | .millerStall sl => Sys2Proof.Machine.execMillerStall sl s
  | .forcedMove sl t => Sys2Proof.Machine.execForcedMove sl t s
  | .channelCfgUpdate sl c => Sys2Proof.Machine.execChannelCfgUpdate sl c s
  | .stageWord sl => Sys2Proof.Machine.execStageWord sl s
  | .patchCommit sl => Sys2Proof.Machine.execPatchCommit sl s
  | .patchClearAll sl => Sys2Proof.Machine.execPatchClearAll sl s
  | .patchReadWord sl => Sys2Proof.Machine.execPatchReadWord sl s
  | .unstageAll sl => Sys2Proof.Machine.execUnstageAll sl s
  | .patchInstall sl => Sys2Proof.Machine.execPatchInstall sl s
  | .guardTimeout sl => Sys2Proof.Machine.execGuardTimeout sl s
  | .cellReceive outbound sl plane crcFail => Sys2Proof.Machine.execCellReceive outbound sl plane crcFail s
  | .rsqRelease outbound sl p => Sys2Proof.Machine.execRsqRelease outbound sl p s
  | .gapTimeout outbound sl p => Sys2Proof.Machine.execGapTimeout outbound sl p s
  | .contextTimeout outbound sl p ctx => Sys2Proof.Machine.execContextTimeout outbound sl p ctx s
  | .headRelease sl p => Sys2Proof.Machine.execHeadRelease sl p s
  | .frameAdmit => Sys2Proof.Machine.execFrameAdmit s
  | .cellAdmit => Sys2Proof.Machine.execCellAdmit s
  | .cellFree => Sys2Proof.Machine.execCellFree s
  | .agerVisit q => Sys2Proof.Machine.execAgerVisit q s
  | .copyStart sl p => Sys2Proof.Machine.execCopyStart sl p s
  | .bpmAlloc => Sys2Proof.Machine.execBpmAlloc s
  | .bpmReadState => Sys2Proof.Machine.execBpmReadState s
  | .setAtomic => Sys2Proof.Machine.execSetAtomic s
  | .clearAtomic => Sys2Proof.Machine.execClearAtomic s
  | .readAtomic => Sys2Proof.Machine.execReadAtomic s
  | .bpmFree => Sys2Proof.Machine.execBpmFree s
  | .spillWriteDone w => Sys2Proof.Machine.execSpillWriteDone w s
  | .fillEvaluate sl => Sys2Proof.Machine.execFillEvaluate sl s
  | .fillReadDone cid => Sys2Proof.Machine.execFillReadDone cid s
  | .hbmPhaseSwitch k => Sys2Proof.Machine.execHbmPhaseSwitch k s
  | .hbmRefresh k pc => Sys2Proof.Machine.execHbmRefresh k pc s
  | .hbmReplay r reread failed => Sys2Proof.Machine.execHbmReplay r reread failed s
  | .hbmScrubRead k => Sys2Proof.Machine.execHbmScrubRead k s
  | .hbmFreeze h k => Sys2Proof.Machine.execHbmFreeze h k s
  | .hbmOvertemp k t => Sys2Proof.Machine.execHbmOvertemp k t s
  | .hbmThaw h k pass => Sys2Proof.Machine.execHbmThaw h k pass s
  | .hbmOffline h k => Sys2Proof.Machine.execHbmOffline h k s
  | .hbmRetrain h k => Sys2Proof.Machine.execHbmRetrain h k s
  | .hbmInitDone k => Sys2Proof.Machine.execHbmInitDone k s
  | .hbmTrainDone k mask reused => Sys2Proof.Machine.execHbmTrainDone k mask reused s
  | .hbmSleepEntry k => Sys2Proof.Machine.execHbmSleepEntry k s
  | .hbmSleepExit k => Sys2Proof.Machine.execHbmSleepExit k s
  | .pageRetire h k page => Sys2Proof.Machine.execPageRetire h k page s
  | .readLine k => Sys2Proof.Machine.execReadLine k s
  | .testPages k bad => Sys2Proof.Machine.execTestPages k bad s
  | .shaperRefill => Sys2Proof.Machine.execShaperRefill s
  | .govWrite sl => Sys2Proof.Machine.execGovWrite sl s
  | .govRead sl => Sys2Proof.Machine.execGovRead sl s
  | .govReadStats sl => Sys2Proof.Machine.execGovReadStats sl s
  | .govReadClearStats sl => Sys2Proof.Machine.execGovReadClearStats sl s
  | .govResetBuckets sl => Sys2Proof.Machine.execGovResetBuckets sl s
  | .configChange h n => Sys2Proof.Machine.execConfigChange h n s
  | .gateCancel h n => Sys2Proof.Machine.execGateCancel h n s
  | .gateListChange n => Sys2Proof.Machine.execGateListChange n s
  | .gateEntryBoundary n => Sys2Proof.Machine.execGateEntryBoundary n s
  | .oversizeDiscard q b => Sys2Proof.Machine.execOversizeDiscard q b s
  | .pfcFrameRx => Sys2Proof.Machine.execPfcFrameRx s
  | .pauseTimerExpire n prio => Sys2Proof.Machine.execPauseTimerExpire n prio s
  | .pfcRefresh n prio => Sys2Proof.Machine.execPfcRefresh n prio s
  | .leaseAcquire h n term => Sys2Proof.Machine.execLeaseAcquire h n term s
  | .leaseRelease h n => Sys2Proof.Machine.execLeaseRelease h n s
  | .leaseExpire n => Sys2Proof.Machine.execLeaseExpire n s
  | .portReset h linkDown => Sys2Proof.Machine.execPortReset h linkDown s
  | .ringRecordPost pcieErr => Sys2Proof.Machine.execRingRecordPost pcieErr s
  | .msixRaise h r => Sys2Proof.Machine.execMsixRaise h r s
  | .ringConsWrite h r v => Sys2Proof.Machine.execRingConsWrite h r v s
  | .ringEnable h r v => Sys2Proof.Machine.execRingEnable h r v s
  | .puntWrite h pcieErr => Sys2Proof.Machine.execPuntWrite h pcieErr s
  | .injectDescriptor h pcieErr => Sys2Proof.Machine.execInjectDescriptor h pcieErr s
  | .readBlock h fail => Sys2Proof.Machine.execReadBlock h fail s
  | .writeBlock h fail => Sys2Proof.Machine.execWriteBlock h fail s
  | .program h fail => Sys2Proof.Machine.execProgram h fail s
  | .amilerRequest => Sys2Proof.Machine.execAmilerRequest s
  | .amlWrite => Sys2Proof.Machine.execAmlWrite s
  | .amlRead => Sys2Proof.Machine.execAmlRead s
  | .amlWait => Sys2Proof.Machine.execAmlWait s
  | .amlRead64 => Sys2Proof.Machine.execAmlRead64 s
  | .amlKeyLoad h => Sys2Proof.Machine.execAmlKeyLoad h s
  | .amlKeyClear h => Sys2Proof.Machine.execAmlKeyClear h s
  | .oobGo h => Sys2Proof.Machine.execOobGo h s
  | .sliceSleepEntry sl => Sys2Proof.Machine.execSliceSleepEntry sl s
  | .sliceAsleep sl => Sys2Proof.Machine.execSliceAsleep sl s
  | .sliceWake sl => Sys2Proof.Machine.execSliceWake sl s
  | .sliceWakeDone sl => Sys2Proof.Machine.execSliceWakeDone sl s
  | .fanHoldWrite h v => Sys2Proof.Machine.execFanHoldWrite h v s
  | .macDomainStop sl => Sys2Proof.Machine.execMacDomainStop sl s
  | .fabricSleep => Sys2Proof.Machine.execFabricSleep s
  | .fabricWake => Sys2Proof.Machine.execFabricWake s
  | .inputQualified => Sys2Proof.Machine.execInputQualified s
  | .powerOn w high => Sys2Proof.Machine.execPowerOn w high s
  | .shutdown w => Sys2Proof.Machine.execShutdown w s
  | .shutdownDone => Sys2Proof.Machine.execShutdownDone s
  | .railsGood => Sys2Proof.Machine.execRailsGood s
  | .startupDone => Sys2Proof.Machine.execStartupDone s
  | .brownout hot => Sys2Proof.Machine.execBrownout hot s
  | .tempSample k t => Sys2Proof.Machine.execTempSample k t s
  | .powerOnReset => Sys2Proof.Machine.execPowerOnReset s
  | .warm w => Sys2Proof.Machine.execWarm w s
  | .cold w => Sys2Proof.Machine.execCold w s
  | .warmResetDone => Sys2Proof.Machine.execWarmResetDone s
  | .deferredResetStart => Sys2Proof.Machine.execDeferredResetStart s
  | .perstDeassert h width speed cfg => Sys2Proof.Machine.execPerstDeassert h width speed cfg s
  | .timeSet h => Sys2Proof.Machine.execTimeSet h s
  | .timeStep h => Sys2Proof.Machine.execTimeStep h s
  | .refLost => Sys2Proof.Machine.execRefLost s
  | .refRelock => Sys2Proof.Machine.execRefRelock s
  | .ppsInEdge => Sys2Proof.Machine.execPpsInEdge s
  | .ppsOutRise => Sys2Proof.Machine.execPpsOutRise s
  | .ppsOutFall => Sys2Proof.Machine.execPpsOutFall s
  | .i3cPrivateWrite off v => Sys2Proof.Machine.execI3cPrivateWrite off v s
  | .i3cPrivateRead n => Sys2Proof.Machine.execI3cPrivateRead n s
  | .entdaa addr => Sys2Proof.Machine.execEntdaa addr s
  | .jtagBypass => Sys2Proof.Machine.execJtagBypass s
  | .jtagIdcode => Sys2Proof.Machine.execJtagIdcode s
  | .jtagSample data => Sys2Proof.Machine.execJtagSample data s
  | .jtagExtest data => Sys2Proof.Machine.execJtagExtest data s
  | .errorReport cls unit loc ue more => Sys2Proof.Machine.execErrorReport cls unit loc ue more s
  | .spareRemap => Sys2Proof.Machine.execSpareRemap s
  | .injArm h => Sys2Proof.Machine.execInjArm h s
  | .injCancel h => Sys2Proof.Machine.execInjCancel h s
  | .errorInject loc => Sys2Proof.Machine.execErrorInject loc s
  | .spareGo h => Sys2Proof.Machine.execSpareGo h s
  | .errLogRead h => Sys2Proof.Machine.execErrLogRead h s
  | .statBoundary => Sys2Proof.Machine.execStatBoundary s
  | .statConfigWrite h which v => Sys2Proof.Machine.execStatConfigWrite h which v s
  | .pmcSample sl => Sys2Proof.Machine.execPmcSample sl s
  | .pmsRead h sl => Sys2Proof.Machine.execPmsRead h sl s
  | .perfFreeze h sched => Sys2Proof.Machine.execPerfFreeze h sched s
  | .perfUnfreeze h sched => Sys2Proof.Machine.execPerfUnfreeze h sched s
  | .snapshot h sched => Sys2Proof.Machine.execSnapshot h sched s
  | .perfAction => Sys2Proof.Machine.execPerfAction s
  | .standbyRailLoss => Sys2Proof.Machine.execStandbyRailLoss s
  | .timeNowNsRead h => Sys2Proof.Machine.execTimeNowNsRead h s
  | .timePpsInNsRead h => Sys2Proof.Machine.execTimePpsInNsRead h s
  | .aeDbgDataLoRead h sl => Sys2Proof.Machine.execAeDbgDataLoRead h sl s

end Sys2Proof.Machine
end

