-- ==== Sys2Proof/Machine/Step.lean ====
section
/-! DEFINITION. One step of the block: the command at the front of the queue, or on an empty queue a nanosecond of time. -/
namespace Sys2Proof.Machine

/-- The front command is taken and run on the state with the rest of the queue. On an empty queue time passes: `Dev.tick`
advances the model's clock by 1 ns, with the counters and the time unit that run with it (DESIGN CHOICE, log 57). -/
def step (s : State) : Host.Outcome State Fault Refusal :=
  match s.pending with
  | [] => .next (s.on (fun d => d.tick))
  | c :: rest => exec c { s with pending := rest }

/-- The state with the command that a word spells put at the front of the queue; unchanged where the word spells none. -/
def State.withFetchWord (s : State) (nbits w : Nat) : State :=
  match Sys2Proof.decodeTableWord nbits w with
  | some c => { s with pending := c :: s.pending }
  | none => s

end Sys2Proof.Machine
end

