-- ==== Sys2Proof/Safety.lean ====
section
/-! DEFINITION. The conditions under which a command has its own effect, and what a run of the block may always be trusted to keep, in the
terms that statements use. -/
namespace Sys2Proof.Machine

/-- The register bank is in canonical form (`SMap.wf`): keys rise and no register at its reset value is listed, so equal banks are
equal data. -/
def Regs.wf (r : Regs) : Bool :=
  SMap.wf 0 r.words && SMap.wf 0 r.wides && SMap.wf 0 r.shadows && SMap.wf 0 r.companions && SMap.wf 0 r.latches

/-- Host port `h` reaches the device: its PCIe link is up and no warm reset runs (R555). -/
abbrev State.linked (s : State) (h : Nat) : Prop := (s.dev.host h).up = true ∧ s.dev.fan.warmRunning = none

/-- Host port `h` reaches the device and owns the loader (R63). -/
abbrev State.loads (s : State) (h : Nat) : Prop := s.linked h ∧ s.dev.loader.held = true ∧ s.dev.loader.owner = h

/-- No memory location of the device holds a wrong or poisoned word, no injection waits and no page table error is being handled, so that no read of a memory reports an
error (R573, R574, R582). -/
abbrev State.noUpsets (s : State) : Prop := s.dev.errs.upsets = [] ∧ s.dev.errs.poisoned = [] ∧ s.dev.errs.armed = false
  ∧ s.dev.errs.tableLost = []

/-- The oldest waiting command of an engine is word `v` of host port `h`, whose OP is `op`; `rest` waits behind it, and no OP among
those is one that the set leaves undefined (R206, R207). -/
abbrev State.queued (s : State) (e : Engine7) (k op h v : Nat) (rest : List (Nat × Nat)) : Prop :=
  s.dev.cmdQ e k = (h, v) :: rest ∧ v % 16 = op ∧ (∀ x ∈ rest, opKnown e (x.2 % 16) = true)

/-- Thread `t` of slice `k` stands at microword `m`: in RUN at a boundary with no breakpoint there, no other thread of its engine has
the slot, no STEP and no interrupt is in force and no memory is in error (R292, R294). -/
def State.standsAt (s : State) (k t : Nat) (m : Mw) : Prop :=
  let x := s.dev.thr k t
  (s.dev.slc k).st = .run ∧ s.dev.atBoundary k t = true ∧ s.dev.breakAt k t = false ∧ s.dev.slotTaken k t = false ∧ s.noUpsets
  ∧ mwOf (s.dev.mwAt k x.epoch x.pc) = m ∧ x.stepping = false ∧ x.timerIrq = false ∧ x.sigIrq = false

/-- Thread `t` of slice `k` is about to issue microword `m`: it stands there, the reserved bits are 0 and the predicate holds (R295, R296). -/
def State.issues (s : State) (k t : Nat) (m : Mw) : Prop :=
  s.standsAt k t m ∧ m.rsv = 0 ∧ m.pred < 14 ∧ predHolds (s.dev.thr k t) m.pred = true

/-- What two devices share whose arrays differ in thread `t` of slice `k` alone: every other thread, the channels, the scratch
memories, the frames and the buffer. -/
def Dev.sameBut (d d' : Dev) (k t : Nat) : Prop :=
  (∀ j, j ≠ k * 256 + t → SMap.get {} d'.ae.threads j = SMap.get {} d.ae.threads j)
  ∧ d'.ae.chans = d.ae.chans ∧ d'.ae.scratch = d.ae.scratch ∧ d'.frames = d.frames ∧ d'.buf = d.buf

/-- The value of general register `r` of a thread; g0 is 0. -/
def Thread.reg (x : Thread) (r : Nat) : Nat := if r = 0 then 0 else (SMap.get 0 x.regs r).toNat

/-- A thread's registers with `v` in register `r`; g0 takes nothing. -/
def Thread.regsWith (x : Thread) (r v : Nat) : SMap DWord := if r = 0 then x.regs else SMap.set 0 x.regs r (BitVec.ofNat 64 v)

/-- A sound fuse block: a change is in progress exactly while BUSY is 1; its STARTED record is then the last of the log, with the kind
that its whole record will have and neither values nor COMPLETE, and an advance of FUSE_ARB under way does not lower it (R97, R100). -/
def Fuses.sound (f : Fuses) : Prop :=
  f.busy = f.job.isSome
  ∧ ∀ r, f.job = some r → ∃ old w0, f.log = old ++ [⟨w0, 0, 0, 0, []⟩] ∧ w0 < 2 ^ 14 ∧ r.w0 = w0 + 2 ^ 14 ∧ (r.kind = 3 → fuseVal f 3 ≤ r.w1)

end Sys2Proof.Machine
end

