-- ==== Sys2Proof/WellFormed.lean ====
section
/-! DEFINITION. Which commands a sender may send: the checks that the operands' types do not make. A command that is not
well-formed still has its meaning; no rule of the spec gives it a place. -/
namespace Sys2Proof

/-- A 4-byte access is naturally aligned (R6); one that is not is a BAD_ACCESS. -/
def Offset.word (a : Offset) : Bool := decide (a.toNat % 4 = 0)

/-- The checks on a command's operands. -/
def Instr.wellFormed : Instr → Bool
  | .registerWrite _ a _ _ => a.word
  | .rcRead _ a _ => a.word
  | .counterLowRead _ a => decide (a.toNat % 8 = 0)
  | .stoppedDomainAccess _ a _ _ => a.word
  | .imageWrite _ off bs =>
    -- R66: a multiple of 4 bytes at a 4-byte address, up to the largest payload, 512 bytes, inside the aperture
    decide (off.toNat % 4 = 0) && decide (bs.length % 4 = 0) && decide (0 < bs.length) && decide (bs.length ≤ 512)
      && decide (off.toNat + bs.length ≤ 2 ^ 26)
  | .fecDegWindow _ _ _ _ syms => decide (syms.length ≤ 8)
  | .testPages _ bad => bad.all (fun p => decide (p < 2 ^ 20))
  | .perstDeassert _ width speed _ => decide (0 < width.toNat) && decide (0 < speed.toNat)
  | .i3cPrivateRead n => decide (0 < n)
  | _ => true

end Sys2Proof
end

