-- ==== Sys2Proof/Certificates/Slice0/Obligations.lean ====
section
/-! DEFINITION. The statements for the provers: what each command does, whole-machine rules, and what every step keeps. -/
open Sys2Proof Sys2Proof.Machine

/-- For every command c, queue rest and state s whose queue is c followed by rest: a step of s is exec of c on s with the queue rest. With an empty queue the step lets one nanosecond pass and the queue stays empty. The queue is the model's (log 1), and so is the tick (log 57). -/
def Obligations.StepRunsFront : Prop :=
  ∀ (c : Instr) (rest : List Instr) (s : State), (s.pending = c :: rest → step s = exec c { s with pending := rest })
    ∧ (s.pending = [] → ∃ t, step s = .next t ∧ t.pending = [] ∧ t.dev.now = s.dev.now + 1)

/-- LOADER_CLAIM of a linked host port: while HELD is 0 the loader is held by it and nothing else changes; while any host port holds it nothing changes. LOADER_RELEASE of the owner with no load, staged or armed image clears HELD and changes nothing else; of a host port that does not hold the loader it changes nothing. With an image in LOADING, STAGED or ARMED the release also ends the load in FAILED with ERROR ABORTED. For every linked host port that does not hold the loader, claimed by another or by none: BEGIN, ABORT, ARM, CLEAR, FORCE_RETIRE and a whole IMAGE_WRITE change nothing but HPL_BAD_ACCESSES of that host port, which gains 1. -/
def Obligations.TheLoaderIsClaimedAndItsOwnersAlone : Prop :=
  (
    ∀ (h : HostNo) (s : State), s.linked h →
      (s.dev.loader.held = false →
        exec (.loaderClaim h) s = .next (s.on (fun d => { d with loader := { d.loader with held := true, owner := h } })))
      ∧ (s.dev.loader.held = true → exec (.loaderClaim h) s = .next s)
      ∧ (s.dev.loader.held = false ∨ s.dev.loader.owner ≠ h → exec (.loaderRelease h) s = .next s)
      ∧ (s.loads h → s.dev.loader.st ≠ .loading → s.dev.loader.st ≠ .staged → s.dev.loader.st ≠ .armed →
        exec (.loaderRelease h) s = .next (s.on (fun d => { d with loader := { d.loader with held := false } })))
      ∧ (s.loads h → s.dev.loader.st = .loading ∨ s.dev.loader.st = .staged ∨ s.dev.loader.st = .armed →
        ∃ t, exec (.loaderRelease h) s = .next t ∧ t.pending = s.pending
          ∧ t.dev.loader = { s.dev.loader with held := false, st := .failed, err := 0x0D }))
  ∧ (
    ∀ (h : HostNo) (s : State), s.linked h → ¬ (s.dev.loader.held = true ∧ s.dev.loader.owner = h) →
      (∀ c ∈ [Instr.imgBegin h, Instr.imgAbort h, Instr.imgArm h, Instr.imgClear h, Instr.imgForceRetire h],
        exec c s = .next (s.on (fun d => d.inc R.HPL_BAD_ACCESSES h 1)))
      ∧ (∀ (off : BitVec 26) (bs : List Byte), (Instr.imageWrite h off bs).wellFormed = true →
        exec (.imageWrite h off bs) s = .next (s.on (fun d => d.inc R.HPL_BAD_ACCESSES h 1))))

/-- For a linked host port that owns the loader. BEGIN in EMPTY, IDLE or FAILED with the fantail READY: LOADING, no byte received, ERROR NONE; in DRAINING: ERROR BUSY_BANKS, IMG_FAIL_OFFSET 0, LOAD_FAILED, and still DRAINING; in LOADING, STAGED or ARMED, or with the fantail not READY and the loader not DRAINING: only CMD_IGNORED. ARM in STAGED: ARMED with IMG_ACT_TIME sampled; in ARMED before the armed time: sampled again; in ARMED at or past it: only CMD_IGNORED. CLEAR in FAILED: IDLE, or EMPTY when no image runs, ERROR NONE. ABORT in LOADING, STAGED or ARMED: FAILED with ERROR ABORTED and IMG_FAIL_OFFSET the offset reached. FORCE_RETIRE in DRAINING: still DRAINING, with the forced retire in force. ARM in EMPTY, IDLE, LOADING, DRAINING or FAILED, CLEAR in any state but FAILED, ABORT in EMPTY, IDLE, DRAINING or FAILED and FORCE_RETIRE in any state but DRAINING only set CMD_IGNORED. -/
def Obligations.LoaderCommandsMoveTheLoader : Prop :=
  ∀ (h : HostNo) (s : State), s.loads h →
    (s.dev.fan.st = .ready → s.dev.loader.st = .empty ∨ s.dev.loader.st = .idle ∨ s.dev.loader.st = .failed →
      exec (.imgBegin h) s
        = .next (s.on (fun d => { d with loader := { d.loader with st := .loading, err := 0, img := [], lastByteAt := 0 } })))
    ∧ (s.dev.loader.st = .draining →
      exec (.imgBegin h) s
        = .next (s.on (fun d => ({ d with loader := { d.loader with err := 0x0F } }.wr R.IMG_FAIL_OFFSET 0 0).raiseBit R.IMG_EVENTS 0 0)))
    ∧ (s.dev.loader.st = .loading ∨ s.dev.loader.st = .staged ∨ s.dev.loader.st = .armed
        ∨ (s.dev.fan.st ≠ .ready ∧ s.dev.loader.st ≠ .draining) →
      exec (.imgBegin h) s = .next (s.on (fun d => d.raiseBit R.IMG_EVENTS 0 4)))
    ∧ (s.dev.loader.st = .empty ∨ s.dev.loader.st = .idle ∨ s.dev.loader.st = .draining ∨ s.dev.loader.st = .failed →
      exec (.imgAbort h) s = .next (s.on (fun d => d.raiseBit R.IMG_EVENTS 0 4)))
    ∧ (s.dev.loader.st = .staged ∨ (s.dev.loader.st = .armed ∧ s.dev.ns64 < s.dev.loader.armTime) →
      exec (.imgArm h) s
        = .next (s.on (fun d => { d with loader := { d.loader with st := .armed, armTime := d.rd64 R.IMG_ACT_TIME 0 } })))
    ∧ ((s.dev.loader.st = .armed ∧ s.dev.loader.armTime ≤ s.dev.ns64) ∨ (s.dev.loader.st ≠ .armed ∧ s.dev.loader.st ≠ .staged) →
      exec (.imgArm h) s = .next (s.on (fun d => d.raiseBit R.IMG_EVENTS 0 4)))
    ∧ (s.dev.loader.st = .failed →
      exec (.imgClear h) s = .next (s.on (fun d => { d with loader := { d.loader with
        st := if d.epochs.run.isSome then .idle else .empty, err := 0 } })))
    ∧ (s.dev.loader.st ≠ .failed → exec (.imgClear h) s = .next (s.on (fun d => d.raiseBit R.IMG_EVENTS 0 4)))
    ∧ (s.dev.loader.st = .loading ∨ s.dev.loader.st = .staged ∨ s.dev.loader.st = .armed →
      s.dev.loader.img.length < 2 ^ 32 →
      ∃ t, exec (.imgAbort h) s = .next t ∧ t.pending = s.pending ∧ t.dev.loader = { s.dev.loader with st := .failed, err := 0x0D }
        ∧ t.dev.rd R.IMG_FAIL_OFFSET 0 = s.dev.loader.img.length ∧ t.dev.rd R.IMG_EVENTS 0 = s.dev.rd R.IMG_EVENTS 0 ||| 1)
    ∧ (s.dev.loader.st = .draining →
      ∃ t, exec (.imgForceRetire h) s = .next t ∧ t.pending = s.pending ∧ t.dev.loader = { s.dev.loader with force := true })
    ∧ (s.dev.loader.st ≠ .draining → exec (.imgForceRetire h) s = .next (s.on (fun d => d.raiseBit R.IMG_EVENTS 0 4)))

/-- IMAGE_WRITE by the owner of a well-formed write within the negotiated maximum payload size. While not LOADING it changes nothing. While LOADING, its offset in the image is IMG_WIN times 64 MiB plus its offset in the aperture. At the next offset expected, within IMG_LEN once the header has come, and passing the checks of the bytes that have come: the bytes join the image, and the time is noted when the image is complete; nothing else changes. At another offset: FAILED, ERROR OUT_OF_ORDER, IMG_FAIL_OFFSET the offset written, LOAD_FAILED. -/
def Obligations.ImageBytesArriveInOrder : Prop :=
  ∀ (h : HostNo) (off : BitVec 26) (bs : List Byte) (s : State), s.loads h → (Instr.imageWrite h off bs).wellFormed = true →
    bs.length ≤ 128 * 2 ^ (s.dev.host h).mps →
    (s.dev.loader.st ≠ .loading → exec (.imageWrite h off bs) s = .next s) ∧ (s.dev.loader.st = .loading →
    let at_ := s.dev.rd R.IMG_WIN 0 * 0x4000000 + off.toNat
    let img := s.dev.loader.img ++ bs
    (at_ = s.dev.loader.img.length → (128 ≤ img.length → img.length ≤ imgLen img) →
      (128 ≤ s.dev.loader.img.length → img.length ≤ imgLen s.dev.loader.img) → streamErr img at_ bs.length = none →
      exec (.imageWrite h off bs) s = .next (s.on (fun d => { d with loader := { d.loader with
        img := img, lastByteAt := if 128 ≤ img.length ∧ imgLen img = img.length then d.now else d.loader.lastByteAt } })))
    ∧ (at_ ≠ s.dev.loader.img.length → at_ < 2 ^ 32 →
      ∃ t, exec (.imageWrite h off bs) s = .next t ∧ t.pending = s.pending ∧ t.dev.loader = { s.dev.loader with st := .failed, err := 6 }
        ∧ t.dev.rd R.IMG_FAIL_OFFSET 0 = at_ ∧ t.dev.rd R.IMG_EVENTS 0 = s.dev.rd R.IMG_EVENTS 0 ||| 1))

/-- LOAD_VERIFY while LOADING with every byte of the image received. When none of the last checks of R68 fails: STAGED, and the bank that the load writes holds the image, staged. When the first check that fails gives an error and an offset: FAILED with that ERROR and IMG_FAIL_OFFSET, LOAD_FAILED set. In another loader state, or before the last byte, it changes nothing. STAGED_BANK_ERROR while STAGED or ARMED, of a word of a structure memory of the staged bank: FAILED with ERROR MEMORY, IMG_FAIL_OFFSET the image offset of the first payload byte in the word (0, the model's choice of log 10, where no section loads it), LOAD_FAILED set; in another loader state, of another class or of the other bank it changes nothing. Either failure leaves that bank free. Every row leaves the other bank as it was. -/
def Obligations.LoadIsVerifiedOrFails : Prop :=
  ∀ s : State,
    let img := s.dev.loader.img
    let cross := s.dev.crossChecks img
    let other := fun (t : State) => ∀ b, b ≠ s.dev.loadBank → t.dev.bank b = s.dev.bank b
    let freed := fun (t : State) => (t.dev.bank s.dev.loadBank).st = .free
    (s.dev.loader.st = .loading → 128 ≤ img.length → img.length = imgLen img →
      (s.dev.verifyErr img cross.1 = none →
        ∃ t, exec .loadVerify s = .next t ∧ t.pending = s.pending ∧ t.dev.loader = { s.dev.loader with st := .staged }
          ∧ t.dev.bank s.dev.loadBank = { st := .staged, img := img } ∧ other t)
      ∧ (∀ e o, s.dev.verifyErr img cross.1 = some (e, o) → o < 2 ^ 32 →
        ∃ t, exec .loadVerify s = .next t ∧ t.pending = s.pending ∧ t.dev.loader = { s.dev.loader with st := .failed, err := e }
          ∧ t.dev.rd R.IMG_FAIL_OFFSET 0 = o ∧ t.dev.rd R.IMG_EVENTS 0 = s.dev.rd R.IMG_EVENTS 0 ||| 1 ∧ freed t ∧ other t))
    ∧ (s.dev.loader.st ≠ .loading ∨ img.length < 128 ∨ img.length ≠ imgLen img → exec .loadVerify s = .next s)
    ∧ (∀ (cls : BitVec 8) (unit : BitVec 16) (loc : Word),
      let staged := s.dev.loader.st = .staged ∨ s.dev.loader.st = .armed
      (∀ typ sl p n a len, bankedPlace cls.toNat unit.toNat loc.toNat = some (typ, sl, p, n, a, len) →
        staged → fld unit.toNat 4 1 = s.dev.loadBank →
        let o := imageOffsetOf (s.dev.bank s.dev.loadBank).img typ sl p n a len
        o < 2 ^ 32 →
        ∃ t, exec (.stagedBankError cls unit loc) s = .next t ∧ t.pending = s.pending
          ∧ t.dev.loader = { s.dev.loader with st := .failed, err := 0x0E }
          ∧ t.dev.rd R.IMG_FAIL_OFFSET 0 = o ∧ t.dev.rd R.IMG_EVENTS 0 = s.dev.rd R.IMG_EVENTS 0 ||| 1 ∧ freed t ∧ other t)
      ∧ (bankedPlace cls.toNat unit.toNat loc.toNat = none ∨ ¬ staged ∨ fld unit.toNat 4 1 ≠ s.dev.loadBank →
        exec (.stagedBankError cls unit loc) s = .next s))

/-- ACTIVATION while ARMED with the armed time at or before the time unit's reading. With no image running: epoch 0 runs, no epoch is old, the loader is IDLE. With epoch e running: epoch e + 1 modulo 16 runs, e is the old epoch, the loader is DRAINING since now, without a forced retire, and not yet slow; the banks of e drain. In both cases the banks of the new epoch run, and every pipeline of a slice that runs stamps the new epoch and the current version. Before the armed time, or in any other loader state, it changes nothing. -/
def Obligations.ActivationStampsTheNewEpoch : Prop :=
  ∀ s : State,
    (s.dev.loader.st = .armed → s.dev.loader.armTime ≤ s.dev.ns64 →
      ∃ t, exec .activation s = .next t ∧ t.pending = s.pending ∧ t.dev.epochs.old = s.dev.epochs.run
        ∧ t.dev.epochs.run = some (match s.dev.epochs.run with | some e => (e + 1) % 16 | none => 0)
        ∧ t.dev.loader = { s.dev.loader with
            st := if s.dev.epochs.run.isSome then .draining else .idle
            drainSince := s.dev.now, slow := false, force := false, retireWake := false }
        ∧ (∀ e, t.dev.epochs.run = some e → (t.dev.bank (e % 2)).st = .running
          ∧ (∀ (k : SliceNo) (p : Fin 4), (s.dev.slc k).st = .run →
            (t.dev.isa (k.val * 4 + p.val)).epoch = e ∧ (t.dev.isa (k.val * 4 + p.val)).version = s.dev.vers.cur))
        ∧ (∀ e, s.dev.epochs.run = some e → (t.dev.bank (e % 2)).st = .draining))
    ∧ (s.dev.loader.st ≠ .armed ∨ s.dev.ns64 < s.dev.loader.armTime → exec .activation s = .next s)

/-- EPOCH_RETIRE while DRAINING, with epoch o old and e running, no live tag of o, no frame stamped with o on its way to the parser and no cell of its frames in transit, every slice RUN: no epoch is old, e still runs, the bank of o is free and the loader IDLE; while a tag of o is live or such a frame or cell is on its way it changes nothing. DRAIN_SLOW while DRAINING, not yet reported, IMG_DRAIN_LIMIT microseconds after DRAINING began: it is noted and IMG_EVENTS.DRAIN_SLOW is raised, nothing else changes; before that time nothing changes. -/
def Obligations.OldEpochRetiresWhenEmpty : Prop :=
  ∀ s : State,
    (∀ o e, s.dev.loader.st = .draining → s.dev.epochs.old = some o → s.dev.epochs.run = some e →
      (SMap.get 0 s.dev.epochs.live o ≠ 0 ∨ s.dev.inTransit (fun e _ => decide (e = o)) = true
          ∨ s.dev.stamped (fun e _ => decide (e = o)) = true → exec .epochRetire s = .next s)
      ∧ (SMap.get 0 s.dev.epochs.live o = 0 → s.dev.inTransit (fun e _ => decide (e = o)) = false →
        s.dev.stamped (fun e _ => decide (e = o)) = false →
        (∀ k : SliceNo, (s.dev.slc k).st = .run) →
        ∃ t, exec .epochRetire s = .next t ∧ t.pending = s.pending ∧ t.dev.epochs = { s.dev.epochs with old := none }
          ∧ ((t.dev.bank (o % 2)).st = .free) ∧ t.dev.loader.st = .idle ∧ t.dev.loader.force = false))
    ∧ (s.dev.loader.st = .draining → s.dev.loader.slow = false →
      (s.dev.loader.drainSince + s.dev.rd R.IMG_DRAIN_LIMIT 0 * 1000 ≤ s.dev.now →
        exec .drainSlow s
          = .next (s.on (fun d => { d with loader := { d.loader with slow := true } }.raiseBit R.IMG_EVENTS 0 3)))
      ∧ (s.dev.now < s.dev.loader.drainSince + s.dev.rd R.IMG_DRAIN_LIMIT 0 * 1000 → exec .drainSlow s = .next s))

/-- COMMIT of a linked host port with no old version live: the current version plus 1 modulo 65,536 becomes current, the former one old and live, every running pipeline stamps the new one, VER_COMMITS gains 1 and COMMIT_DONE is raised; with an old version live: only COMMIT_PENDING is set. VERSION_FORCE_RETIRE with an old version live: only the forced retire is noted; with none it changes nothing. VERSION_RETIRE with an old version live, none of its tags left, no frame stamped with it on its way to the parser and none of its cells in transit, and no commit pending: no old version is live, the current one stands. VERSION_DRAIN_SLOW, VER_DRAIN_LIMIT microseconds after the commit, not yet reported: it is noted and VER_EVENTS.DRAIN_SLOW raised, nothing else changes. -/
def Obligations.VersionsCommitAndRetire : Prop :=
  ∀ (h : HostNo) (s : State),
    (s.linked h →
      (s.dev.vers.oldLive = false →
        exec (.verCommit h) s = .next (s.on (fun d =>
          (({ d with vers := { d.vers with
              cur := (d.vers.cur + 1) % 65536, old := d.vers.cur, oldLive := true, pending := false, force := false
              drainSince := d.now, slow := false } }.stampAll).inc R.VER_COMMITS 0 1).raiseBit R.VER_EVENTS 0 2)))
      ∧ (s.dev.vers.oldLive = true →
        exec (.verCommit h) s = .next (s.on (fun d => { d with vers := { d.vers with pending := true } }))
        ∧ exec (.versionForceRetire h) s = .next (s.on (fun d => { d with vers := { d.vers with force := true } })))
      ∧ (s.dev.vers.oldLive = false → exec (.versionForceRetire h) s = .next s))
    ∧ (s.dev.vers.oldLive = true → SMap.get 0 s.dev.vers.live s.dev.vers.old = 0 →
      s.dev.inTransit (fun _ v => decide (v = s.dev.vers.old)) = false → s.dev.stamped (fun _ v => decide (v = s.dev.vers.old)) = false →
      s.dev.vers.pending = false →
      ∃ t, exec .versionRetire s = .next t ∧ t.pending = s.pending
        ∧ t.dev.vers = { s.dev.vers with oldLive := false, force := false, slow := false })
    ∧ (s.dev.vers.oldLive = true → s.dev.vers.slow = false →
      s.dev.vers.drainSince + s.dev.rd R.VER_DRAIN_LIMIT 0 * 1000 ≤ s.dev.now →
      exec .versionDrainSlow s
        = .next (s.on (fun d => { d with vers := { d.vers with slow := true } }.raiseBit R.VER_EVENTS 0 1)))

/-- For FUSE_ARB_WRITE (KIND 3), FUSE_LANE_MAP_WRITE (4) and FUSE_BOOT_POLICY_WRITE (5) of a linked host port, with v the bits of the register that the write holds: while BUSY, RESULT is BUSY; else without 48 V, NO_POWER; else for FUSE_ARB below its value, DECREASE; else with the value unchanged, OK; else with no step left, EXHAUSTED; and nothing else changes. Otherwise BUSY is set and the change log gains one record with KIND, HOST and STARTED, the values to follow on completion; no setting changes yet. -/
def Obligations.FuseWritesAreTestedInOrder : Prop :=
  ∀ (h : HostNo) (v : Word) (s : State), s.linked h →
    ∀ c ∈ [(Instr.fuseArbWrite h v, 3, v.toNat &&& 0xFF), (Instr.fuseLaneMapWrite h v, 4, v.toNat &&& 0xFFFF),
        (Instr.fuseBootPolicyWrite h v, 5, v.toNat &&& 0x7)],
      let old := fuseVal s.dev.fuses c.2.1
      let result := fun (r : Nat) => exec c.1 s = .next (s.on (fun d => { d with fuses := { d.fuses with result := r } }))
      (s.dev.fuseBusy = true → result 1)
      ∧ (s.dev.fuseBusy = false → s.dev.fan.inputHigh = false → result 2)
      ∧ (s.dev.fuseBusy = false → s.dev.fan.inputHigh = true →
        (c.2.1 = 3 → c.2.2 < old → result 3)
        ∧ (c.2.2 = old → result 0)
        ∧ (c.2.2 ≠ old → (c.2.1 = 3 → old < c.2.2) →
          (fuseSteps c.2.1 ≤ fuseUsed s.dev.fuses c.2.1 → result 4)
          ∧ (fuseUsed s.dev.fuses c.2.1 < fuseSteps c.2.1 →
            let w0 := c.2.1 + h * 2 ^ 10 + 2 ^ 13
            exec c.1 s = .next (s.on (fun d => { d with fuses := { d.fuses with
              log := d.fuses.log ++ [⟨w0, 0, 0, 0, []⟩], busy := true
              job := some ⟨w0 + 2 ^ 14, c.2.2, old, d.time.secs % 2 ^ 32, []⟩ } })))))

/-- ENROL and REVOKE of a linked host port, not BUSY and with 48 V. ENROL of a slot with a used enrolment or a revoked one: RESULT EXHAUSTED; otherwise a change begins with the staged hash. REVOKE of the only usable slot: LAST_KEY; of another slot whose revocation is used: EXHAUSTED; otherwise a change begins. While BUSY both give BUSY, and without 48 V NO_POWER. A rejected command changes RESULT alone. FUSE_CHANGE_DONE with a change in progress puts its whole record in place of the STARTED one, with RESULT OK and BUSY clear; with none it changes nothing. -/
def Obligations.KeySlotsEnrolAndRevoke : Prop :=
  ∀ (h : HostNo) (k : Fin 4) (s : State),
    let result := fun (c : Instr) (r : Nat) => exec c s = .next (s.on (fun d => { d with fuses := { d.fuses with result := r } }))
    let begins := fun (c : Instr) (kind new old : Nat) (hash : List Byte) =>
      let w0 := kind + k * 2 ^ 8 + h * 2 ^ 10 + 2 ^ 13
      exec c s = .next (s.on (fun d => { d with fuses := { d.fuses with
        log := d.fuses.log ++ [⟨w0, 0, 0, 0, []⟩], busy := true, job := some ⟨w0 + 2 ^ 14, new, old, d.time.secs % 2 ^ 32, hash⟩ } }))
    (s.linked h →
      (s.dev.fuseBusy = true → result (.enrol h k) 1 ∧ result (.revoke h k) 1)
      ∧ (s.dev.fuseBusy = false → s.dev.fan.inputHigh = false → result (.enrol h k) 2 ∧ result (.revoke h k) 2)
      ∧ (s.dev.fuseBusy = false → s.dev.fan.inputHigh = true →
        (keyUsed s.dev.fuses 1 k = true ∨ keyRevoked s.dev.fuses k = true → result (.enrol h k) 4)
        ∧ (keyUsed s.dev.fuses 1 k = false → keyRevoked s.dev.fuses k = false →
          begins (.enrol h k) 1 (leNat (s.dev.keyStaged.take 4)) 0 s.dev.keyStaged)
        ∧ (keyUsable s.dev.fuses k = true → (∀ j : Fin 4, j ≠ k → keyUsable s.dev.fuses j = false) → result (.revoke h k) 5)
        ∧ (keyUsable s.dev.fuses k = false ∨ (∃ j : Fin 4, j ≠ k ∧ keyUsable s.dev.fuses j = true) →
          (keyUsed s.dev.fuses 2 k = true → result (.revoke h k) 4)
          ∧ (keyUsed s.dev.fuses 2 k = false →
            begins (.revoke h k) 2 (fuseKeyCtrl s.dev.fuses ||| 2 ^ (4 + k.val)) (fuseKeyCtrl s.dev.fuses) []))))
    ∧ (∀ r, s.dev.fuses.job = some r →
      exec .fuseChangeDone s = .next (s.on (fun d => { d with fuses := { d.fuses with
        log := d.fuses.log.dropLast ++ [r], busy := false, job := none, result := 0 } })))
    ∧ (s.dev.fuses.job = none → exec .fuseChangeDone s = .next s)

/-- ARB_AUTO_ADVANCE with an advance due and no change in progress: when the running image's SVN does not exceed FUSE_ARB, or without 48 V, the advance is dropped and nothing else changes; with 48 V, when it does and no step is left, ARB_EXHAUSTED is raised; otherwise BUSY is set and the log gains a STARTED record of KIND 3 with AUTO and HOST 0 (the model's choice of log 151). With none due, or a change in progress, it changes nothing. -/
def Obligations.ArbAdvancesAtRetirement : Prop :=
  ∀ s : State,
    let due := { s.dev with loader := { s.dev.loader with arbDue := false } }
    let svn := imgSvn s.dev.runImage
    (s.dev.loader.arbDue = false ∨ s.dev.fuses.busy = true → exec .arbAutoAdvance s = .next s)
    ∧ (s.dev.loader.arbDue = true → s.dev.fuses.busy = false →
      (svn ≤ fuseVal s.dev.fuses 3 ∨ s.dev.fan.inputHigh = false → exec .arbAutoAdvance s = .next { s with dev := due })
      ∧ (s.dev.fan.inputHigh = true → fuseVal s.dev.fuses 3 < svn → 128 ≤ fuseUsed s.dev.fuses 3 →
        exec .arbAutoAdvance s = .next { s with dev := due.raiseBit R.IMG_EVENTS 0 5 })
      ∧ (s.dev.fan.inputHigh = true → fuseVal s.dev.fuses 3 < svn → fuseUsed s.dev.fuses 3 < 128 →
        let w0 := 3 + 2 ^ 12 + 2 ^ 13
        exec .arbAutoAdvance s = .next { s with dev := { due with fuses := { due.fuses with
          log := due.fuses.log ++ [⟨w0, 0, 0, 0, []⟩], busy := true
          job := some ⟨w0 + 2 ^ 14, svn, fuseVal s.dev.fuses 3, due.time.secs % 2 ^ 32, []⟩ } } }))

/-- For every logical port; lanes' status is that of PP_STATUS. PORT_DISABLE of one that is not eligible or whose engine is over temperature: DISABLED; else nothing changes. PORT_LIGHT of a DISABLED, eligible port of a cool engine while the fantail is READY, with a valid lane map: LIGHT, and the slice's MAC domain runs; else its state stays. SOURCES_STABLE in LIGHT with every source it uses lit: ACQUIRE. PCS_ALIGNED with signal and clock recovery on all its lanes, deskewed: ACQUIRE to VERIFY with UP_DELAY started, FAULT keeps with alignment back; else it sets the lanes' status alone. ALIGNMENT_LOST in VERIFY: ACQUIRE; in UP: FAULT with DOWN_DELAY started; a frame being received then, or in FAULT, is cut. REMOTE_FAULT in VERIFY: UP_DELAY restarted, when it begins and when it ends; in UP: FAULT with DOWN_DELAY started. UP_DELAY_EXPIRE in VERIFY without remote fault once UP_DELAY has passed: UP with LINK_UP. GLITCH in FAULT, aligned, without remote fault, before DOWN_DELAY has passed: UP, GLITCH raised and counted. DOWN_DELAY_EXPIRE in FAULT once it has passed: ACQUIRE, LINK_DOWN raised and counted. Where their condition does not hold, SOURCES_STABLE and the last three change nothing. -/
def Obligations.LogicalPortMovesThroughItsStates : Prop :=
  ∀ (n : LportNo) (s : State),
    let d := s.dev
    let x := d.lp n
    let eng := d.eng (engineOf n)
    let p := physOf n
    let valid := if d.portIdle p then lmapOk (d.rd R.PP_LMAP_TX p) && lmapOk (d.rd R.PP_LMAP_RX p) else !(d.pp p).lmapBad
    let mayLight := x.st = .disabled ∧ d.lpEligible n = true ∧ eng.overtemp = false ∧ d.fan.st = .ready ∧ valid = true
    let upOver := x.timer + d.fldOf R.LP_TIMERS n 0 8 * 1000000
    let downOver := x.timer + d.fldOf R.LP_TIMERS n 16 16 * 1000
    (d.lpEligible n = false ∨ eng.overtemp = true → ∃ t, exec (.portDisable n) s = .next t ∧ t.pending = s.pending ∧ (t.dev.lp n).st = .disabled)
    ∧ (d.lpEligible n = true → eng.overtemp = false → exec (.portDisable n) s = .next s)
    ∧ (mayLight → ∃ t, exec (.portLight n) s = .next t ∧ t.pending = s.pending ∧ t.dev.lp n = { x with st := .light }
        ∧ (t.dev.slc (sliceOf n)).macRun = true)
    ∧ (¬ mayLight → ∃ t, exec (.portLight n) s = .next t ∧ t.pending = s.pending ∧ t.dev.lp n = x)
    ∧ (let ready := x.st = .light ∧ ∀ j : Fin 8, d.usesLane n j = true → eng.lit j = true
      (ready → exec (.sourcesStable n) s = .next { s with dev := d.setLp n { x with st := .acquire } })
      ∧ (¬ ready → exec (.sourcesStable n) s = .next s))
    ∧ (∀ (sig cdr : BitVec 8) (skew : Bool),
      let seen := d.laneSees n sig.toNat cdr.toNat
      let all := sig.toNat &&& d.laneMask n = d.laneMask n ∧ cdr.toNat &&& d.laneMask n = d.laneMask n ∧ skew = true
      (all → x.st = .acquire → exec (.pcsAligned ⟨n, sig, cdr, skew⟩) s
        = .next { s with dev := seen.setLp n { x with st := .verify, aligned := true, timer := d.now } })
      ∧ (all → x.st = .fault → exec (.pcsAligned ⟨n, sig, cdr, skew⟩) s = .next { s with dev := seen.setLp n { x with aligned := true } })
      ∧ (¬ all ∨ (x.st ≠ .acquire ∧ x.st ≠ .fault) → exec (.pcsAligned ⟨n, sig, cdr, skew⟩) s = .next { s with dev := seen })
      ∧ (x.st = .verify → exec (.alignmentLost n ⟨sig, cdr⟩) s = .next { s with dev := seen.setLp n { x with st := .acquire, aligned := false } })
      ∧ (x.st = .up → exec (.alignmentLost n ⟨sig, cdr⟩) s
          = .next { s with dev := (seen.setLp n { x with st := .fault, aligned := false, timer := d.now }).rxTruncate n })
      ∧ (x.st = .fault → exec (.alignmentLost n ⟨sig, cdr⟩) s
          = .next { s with dev := (seen.setLp n { x with aligned := false }).rxTruncate n }))
    ∧ (x.st = .verify → exec (.remoteFault n true) s = .next { s with dev := d.setLp n { x with rfRx := true, timer := d.now } }
      ∧ (x.rfRx = true → exec (.remoteFault n false) s = .next { s with dev := d.setLp n { x with rfRx := false, timer := d.now } }))
    ∧ (x.st = .up → exec (.remoteFault n true) s
        = .next { s with dev := d.setLp n { x with rfRx := true, st := .fault, timer := d.now } })
    ∧ (let due := x.st = .verify ∧ x.rfRx = false ∧ upOver ≤ d.now
      (due → exec (.upDelayExpire n) s
        = .next { s with dev := (d.setLp n { x with st := .up, fecStart := d.now, fecSyms := 0 }).raiseBit R.LP_EVENTS n 0 })
      ∧ (¬ due → exec (.upDelayExpire n) s = .next s))
    ∧ (let back := x.st = .fault ∧ x.aligned = true ∧ x.rfRx = false ∧ d.now < downOver
      (back → exec (.glitch n) s
        = .next { s with dev := ((d.setLp n { x with st := .up }).raiseBit R.LP_EVENTS n 2).inc R.LP_GLITCHES n 1 })
      ∧ (¬ back → exec (.glitch n) s = .next s))
    ∧ (let due := x.st = .fault ∧ downOver ≤ d.now
      (due → exec (.downDelayExpire n) s
        = .next { s with dev := ((d.setLp n { x with st := .acquire }).raiseBit R.LP_EVENTS n 1).inc R.LP_LINK_DOWNS n 1 })
      ∧ (¬ due → exec (.downDelayExpire n) s = .next s))

/-- RX_FRAME on a logical port that is UP and not in loopback. Shorter than 64 bytes: only LP_RX_RUNT gains 1. Not a MAC control frame: a new frame of this port joins those of the receive MAC, whole, with its verdict (oversize before FCS error) and its adjusted time of arrival; no counter changes yet. A MAC control frame that is oversize or has an FCS error: only LP_RX_OVERSIZE or LP_RX_FCS_ERR gains 1. A good PFC frame: LP_RX_FRAMES and LP_RX_BYTES count it and it waits, with its time, for the traffic manager. Any other good MAC control frame: only LP_RX_CTRL_DROPS gains 1. On a port that is not UP, or in loopback, nothing changes. FEC_DEG_WINDOW adds its codewords, corrected codewords, uncorrectable codewords and corrected symbols to the port's counters, modulo 2^64. When a window of WINDOW_MS, not 0, ends: at least SET times 1,024 corrected symbols set FEC_DEGRADED and FEC_DEG_SET; fewer than that, and at most CLEAR times 1,024, clear it and set FEC_DEG_CLEAR; otherwise it stands, and the next window begins. Inside a window it stands and the window's symbols are added. With WINDOW_MS 0 it stands, and no window runs. -/
def Obligations.ReceiveMacAndFecWindow : Prop :=
  (
    ∀ (n : LportNo) (bs : List Byte) (bad : Bool) (s : State),
      let d := s.dev
      let verdict := if max 64 (d.fldOf R.LP_CTRL n 16 14) < bs.length then 2 else if bad || !fcsGood bs then 1 else 0
      let ts := adjustTime d.time.secs d.time.ns d.time.frac16 (d.rd R.LP_TS_RX_ADJ n)
      ((d.lp n).st ≠ .up ∨ d.bitOf R.LP_CTRL n 2 = true → exec (.rxFrame n bs bad) s = .next s)
      ∧ ((d.lp n).st = .up → d.bitOf R.LP_CTRL n 2 = false →
        (bs.length < 64 → exec (.rxFrame n bs bad) s = .next { s with dev := d.inc R.LP_RX_RUNT n 1 })
        ∧ (64 ≤ bs.length → beAt bs 12 2 ≠ 0x8808 →
          exec (.rxFrame n bs bad) s = .next { s with dev := { (d.setFrame d.nextFid {
              lport := n, slice := n / 64, pipe := n / 16 % 4, mac := bs, macBad := verdict
              tsSecs := ts.1, tsNs := ts.2.1, tsFrac := ts.2.2, ctx := n % 16 }) with nextFid := d.nextFid + 1 } })
        ∧ (64 ≤ bs.length → beAt bs 12 2 = 0x8808 →
          (verdict = 1 → exec (.rxFrame n bs bad) s = .next { s with dev := d.inc R.LP_RX_FCS_ERR n 1 })
          ∧ (verdict = 2 → exec (.rxFrame n bs bad) s = .next { s with dev := d.inc R.LP_RX_OVERSIZE n 1 })
          ∧ (verdict = 0 → beAt bs 14 2 = 0x0101 → exec (.rxFrame n bs bad) s = .next { s with dev :=
            { ((d.inc R.LP_RX_FRAMES n 1).inc R.LP_RX_BYTES n bs.length) with pfcRx := d.pfcRx ++ [(n.val, bs, d.now)] } })
          ∧ (verdict = 0 → beAt bs 14 2 ≠ 0x0101 → exec (.rxFrame n bs bad) s = .next { s with dev := d.inc R.LP_RX_CTRL_DROPS n 1 }))))
  ∧ (
    ∀ (n : LportNo) (cw corr uncorr : Nat) (syms : List Nat) (s : State),
      let d := s.dev
      let x := d.lp n
      let got := syms.foldl (· + ·) 0
      let total := x.fecSyms + got
      let w := d.fldOf R.LP_FEC_DEG n 0 8
      let ended := w ≠ 0 ∧ x.fecStart + w * 1000000 ≤ d.now
      let set := ended ∧ d.fldOf R.LP_FEC_DEG n 8 12 * 1024 ≤ total
      let clear := ended ∧ ¬ set ∧ total ≤ d.fldOf R.LP_FEC_DEG n 20 12 * 1024
      ∃ t, exec (.fecDegWindow n cw corr uncorr syms) s = .next t ∧ t.pending = s.pending
        ∧ t.dev.rd64 R.LP_FEC_CW n = (d.rd64 R.LP_FEC_CW n + cw) % 2 ^ 64
        ∧ t.dev.rd64 R.LP_FEC_CORR_CW n = (d.rd64 R.LP_FEC_CORR_CW n + corr) % 2 ^ 64
        ∧ t.dev.rd64 R.LP_FEC_UNCORR_CW n = (d.rd64 R.LP_FEC_UNCORR_CW n + uncorr) % 2 ^ 64
        ∧ t.dev.rd64 R.LP_FEC_CORR_SYM n = (d.rd64 R.LP_FEC_CORR_SYM n + got) % 2 ^ 64
        ∧ t.dev.lp n = { x with
            fecSyms := if w = 0 ∨ ended then 0 else total
            fecStart := if w = 0 ∨ ended then d.now else x.fecStart
            fecDegraded := if set then true else if clear then false else x.fecDegraded }
        ∧ t.dev.rd R.LP_EVENTS n = (if set then d.rd R.LP_EVENTS n ||| 8 else if clear then d.rd R.LP_EVENTS n ||| 16 else d.rd R.LP_EVENTS n))

/-- For source j of an engine. SOURCE_MONITOR_SAMPLE of a dark source changes nothing; of a lit one OE_SRC_MON holds the sample, and a power below FAIL then acts as SOURCE_ABRUPT_FAIL. Else a selected spare's sample does no more, and a selected primary's runs of samples above the bias limit and of samples below MIN each grow by one, up to 1,000, or end; when one reaches 1,000 the source is DEGRADED, its event is raised, and with AUTO a failover to a spare not degraded is requested. SOURCE_DARK once its 1 ms has passed and no port uses it: both its lamps are out; while one does, only the timer ends; before, nothing changes. SOURCE_ABRUPT_FAIL with a power below FAIL of a lit selected primary: FAILED, the spare selected and lit, a failover of that source ended, ABRUPT raised and counted; of a lit selected spare: SPARE_DEG and SPARE_DEGRADED; else nothing changes. LIT_SECONDS_SAVE 600 s after the last: the counts are in the engine's memory and the time of the save is noted; before, nothing changes. -/
def Obligations.LaserSourcesAreMonitored : Prop :=
  ∀ (k : EngineNo) (j : Fin 8) (bias power : BitVec 16) (s : State),
    let d := s.dev
    let e := d.eng k
    let fails := power.toNat < d.fldOf R.OE_POWER_MIN k 16 16
    let sample : State := { s with dev := d.wr R.OE_SRC_MON (k * 8 + j) (bias.toNat + power.toNat * 65536) }
    let run := fun (i : Nat) (bad : Prop) [Decidable bad] => if bad then min 1000 (SMap.get 0 e.badSamples i + 1) else 0
    let nb := run j (d.fldOf R.OE_BIAS_LIMIT k 0 16 < bias.toNat)
    let np := run (8 + j) (power.toNat < d.fldOf R.OE_POWER_MIN k 0 16)
    let worn := (nb = 1000 ∧ SMap.get 0 e.badSamples j ≠ 1000) ∨ (np = 1000 ∧ SMap.get 0 e.badSamples (8 + j) ≠ 1000)
    (e.lit j = false → exec (.sourceMonitorSample k j bias power) s = .next s)
    ∧ (e.lit j = false ∨ ¬ fails → exec (.sourceAbruptFail k ⟨j, power⟩) s = .next s)
    ∧ (e.lit j = true → fails → exec (.sourceMonitorSample k j bias power) s = exec (.sourceAbruptFail k ⟨j, power⟩) sample)
    ∧ (e.lit j = true → ¬ fails → bitOn e.spare j = true → exec (.sourceMonitorSample k j bias power) s = .next sample)
    ∧ (e.lit j = true → ¬ fails → bitOn e.spare j = false →
      ∃ t, exec (.sourceMonitorSample k j bias power) s = .next t ∧ t.pending = s.pending
        ∧ t.dev.rd R.OE_SRC_MON (k * 8 + j) = bias.toNat + power.toNat * 65536
        ∧ SMap.get 0 (t.dev.eng k).badSamples j = nb ∧ SMap.get 0 (t.dev.eng k).badSamples (8 + j) = np
        ∧ (t.dev.eng k).degraded = (if worn then bitMaskSet e.degraded j else e.degraded)
        ∧ t.dev.rd R.OE_EVENTS k = (if worn then d.rd R.OE_EVENTS k ||| 4 else d.rd R.OE_EVENTS k)
        ∧ (t.dev.eng k).requests = e.requests
          ++ (if worn ∧ d.bitOf R.OE_FAILOVER_CTRL k 0 = true ∧ bitOn e.spareDeg j = false then [(j.val, true)] else [])
        ∧ ∀ i, i ≠ k.val → t.dev.eng i = d.eng i)
    ∧ (let due := SMap.get 0 e.darkAt j ≠ 0 ∧ SMap.get 0 e.darkAt j ≤ d.now
      (¬ due → exec (.sourceDark k j) s = .next s)
      ∧ (due → d.laneUser k j = true →
        exec (.sourceDark k j) s = .next { s with dev := d.setEng k { e with darkAt := SMap.erase e.darkAt j } })
      ∧ (due → d.laneUser k j = false → ∃ t, exec (.sourceDark k j) s = .next t ∧ t.pending = s.pending
        ∧ (t.dev.eng k).litPri = bitMaskClr e.litPri j ∧ (t.dev.eng k).litSpr = bitMaskClr e.litSpr j))
    ∧ (e.lit j = true → fails → bitOn e.spare j = false →
      ∃ t, exec (.sourceAbruptFail k ⟨j, power⟩) s = .next t ∧ t.pending = s.pending
        ∧ (t.dev.eng k).failed = bitMaskSet e.failed j ∧ (t.dev.eng k).spare = bitMaskSet e.spare j
        ∧ (t.dev.eng k).litPri = bitMaskClr e.litPri j ∧ (t.dev.eng k).litSpr = bitMaskSet e.litSpr j
        ∧ (t.dev.eng k).failover = e.failover.filter (fun f => decide (f.src ≠ j.val))
        ∧ t.dev.rd R.OE_EVENTS k = d.rd R.OE_EVENTS k ||| 2
        ∧ t.dev.rd64 R.OE_ABRUPT_FAILOVERS k = (d.rd64 R.OE_ABRUPT_FAILOVERS k + 1) % 2 ^ 64)
    ∧ (e.lit j = true → fails → bitOn e.spare j = true → exec (.sourceAbruptFail k ⟨j, power⟩) s
      = .next { s with dev := (d.setEng k { e with spareDeg := bitMaskSet e.spareDeg j }).raiseBit R.OE_EVENTS k 3 })
    ∧ (e.lastSave + 600 * 10 ^ 9 ≤ d.now → ∃ t, exec (.litSecondsSave k) s = .next t ∧ t.pending = s.pending
        ∧ (t.dev.eng k).lastSave = d.now
        ∧ ∀ i : Fin 8, SMap.get 0 (t.dev.eng k).savedSecs i = t.dev.rd64 R.OE_PRI_SECS (k * 8 + i)
          ∧ SMap.get 0 (t.dev.eng k).savedSecs (8 + i) = t.dev.rd64 R.OE_SPR_SECS (k * 8 + i))
    ∧ (d.now < e.lastSave + 600 * 10 ^ 9 → exec (.litSecondsSave k) s = .next s)

/-- For an engine and either direction. TO_SPARE and TO_PRIMARY of a linked host port whose MAC domain runs: a request that R132 does not ignore joins the engine's requests; one that it does changes no engine. FAILOVER_START with none under way takes the request at the head: an ignored one goes; of a lit source it begins now, with the new source on; of a dark one the selector moves at once, FAILOVER is raised and OE_FAILOVERS gains 1. With one under way or no request it changes nothing. FAILOVER_POWER_CHECK 500 microseconds after the trigger with enough power: the MACs of the lane, but for DISABLED ports, fall quiet; with less the failover ends with the selector as it was and the new source off (to the primary: the model's choice of log 155), and a spare is SPARE_DEG with its event; earlier the engine stands. FAILOVER_SWITCH of a quiet one: the failover has ended, its selector is on the array asked for, its MACs run, FAILOVER is raised and counted. -/
def Obligations.PlannedFailoverRunsInPhases : Prop :=
  ∀ (h : HostNo) (k : EngineNo) (j : Fin 8) (onSpare : Bool) (power : BitVec 16) (s : State),
    let d := s.dev
    let e := d.eng k
    let touched := d.setSlc (k / 2) { d.slc (k / 2) with macRun := true, macIdleSince := d.now }
    let moved := if onSpare then bitMaskSet e.spare j else bitMaskClr e.spare j
    let counted := fun (t : State) => t.dev.rd R.OE_EVENTS k = d.rd R.OE_EVENTS k ||| 1
      ∧ t.dev.rd64 R.OE_FAILOVERS k = (d.rd64 R.OE_FAILOVERS k + 1) % 2 ^ 64
    let request := if onSpare then Instr.toSpare h k j else Instr.toPrimary h k j
    (s.linked h → (d.slc (k / 2)).macRun = true →
      (e.ignores j onSpare = false → exec request s
        = .next { s with dev := touched.setEng k { e with requests := e.requests ++ [(j.val, onSpare)] } })
      ∧ (e.ignores j onSpare = true → exec request s = .next { s with dev := touched }))
    ∧ (e.failover ≠ none ∨ e.requests = [] → exec (.failoverStart k) s = .next s)
    ∧ (∀ rest, e.failover = none → e.requests = (j.val, onSpare) :: rest →
      (e.ignores j onSpare = true → exec (.failoverStart k) s = .next { s with dev := d.setEng k { e with requests := rest } })
      ∧ (e.ignores j onSpare = false → e.lit j = true → ∃ t, exec (.failoverStart k) s = .next t ∧ t.pending = s.pending
        ∧ (t.dev.eng k).failover = some ⟨j, onSpare, .started, d.now⟩ ∧ (t.dev.eng k).requests = rest ∧ (t.dev.eng k).spare = e.spare
        ∧ (t.dev.eng k).litSpr = (if onSpare then bitMaskSet e.litSpr j else e.litSpr)
        ∧ (t.dev.eng k).litPri = (if onSpare then e.litPri else bitMaskSet e.litPri j))
      ∧ (e.ignores j onSpare = false → e.lit j = false → ∃ t, exec (.failoverStart k) s = .next t ∧ t.pending = s.pending
        ∧ (t.dev.eng k).failover = none ∧ (t.dev.eng k).requests = rest ∧ (t.dev.eng k).spare = moved ∧ counted t))
    ∧ (∀ t0, e.failover = some ⟨j, onSpare, .started, t0⟩ → ∃ t, exec (.failoverPowerCheck k power) s = .next t ∧ t.pending = s.pending
      ∧ (d.now < t0 + 500000 → t.dev.eng k = e)
      ∧ (t0 + 500000 ≤ d.now → d.fldOf R.OE_POWER_MIN k 0 16 ≤ power.toNat →
        t.dev.eng k = { e with failover := some ⟨j, onSpare, .quiet, t0⟩ }
        ∧ ∀ n : LportNo, engineOf n = k.val → d.usesLane n j = true → (d.lp n).st ≠ .disabled → (t.dev.lp n).txQuiet = true)
      ∧ (t0 + 500000 ≤ d.now → power.toNat < d.fldOf R.OE_POWER_MIN k 0 16 →
        (t.dev.eng k).failover = none ∧ (t.dev.eng k).spare = e.spare
        ∧ (onSpare = true → (t.dev.eng k).litSpr = bitMaskClr e.litSpr j ∧ (t.dev.eng k).spareDeg = bitMaskSet e.spareDeg j
          ∧ t.dev.rd R.OE_EVENTS k = d.rd R.OE_EVENTS k ||| 8)
        ∧ (onSpare = false → (t.dev.eng k).litPri = bitMaskClr e.litPri j)))
    ∧ (∀ t0, e.failover = some ⟨j, onSpare, .quiet, t0⟩ →
      ∃ t, exec (.failoverSwitch k) s = .next t ∧ t.pending = s.pending
        ∧ (t.dev.eng k).failover = none ∧ (t.dev.eng k).spare = moved ∧ counted t
        ∧ ∀ n : LportNo, engineOf n = k.val → d.usesLane n j = true → (t.dev.lp n).txQuiet = false)

/-- For an engine. OE_OVERTEMP and OE_OVERTEMP_CLEAR give OE_TEMP a value in eighths of a degree, signed. At 95.0 degrees or above on an engine not yet over temperature: OVERTEMP and its event are set, every source is out and a failover under way has ended; below 90.0: OVERTEMP is clear; else only OE_TEMP changes. LMAP_SAVE of a linked host port whose MAC domain runs: on an unlocked engine with no save running, the save holds the eight lane-map registers; on a locked one LMAP_LOCKED_WRITE is raised; while a save runs it does no more than reach the engine (the model's choice of log 11). LMAP_SAVE_DONE of a save that failed: BUSY is clear and FAILED set, nothing else changes; of one that succeeded the memory holds the eight maps, BUSY and FAILED are clear and LMAP_SAVED is raised; with no save running nothing changes. -/
def Obligations.EngineTemperatureAndLaneMaps : Prop :=
  ∀ (h : HostNo) (k : EngineNo) (temp : BitVec 12) (s : State),
    let d := s.dev
    let e := d.eng k
    let touched := d.setSlc (k / 2) { d.slc (k / 2) with macRun := true, macIdleSince := d.now }
    let maps := (List.range 8).map (fun n => d.rd (if n % 2 = 0 then R.PP_LMAP_TX else R.PP_LMAP_RX) (4 * k + n / 2))
    (∀ c ∈ [Instr.oeOvertemp k temp, Instr.oeOvertempClear k temp],
      (760 ≤ temp.toInt → e.overtemp = false →
        ∃ t, exec c s = .next t ∧ t.pending = s.pending ∧ t.dev.rd R.OE_TEMP k = temp.toNat ∧ (t.dev.eng k).overtemp = true
          ∧ (t.dev.eng k).litPri = 0 ∧ (t.dev.eng k).litSpr = 0 ∧ (t.dev.eng k).failover = none
          ∧ t.dev.rd R.OE_EVENTS k = d.rd R.OE_EVENTS k ||| 16)
      ∧ (720 ≤ temp.toInt → temp.toInt < 760 ∨ e.overtemp = true → exec c s = .next { s with dev := d.wr R.OE_TEMP k temp.toNat })
      ∧ (temp.toInt < 720 → exec c s = .next { s with dev := (d.wr R.OE_TEMP k temp.toNat).setEng k { e with overtemp := false } }))
    ∧ (s.linked h → (d.slc (k / 2)).macRun = true →
      (d.laneLock k = false → e.saving = none → exec (.lmapSave h k) s
        = .next { s with dev := touched.setEng k { e with saving := some maps } })
      ∧ (d.laneLock k = false → e.saving ≠ none → exec (.lmapSave h k) s = .next { s with dev := touched })
      ∧ (d.laneLock k = true → exec (.lmapSave h k) s = .next { s with dev := touched.raiseBit R.OE_EVENTS k 5 }))
    ∧ (∀ failed, e.saving = none → exec (.lmapSaveDone k failed) s = .next s)
    ∧ (∀ vs, e.saving = some vs →
      exec (.lmapSaveDone k true) s = .next { s with dev := d.setEng k { e with saving := none, saveFailed := true } }
      ∧ ∃ t, exec (.lmapSaveDone k false) s = .next t ∧ t.pending = s.pending ∧ (t.dev.eng k).saving = none
        ∧ (t.dev.eng k).saveFailed = false ∧ t.dev.rd R.OE_EVENTS k = d.rd R.OE_EVENTS k ||| 64
        ∧ ∀ n : Fin 8, SMap.get 0xFAC688 (t.dev.eng k).nvMaps n = vs.getD n 0xFAC688)

/-- TS_FIFO_READ of a linked host port on a port whose MAC domain runs. Empty FIFO: the data read are 0 and LP_TSFIFO_W1 to W3 read 0. Otherwise the data are VALID with the head's capture ID, W1 to W3 hold its time, and the head is gone. FRAME_TRANSMIT of a copy that does not exist, has ended or has no head out, with an earlier head before it or a quiet port changes nothing. Else a copy under a forced retire is counted and ends; one of a port that is not UP counts in LP_TX_DOWN_DROPS (for FAULT the model's choice of log 35) and ends; one wholly released, good and not to be stomped: the frame, with its FCS and its timestamp updates, leaves on the wire and counts; wholly released but bad or to be stomped: it leaves stomped and counts as such; not wholly released: it leaves short and stomped, an underrun. -/
def Obligations.TimestampFifoIsReadAndFramesLeave : Prop :=
  ∀ (h : HostNo) (n : LportNo) (cid : Nat) (s : State),
    let d := s.dev
    (s.linked h → (d.slc (n / 64)).macRun = true →
      ((d.lp n).tsFifo = [] → ∃ t, exec (.tsFifoRead h n) s = .next t ∧ t.pending = s.pending ∧ (t.dev.host h).readData = 0
        ∧ t.dev.rd R.LP_TSFIFO_W1 n = 0 ∧ t.dev.rd R.LP_TSFIFO_W2 n = 0 ∧ t.dev.rd R.LP_TSFIFO_W3 n = 0)
      ∧ (∀ e es, (d.lp n).tsFifo = e :: es → ∃ t, exec (.tsFifoRead h n) s = .next t ∧ t.pending = s.pending
        ∧ (t.dev.host h).readData = BitVec.ofNat 64 (2 ^ 31 + e.id % 65536) ∧ (t.dev.lp n).tsFifo = es
        ∧ t.dev.rd R.LP_TSFIFO_W1 n = e.ns % 2 ^ 32 ∧ t.dev.rd R.LP_TSFIFO_W2 n = e.secs % 2 ^ 32
        ∧ t.dev.rd R.LP_TSFIFO_W3 n = e.secs / 2 ^ 32 % 65536 + e.frac % 65536 * 65536))
    ∧ (d.cpy cid = none → exec (.frameTransmit cid) s = .next s)
    ∧ (∀ c, d.cpy cid = some c →
      let lport := c.queue / 16
      let waits := c.headOut = false ∨ c.ended = true ∨ (d.lp lport).txQuiet = true ∨ d.earlierHead cid c = true
      (waits → exec (.frameTransmit cid) s = .next s)
      ∧ (¬ waits → (∀ ctr, d.egressForced c = some ctr → exec (.frameTransmit cid) s = .next { s with dev := (d.inc ctr 0 1).copyEnd cid })
        ∧ (d.egressForced c = none → (d.lp lport).st ≠ .up →
          exec (.frameTransmit cid) s = .next { s with dev := (d.inc R.LP_TX_DOWN_DROPS lport 1).copyEnd cid })
        ∧ (d.egressForced c = none → (d.lp lport).st = .up →
          let sent := d.stampData lport c (if c.relWhole then padded (c.output.take (c.output.length - 4)) else c.output)
          (c.relWhole = true → c.tag.stomp = false → c.bad = 0 →
            let bs := sent.1 ++ fcsBytes sent.1
            exec (.frameTransmit cid) s = .next { s with dev :=
              (((sent.2.emit lport bs false).inc R.LP_TX_FRAMES lport 1).inc R.LP_TX_BYTES lport bs.length).copyEnd cid })
          ∧ (c.relWhole = true → c.tag.stomp = true ∨ c.bad ≠ 0 →
            exec (.frameTransmit cid) s = .next { s with dev :=
              ((sent.2.emit lport (sent.1 ++ stompBytes sent.1) true).stompCount lport c.bad).copyEnd cid })
          ∧ (c.relWhole = false → exec (.frameTransmit cid) s = .next { s with dev :=
              (((((sent.2.emit lport (sent.1 ++ stompBytes sent.1) true).inc R.MRS_UNDERRUN (pipeOf lport) 1).raiseBit
                R.MRS_EVENTS (sliceOf lport) 4).stompCount lport (if c.bad ≠ 0 then c.bad else 8))).copyEnd cid }))))

/-- HOPPER_ADMIT on logical port n, no memory in error. With no frame in its MAC, or one in progress on the sub-port, nothing changes. The oldest waiting frame, its bytes not cut off: a port not UP loses it (uncounted: the model's choice of log 152). When fill, reservations and the segments of MAX_FRAME exceed 8,192, HOP_FULL_DROPS gains 1 and the rest is discarded as it comes; else HOP_FRAMES gains 1, its first 64 bytes are held, the other segments are reserved, and it is last in order; of one segment it is whole with its verdict and reserves nothing. HOPPER_SEGMENT with none in progress lets the link edge send. For the frame in progress it takes the next 64 bytes: of a discarded frame away; of one not released into the hopper, from its reservation; of a released one, no segment poisoned, past the hopper. The last segment makes it whole with its verdict, gives back what it reserved and leaves none in progress. What can leave at the link edge then leaves. DROP_REM of a linked host port with no frame in progress does no more than any access to the slice and let the link edge send. -/
def Obligations.HopperReservesThenAdmits : Prop :=
  ∀ (h : HostNo) (n : LportNo) (fid : Nat) (f : Frame) (s : State), s.noUpsets →
    let d := s.dev
    let q := n.val / 8
    let sub := n.val % 8
    let hop := d.hop q
    let need := ceilDiv (max 64 (d.fldOf R.LP_CTRL n 16 14)) 64
    let waiting := d.framesBy (fun f => decide (f.place = .mac) && decide (f.lport = n))
    let last := decide (f.mac.length ≤ 64)
    let counted := fun (d : Dev) (r : RegInfo) (t : State) => t.dev.rd64 r q = (d.rd64 r q + 1) % 2 ^ 64
    (waiting = [] ∨ SMap.get 0 hop.inProg sub ≠ 0 → exec (.hopperAdmit n) s = .next s)
    ∧ (∀ rest, waiting = fid :: rest → d.frame fid = some f → f.lport = n → f.slice = n / 64 → SMap.get 0 hop.inProg sub = 0 →
      f.mac ≠ [] → f.macBad ≠ 3 →
      ((d.lp n).st ≠ .up → exec (.hopperAdmit n) s = .next { s with dev := d.dropFrame fid })
      ∧ ((d.lp n).st = .up → 8192 < hop.fill + hop.resv + need → ∃ t, exec (.hopperAdmit n) s = .next t ∧ t.pending = s.pending
        ∧ counted d R.HOP_FULL_DROPS t
        ∧ t.dev.hop q = (if last then hop else { hop with inProg := SMap.set 0 hop.inProg sub (fid + 1) })
        ∧ (last = true → t.dev.frame fid = none)
        ∧ (last = false → ∃ g, t.dev.frame fid = some g ∧ g.dropping = true ∧ g.mac = f.mac.drop 64 ∧ g.held = 0 ∧ g.bytes = []))
      ∧ ((d.lp n).st = .up → hop.fill + hop.resv + need ≤ 8192 → ∃ t, exec (.hopperAdmit n) s = .next t ∧ t.pending = s.pending
        ∧ counted d R.HOP_FRAMES t
        ∧ t.dev.hop q = { hop with fill := hop.fill + 1, written := hop.written + 1, order := hop.order ++ [fid]
                                   resv := hop.resv + (if last then 0 else need - 1)
                                   inProg := if last then hop.inProg else SMap.set 0 hop.inProg sub (fid + 1) }
        ∧ t.dev.frame fid = some { f with
            place := .hopper, mac := f.mac.drop 64, taken := (f.mac.take 64).length, arrival := d.arrivals
            resv := if last then 0 else need - 1, whole := last, bad := if last then f.macBad else 0
            bytes := f.bytes ++ f.mac.take 64, held := f.held + 1 }))
    ∧ (SMap.get 0 hop.inProg sub = 0 → exec (.hopperSegment n) s = .next { s with dev := d.pumpIn (n / 64) (n / 16 % 4) })
    ∧ (SMap.get 0 hop.inProg sub = fid + 1 → d.frame fid = some f → f.mac ≠ [] →
      let moved := { f with mac := f.mac.drop 64, taken := f.taken + (f.mac.take 64).length }
      let kept := if last then 0 else f.resv - 1
      let took := { moved with
        resv := kept, whole := last, bytes := f.bytes ++ f.mac.take 64
        bad := if f.bad ≠ 0 then f.bad else if f.macBad = 2 ∧ max 64 (d.fldOf R.LP_CTRL n 16 14) < moved.taken then 2
          else if last then f.macBad else 0 }
      let prog := fun (x : Dev) => (x.hop q).inProg = (if last then SMap.set 0 hop.inProg sub 0 else hop.inProg)
      (f.dropping = true → ∃ x : Dev, exec (.hopperSegment n) s = .next { s with dev := x.pumpIn (n / 64) (n / 16 % 4) }
        ∧ x.frame fid = (if last then none else some moved) ∧ prog x ∧ (x.hop q).fill = hop.fill ∧ (x.hop q).resv = hop.resv)
      ∧ (f.dropping = false → 0 < f.resv → f.lport = n → f.parity = [] →
        ∃ x : Dev, exec (.hopperSegment n) s = .next { s with dev := x.pumpIn (n / 64) (n / 16 % 4) } ∧ prog x
          ∧ (x.hop q).written = hop.written + 1 ∧ (x.hop q).resv = hop.resv - (f.resv - kept) ∧ (x.hop q).order = hop.order
          ∧ (f.released = false → (x.hop q).fill = hop.fill + 1 ∧ x.frame fid = some { took with held := f.held + 1 })
          ∧ (f.released = true → (x.hop q).fill = hop.fill ∧ x.frame fid = some { took with held := 0 })))
    ∧ (∀ (k : HopperNo) (sub : Fin 8), s.linked h → (d.slc (k / 8)).st = .run →
      SMap.get 0 ((d.wake (k / 8)).hop k).inProg sub = 0 →
      exec (.dropRem h k sub) s = .next { s with dev := (d.wake (k / 8)).pumpIn (k / 8) (k % 8 / 2) })

/-- DROP_REM of a linked host port on a hopper of a running slice, for the frame in progress on the sub-port, no memory in error. Not being discarded and not yet released: HOP_DROPREM_FRAMES gains 1, the hopper's fill and reservation lose what the frame held, it is out of the order and of the lanes granted in its pipeline, and what is still to come of it will be discarded. Already released: it is whole and bad, with DROP_REM (4) unless it was bad before, its reservation is given back, HOP_DROPREM_FRAMES gains 1. Being discarded: nothing more. What can leave at the link edge then leaves. -/
def Obligations.DropRemCutsTheFrameInProgress : Prop :=
  ∀ (h : HostNo) (k : HopperNo) (sub : Fin 8) (fid : Nat) (f : Frame) (s : State), s.linked h → (s.dev.slc (k / 8)).st = .run → s.noUpsets →
    let d := s.dev.wake (k / 8)
    let hop := d.hop k
    SMap.get 0 hop.inProg sub = fid + 1 → d.frame fid = some f → f.src = .port → hopOf f.lport = k → f.whole = false → f.slice < 8 → f.pipe < 4 →
    (f.dropping = true → exec (.dropRem h k sub) s = .next { s with dev := d.pumpIn (k / 8) (k % 8 / 2) })
    ∧ (f.dropping = false → ∃ x : Dev, exec (.dropRem h k sub) s = .next { s with dev := x.pumpIn (k / 8) (k % 8 / 2) }
      ∧ x.rd64 R.HOP_DROPREM_FRAMES k = (d.rd64 R.HOP_DROPREM_FRAMES k + 1) % 2 ^ 64
      ∧ (f.released = false →
        x.hop k = { hop with fill := hop.fill - f.held, resv := hop.resv - f.resv, order := hop.order.filter (· ≠ fid) }
        ∧ x.frame fid = some f.remnant ∧ f.remnant.dropping = true ∧ f.remnant.bytes = []
        ∧ ((∃ n, f.place = .granted n ∨ f.place = .ingress n) →
          (x.isa (f.slice * 4 + f.pipe)).granted = (d.isa (f.slice * 4 + f.pipe)).granted.filter (· ≠ fid)))
      ∧ (f.released = true → fid < d.nextFid →
        (x.hop k).fill = hop.fill ∧ (x.hop k).resv = hop.resv - f.resv
        ∧ x.frame fid = some { f with mac := [], whole := true, resv := 0, bad := if f.bad = 0 then 4 else f.bad }))

/-- ISA_GRANT of a pipeline; a descriptor held by a host port is of one of its rings. In ASLEEP nothing moves. Else four more slots are accounted. In a slice that is not RUN, or with a head or an internal frame waiting while the outlet is held, ISA_IDLE_SLOTS gains 4 and no frame moves. Otherwise, with no poisoned segment in a hopper, the lanes given to ports, to the three internal sources and to none are four in all, each counted in its counter. Which frames: with the first hopper's order all ready heads, the second without one and one internal source offering alone, the heads take the first lanes in their order, at most four, or three when FORCED is on, an internal frame waits and 12 lanes or more have gone to ports since one was served; the source's frames take the rest in theirs. Each frame granted has its lane, the epoch and version of its pipeline (none while no image runs) and its place in the order of all grants; it has left the hopper's order or the source. A third lane that makes room so, with a head left over, counts in ISA_FORCED_SLOTS. -/
def Obligations.SlotArbiterFillsLanes : Prop :=
  ∀ (sl : SliceNo) (p : PipeNo) (s : State), (∀ (h : Fin 4) (x r : Nat), (s.dev.host h).injHeld = some (x, r) → r < 64) →
    let d := s.dev
    let i := sl.val * 4 + p.val
    let q := 8 * sl.val + 2 * p.val
    let a := d.isa i
    let waits := a.waiting = true ∨ d.readyHead q ≠ none ∨ d.readyHead (q + 1) ≠ none
    let gains := fun (t : State) (r : RegInfo) (n : Nat) => t.dev.rd64 r i = (d.rd64 r i + n) % 2 ^ 64
    let clock := fun (t : State) => t.pending = s.pending
      ∧ SMap.get 0 (t.dev.slc sl).slots (64 + p.val) = SMap.get 0 (d.slc sl).slots (64 + p.val) + 4
    let free := (d.slc sl).st = .run ∧ (d.outletHeld sl p = 0 ∨ ¬ waits)
    ((d.slc sl).st = .asleep → ∃ t, exec (.isaGrant sl p) s = .next t ∧ t.pending = s.pending
      ∧ t.dev.slices = d.slices ∧ t.dev.isas = d.isas ∧ t.dev.frames = d.frames ∧ t.dev.hoppers = d.hoppers)
    ∧ ((d.slc sl).st ≠ .asleep → ¬ free → ∃ t, exec (.isaGrant sl p) s = .next t ∧ clock t ∧ gains t R.ISA_IDLE_SLOTS 4
      ∧ t.dev.frames = d.frames ∧ t.dev.hoppers = d.hoppers ∧ (t.dev.isa i).granted = a.granted)
    ∧ (free → (∀ e ∈ d.frames, ∀ f, e.2 = some f → f.parity = []) →
      ∃ t k m0 m1 m2 n, exec (.isaGrant sl p) s = .next t ∧ clock t ∧ k + m0 + m1 + m2 + n = 4 ∧ gains t R.ISA_PORT_SLOTS k
        ∧ gains t R.ISA_RECIRC_SLOTS m0 ∧ gains t R.ISA_AERET_SLOTS m1 ∧ gains t R.ISA_HOST_SLOTS m2 ∧ gains t R.ISA_IDLE_SLOTS n)
    ∧ (∀ (k : Fin 3) (hs gs : List Nat), free → (d.hop q).order = hs → d.readyHead (q + 1) = none → a.offered k = gs →
      (∀ j : Fin 3, j ≠ k → a.offered j = []) → a.turn < 3 → (hs ++ gs).Nodup →
      (∀ x ∈ hs, ∃ f, d.frame x = some f ∧ (f.whole = true ∨ 256 ≤ f.bytes.length) ∧ f.parity = [] ∧ f.lport / 8 = q) →
      (∀ x ∈ gs, d.frame x ≠ none) →
      let lim := if d.bitOf R.ISA_CTRL i 16 = true ∧ gs ≠ [] ∧ 12 ≤ a.f then 3 else 4
      let ph := hs.take lim
      let pg := gs.take (4 - ph.length)
      ∃ t, exec (.isaGrant sl p) s = .next t ∧ clock t
        ∧ (∀ (j x : Nat) (f : Frame), (ph ++ pg)[j]? = some x → d.frame x = some f → t.dev.frame x = some { f with
            place := .granted j, order := d.grants + j, stamp := if d.epochs.run = none then none else some (a.epoch, a.version) })
        ∧ (t.dev.isa i).granted = a.granted ++ ph ++ pg ∧ (t.dev.isa i).offered k = gs.drop pg.length
        ∧ (t.dev.hop q).order = hs.drop ph.length
        ∧ (t.dev.isa i).f = (if gs = [] then 0 else if pg = [] then a.f + ph.length else 0)
        ∧ gains t R.ISA_PORT_SLOTS ph.length ∧ gains t (match k with | 0 => R.ISA_RECIRC_SLOTS | 1 => R.ISA_AERET_SLOTS | _ => R.ISA_HOST_SLOTS) pg.length
        ∧ gains t R.ISA_IDLE_SLOTS (4 - ph.length - pg.length)
        ∧ gains t R.ISA_FORCED_SLOTS (if lim = 3 ∧ 3 < hs.length then 1 else 0))

/-- PARSE of a pipeline of a running slice, no memory in error; nothing granted: nothing changes. Of the oldest granted frame: with no image running, or none in the clock of its grant, it is discarded and IMG_NOSTRUCT_DROPS gains 1. A recirculated frame past the pass limit is discarded and PAR_PASS_DROPS gains 1. A re-entry under a forced retire is discarded and counted. Otherwise a frame without a tag gets one with the epoch and version of its grant, its port, its source and its time of arrival (of an injected frame the time of the parse), PAR_FRAMES gains 1 and one more tag of that epoch is live; a re-entry keeps the epoch, version, port, source, time and user words of its tag, a recirculated one with a pass more and one from an array marked, the rest is 0, and PAR_REENTRIES gains 1. Either stands before stage 0. When the start node of its source is not VALID the parse ends there: REASON UNKNOWN_NEXT (4), EXC_NODE that node, nothing extracted, PARSE_LEN 0, PAR_EXC for it gains 1. -/
def Obligations.ParserTagsAndWalks : Prop :=
  ∀ (sl : SliceNo) (p : PipeNo) (fid : Nat) (rest : List Nat) (f : Frame) (s : State), s.noUpsets →
    let d := s.dev
    let i := sl.val * 4 + p.val
    let a := d.isa i
    let taken := d.setIsa i { a with granted := rest }
    let wasted := fun (d : Dev) => d.pmc sl 0x011 p 1
    let forced := if f.hasTag = true ∧ f.bad ≠ 9 then d.forced f.tag else none
    let limit := max 1 (d.fldOf R.PAR_CTRL i 0 3)
    ((d.slc sl).st ≠ .run ∨ a.granted = [] → exec (.parse sl p) s = .next s)
    ∧ ((d.slc sl).st = .run → a.granted = fid :: rest → d.frame fid = some f →
      (d.epochs.run = none ∨ f.stamp = none →
        exec (.parse sl p) s = .next { s with dev := wasted ((taken.dropRem fid).inc R.IMG_NOSTRUCT_DROPS 0 1) })
      ∧ (∀ e v, d.epochs.run ≠ none → f.stamp = some (e, v) →
        (f.src = .recirc → limit < f.tag.pass + 1 →
          exec (.parse sl p) s = .next { s with dev := wasted ((taken.dropRem fid).inc R.PAR_PASS_DROPS i 1) })
        ∧ (f.src ≠ .recirc ∨ f.tag.pass + 1 ≤ limit →
          (∀ ctr, forced = some ctr → exec (.parse sl p) s = .next { s with dev := wasted ((taken.inc ctr 0 1).dropRem fid) })
          ∧ (forced = none →
            let ep := if f.hasTag then f.tag.epoch else e
            let start := byteAt (graphRecord (d.imageOf ep) sl p 255)
              (match f.src with | .port => 0 | .recirc => 1 | .aeRet => 2 | .host => 3)
            ∃ t g, exec (.parse sl p) s = .next t ∧ t.pending = s.pending ∧ t.dev.frame fid = some g
              ∧ g.place = .ingress 0 ∧ g.hasTag = true ∧ g.bytes = f.bytes ∧ g.ps.head = f.bytes.take 256
              ∧ t.dev.isa i = { a with granted := rest }
              ∧ (f.hasTag = false → g.tag = { epoch := e, version := v, lport := f.lport, hostInj := decide (f.src = .host), reason := g.tag.reason
                                              ts := if f.src = .port then tsOf f.tsSecs f.tsNs f.tsFrac else tsOf d.time.secs d.time.ns d.time.frac16 }
                ∧ t.dev.rd64 R.PAR_FRAMES i = (d.rd64 R.PAR_FRAMES i + 1) % 2 ^ 64
                ∧ SMap.get 0 t.dev.epochs.live e = SMap.get 0 d.epochs.live e + 1)
              ∧ (f.hasTag = true → g.tag = { f.tag with
                  ct := false, mcast := false, queue := 0, bin := 0, repl := 0, puntHost := 0, colour := 0, seq := 0, copy := 0
                  reason := g.tag.reason, pass := if f.src = .recirc then f.tag.pass + 1 else f.tag.pass
                  aeRet := f.tag.aeRet || decide (f.src = .aeRet) }
                ∧ t.dev.rd64 R.PAR_REENTRIES i = (d.rd64 R.PAR_REENTRIES i + 1) % 2 ^ 64 ∧ t.dev.epochs.live = d.epochs.live)
              ∧ (start ≠ 255 → byteAt (graphRecord (d.imageOf ep) sl p start) 0 % 2 = 0 →
                g.tag.reason = 4 ∧ g.ps.excNode = start ∧ g.ps.parseLen = 0 ∧ g.ps.valid = 0 ∧ g.ps.cont = []
                ∧ t.dev.rd64 R.PAR_EXC (i * 8 + 4) = (d.rd64 R.PAR_EXC (i * 8 + 4) + 1) % 2 ^ 64)))))

/-- STAGE_PASS, no memory in error, no lookup record on its way. Of an ingress frame before stage n whose earlier frames are past it, in a running slice, without a forced retire. With an empty descriptor, or the frame already to be discarded, below stage 23 only its place moves on by one; after stage 23 a frame to be discarded is gone, counted in STG_I_DISCARDS, and one to be forwarded without a REASON, good and with no poisoned segment, is released by its hopper and bound for its queue. With a valid descriptor that names word w from 1 to 1,007 directly and enables no lookup, and a valid word whose first operation is SET, MOV, ADDI, ADD, AND, OR, XOR, SHL or SHR to a container c of the 208, the seven others NOP, without edits and with DISP 0: container c holds the result cut to its width, and every other container what it held. While an earlier frame is not past that stage, or in a slice that does not run, nothing changes. Of a copy before egress stage n from 1 to 15, with an empty descriptor or to be discarded: below 15 only its stage moves on by one; after 15 one to be forwarded has that verdict, and one to be discarded has ended. -/
def Obligations.StageOperationsWriteContainers : Prop :=
  ∀ (fid : Nat) (f : Frame) (s : State), s.noUpsets → s.dev.frame fid = some f → ∀ n < 24, f.place = .ingress n →
    let d := s.dev
    let img := d.imageOf f.tag.epoch
    let desc := stageWord img false f.slice f.pipe n 0
    let w := fld desc 4 10
    let word := stageWord img false f.slice f.pipe n w
    let op := fld word 8 48
    let c := fld op 4 10
    let imm := fld op 24 16
    let sh := fld (fld op 40 8) 0 5
    let src := fld op 14 10
    let i := f.slice * 4 + f.pipe
    let past := d.setFrame fid { f with place := .ingress (n + 1) }
    ((d.slc f.slice).st ≠ .run ∨ d.mustWait f = true → exec (.stagePass false fid) s = .next s)
    ∧ ((d.slc f.slice).st = .run → d.mustWait f = false → d.forced f.tag = none → f.ps.landing = [] →
      (fld desc 0 1 = 0 ∨ f.ps.disp = .discard →
        (n < 23 → exec (.stagePass false fid) s = .next { s with dev := past })
        ∧ (n = 23 → f.ps.disp = .discard → exec (.stagePass false fid) s
          = .next { s with dev := ((past.dropRem fid).inc R.STG_I_DISCARDS i 1).pmc f.slice 0x011 f.pipe 1 })
        ∧ (n = 23 → f.ps.disp = .forward → f.tag.reason = 0 → f.src = .port → f.bad = 0 → f.parity = [] →
          ∃ t, exec (.stagePass false fid) s = .next t ∧ t.pending = s.pending
            ∧ t.dev.frame fid = some { f with place := .deparse, dest := .queue, held := 0, released := true }
            ∧ t.dev.hop (hopOf f.lport) = { d.hop (hopOf f.lport) with fill := (d.hop (hopOf f.lport)).fill - f.held }))
      ∧ (n < 23 → f.ps.disp ≠ .discard → fld desc 0 1 = 1 → fld desc 1 2 = 0 → 0 < w → w < 1008 → (∀ k < 4, (lookupF desc k).en = false) →
        fld word 0 1 = 1 → fld word 1 3 = 0 → (∀ k, 0 < k → k < 8 → fld word (8 + 48 * k) 4 = 0) →
        fld word 392 3 = 0 → fld word 448 3 = 0 → c < 208 → src < 208 →
        let a := SMap.get 0 f.ps.cont src
        ∀ v, (fld op 0 4 = 0x1 ∧ v = imm) ∨ (fld op 0 4 = 0x2 ∧ v = a) ∨ (fld op 0 4 = 0x3 ∧ v = (a + ofInt 32 (sext 16 imm)) % 2 ^ 32)
            ∨ (fld op 0 4 = 0x4 ∧ fld imm 0 10 < 208 ∧ v = (a + SMap.get 0 f.ps.cont (fld imm 0 10)) % 2 ^ 32)
            ∨ (fld op 0 4 = 0x5 ∧ v = a &&& (imm <<< sh) % 2 ^ 32) ∨ (fld op 0 4 = 0x6 ∧ v = a ||| (imm <<< sh) % 2 ^ 32)
            ∨ (fld op 0 4 = 0x7 ∧ v = a ^^^ (imm <<< sh) % 2 ^ 32)
            ∨ (fld op 0 4 = 0x8 ∧ v = (a <<< sh) % 2 ^ 32) ∨ (fld op 0 4 = 0x9 ∧ v = a >>> sh) →
          v < 2 ^ 32 →
          ∃ t g, exec (.stagePass false fid) s = .next t ∧ t.pending = s.pending ∧ t.dev.frame fid = some g
            ∧ g.place = .ingress (n + 1) ∧ g.tag = f.tag ∧ g.bytes = f.bytes ∧ g.ps.edits = f.ps.edits ∧ g.ps.disp = f.ps.disp
            ∧ ∀ k : Nat, SMap.get 0 g.ps.cont k = if k = c then v % 2 ^ contWidth c else SMap.get 0 f.ps.cont k))
    ∧ (∀ (cid m : Nat) (cp : Copy), d.cpy cid = some cp → cp.stage = some m → 0 < m → m < 16 → cp.verdict = .none → cp.ended = false →
      let k := sliceOfQueue cp.queue
      let desc := stageWord (d.imageOf cp.tag.epoch) true k (pipeOfQueue cp.queue) m 0
      (d.slc k).st = .run → d.egressForced cp = none → cp.ps.landing = [] → fld desc 0 1 = 0 ∨ cp.ps.disp = .discard →
      (m < 15 → exec (.stagePass true cid) s = .next { s with dev := d.setCpy cid { cp with stage := some (m + 1) } })
      ∧ (m = 15 → cp.ps.disp = .forward → ∃ t, exec (.stagePass true cid) s = .next t ∧ t.pending = s.pending
        ∧ t.dev.cpy cid = some { cp with stage := none, verdict := .forward })
      ∧ (m = 15 → cp.ps.disp = .discard → cp.sentLast = false → ∃ t, exec (.stagePass true cid) s = .next t ∧ t.pending = s.pending
        ∧ ∃ g, t.dev.cpy cid = some g ∧ g.verdict = .discard ∧ g.ended = true))

/-- DEPARSE of an ingress frame past its verdict in a running slice, earlier frames of its pipeline deparsed, with no dirty container and no patch, H the bytes of its head. With no edit the head is as it came; with one PUSH at position p up to H the bytes stand before byte p; with one POP of len bytes from p inside the head they are gone; the frame goes on to the fabric and nothing else changes before the link edge sends what it can. A frame that is not past its verdict, or must wait, is left as it is. DEPARSE of a copy with a verdict but DISCARD, not yet deparsed, no forced retire, no dirty container, no patch and no edit: its head is as it came. COUNT_BYTES_DEFERRED of a whole ingress frame, or of a copy whose length is known, with one waiting byte count, no memory in error: that stage counter gains the length, and none waits; while the length is not known nothing changes. -/
def Obligations.DeparserAppliesEdits : Prop :=
  ∀ (fid : Nat) (f : Frame) (s : State), s.dev.frame fid = some f →
    let d := s.dev
    let h := min 256 (d.frameLen 16 fid - 4)
    let head := f.bytes.take h
    (f.place ≠ .deparse ∨ (d.slc f.slice).st ≠ .run ∨ d.mustWait f = true → exec (.deparse false fid) s = .next { s with dev := d.pumpIn f.slice f.pipe })
    ∧ (f.place = .deparse → (d.slc f.slice).st = .run → d.mustWait f = false → f.ps.dirty = [] → f.ps.patches = [] →
      let gives := fun (out : List Byte) => exec (.deparse false fid) s
        = .next { s with dev := (d.setFrame fid { f with place := .fabric, head := out, headIn := h }).pumpIn f.slice f.pipe }
      (f.ps.edits = [] → gives head)
      ∧ (∀ p bs, f.ps.edits = [.push p bs] → p ≤ head.length → gives (head.take p ++ bs ++ head.drop p))
      ∧ (∀ p len, f.ps.edits = [.pop p len] → p + len ≤ head.length → gives (head.take p ++ head.drop (p + len))))
    ∧ (f.whole = false → exec (.countBytesDeferred false fid) s = .next s)
    ∧ (∀ x, s.noUpsets → f.whole = true → f.deferred = [x] →
      let key := stageKey x.egress x.slice x.pipe x.stage x.ctr
      exec (.countBytesDeferred false fid) s = .next { s with dev :=
        { d with stageBytes := SMap.modify 0 d.stageBytes key (· + BitVec.ofNat 64 f.bytes.length) }.setFrame fid { f with deferred := [] } })
    ∧ (∀ (cid : Nat) (c : Copy), d.cpy cid = some c →
      let known := d.copyLen cid c
      (known = 0 → exec (.countBytesDeferred true cid) s = .next s)
      ∧ (∀ x, s.noUpsets → known ≠ 0 → c.deferred = [x] →
        let key := stageKey x.egress x.slice x.pipe x.stage x.ctr
        exec (.countBytesDeferred true cid) s = .next { s with dev :=
          { d with stageBytes := SMap.modify 0 d.stageBytes key (· + BitVec.ofNat 64 known) }.setCpy cid { c with deferred := [] } })
      ∧ (d.egressForced c = none → c.deparsed = false → c.verdict ≠ .none → c.verdict ≠ .discard → c.ps.dirty = [] → c.ps.patches = [] →
        c.ps.edits = [] →
        let h := min c.ps.head.length ((if known = 0 then d.heldLen c else known) - 4)
        ∃ t g, exec (.deparse true cid) s = .next t ∧ t.pending = s.pending ∧ t.dev.cpy cid = some g
          ∧ g.deparsed = true ∧ g.head = c.ps.head.take h ∧ g.headIn = h ∧ t.dev.frames = d.frames))

/-- For a slice that runs and host port h whose stage command is oldest, no memory in error, STAGE within its direction. READ_CTR: both counts returned, OK. READ_CLEAR_CTR: returned, and both become 0. READ_REG: the register returned. WRITE_REG: the register takes STG_CMD_REGVAL. A STAGE beyond its direction: BAD_STAGE, nothing else. On a fabric that is awake, for RPL_CMD: WRITE_MEMBER below 262,144 stores the member record without its reserved bits; READ_MEMBER returns it; SET_LIST within range replaces FIRST and COUNT; READ_LIST returns the head; out of range: BAD_RANGE. A row whose OP is not that of the oldest command changes nothing. Completion writes the status and DONE, counts REJECTS for a result other than OK, and takes the command off the queue. -/
def Obligations.StageCommandsReachCounters : Prop :=
  ∀ (sl : SliceNo) (h v : Nat) (rest : List (Nat × Nat)) (s : State), s.noUpsets →
    let d := s.dev
    let i := sl.val * 4 + h
    let eg := decide (fld v 4 1 = 1)
    let key := stageKey eg sl (fld v 5 2) (fld v 8 5) (fld v 16 10)
    let ok := fld v 8 5 ≤ if eg then 15 else 23
    let both := (d.wr64 R.STG_CMD_FRAMES i (SMap.get 0 d.stageFrames key).toNat).wr64 R.STG_CMD_BYTES i (SMap.get 0 d.stageBytes key).toNat
    let stg := fun (c : Instr) (x : Dev) (res : Nat) => exec c s = .next { s with dev := x.cmdDone .stg sl res }
    let rpl := fun (c : Instr) (x : Dev) (res : Nat) => exec c s = .next { s with dev := x.cmdDone .rpl 0 res }
    let ix := d.rd R.RPL_CMD_INDEX h
    let hd := d.rd R.RPL_CMD_HEAD h
    ((d.slc sl).st = .run →
      (∀ c ∈ [(Instr.readCtr sl, 1), (.readClearCtr sl, 2), (.readReg sl, 3), (.writeReg sl, 4)],
        (d.cmdHead .stg sl c.2 = none → exec c.1 s = .next s)
        ∧ (s.queued .stg sl c.2 h v rest → ¬ ok → stg c.1 d 1))
      ∧ (s.queued .stg sl 1 h v rest → ok → stg (.readCtr sl) both 0)
      ∧ (s.queued .stg sl 2 h v rest → ok → stg (.readClearCtr sl)
        { both with stageFrames := SMap.set 0 d.stageFrames key 0, stageBytes := SMap.set 0 d.stageBytes key 0 } 0)
      ∧ (s.queued .stg sl 3 h v rest → ok → stg (.readReg sl) (d.wr R.STG_CMD_REGVAL i (SMap.get 0 d.stageRegs key).toNat) 0)
      ∧ (s.queued .stg sl 4 h v rest → ok →
        stg (.writeReg sl) { d with stageRegs := SMap.set 0 d.stageRegs key (BitVec.ofNat 32 (d.rd R.STG_CMD_REGVAL i)) } 0
        ∧ (∃ t, exec (.writeReg sl) s = .next t ∧ t.dev.cmdQ .stg sl = rest ∧ t.dev.rd R.STG_CMD_STATUS i = 0
          ∧ t.dev.rd64 R.STG_CMD_DONE i = (d.rd64 R.STG_CMD_DONE i + 1) % 2 ^ 64 ∧ t.dev.rd64 R.STG_CMD_REJECTS i = d.rd64 R.STG_CMD_REJECTS i)))
    ∧ (d.fan.fabricAsleep = false →
      (∀ c ∈ [(Instr.writeMember, 1), (.readMember, 2), (.setList, 3), (.readList, 4)], d.cmdHead .rpl 0 c.2 = none → exec c.1 s = .next s)
      ∧ (s.queued .rpl 0 1 h v rest →
        (262143 < ix → rpl .writeMember d 3)
        ∧ (ix ≤ 262143 → rpl .writeMember
          { d with members := SMap.set 0 d.members ix (BitVec.ofNat 32 (d.rd R.RPL_CMD_MEMBER h) &&& 0x80001FFF) } 0))
      ∧ (s.queued .rpl 0 2 h v rest → (262143 < ix → rpl .readMember d 3)
        ∧ (ix ≤ 262143 → rpl .readMember (d.wr R.RPL_CMD_MEMBER h (SMap.get 0 d.members ix).toNat) 0))
      ∧ (s.queued .rpl 0 3 h v rest →
        (512 < fld hd 18 10 ∨ 262144 < fld hd 0 18 + fld hd 18 10 → rpl .setList d 3)
        ∧ (fld hd 18 10 ≤ 512 → fld hd 0 18 + fld hd 18 10 ≤ 262144 → rpl .setList
          { d with lists := SMap.set 0 d.lists (d.rd R.RPL_CMD_LIST h) (BitVec.ofNat 32 (hd % 2 ^ 28)) } 0))
      ∧ (s.queued .rpl 0 4 h v rest →
        rpl .readList (d.wr R.RPL_CMD_HEAD h (SMap.get 0 d.lists (d.rd R.RPL_CMD_LIST h)).toNat) 0))

/-- For host port h whose bolter command is oldest in a slice that runs, no memory in error; each of ADD, DELETE and READ closes the set's step-through. A table not placed by the running image: NO_TABLE. An address past its depth: BAD_ADDR. ADD and DELETE while a commit is pending: PENDING. ADD where V is 1: NOT_FREE; where it is 0: key cut to the mask, mask, PRIO, RESULT and the open version in every copy, V 1, SETTLED, INIT and DP 0, and DEL_VER 0 (the model's choice, log 160), OK. DELETE where V is 0 or DP 1: NOT_LIVE; of an entry not settled and added in the open version: V 0; of another: DP 1 and DEL_VER the open version, OK. READ returns key, mask, PRIO, RESULT, state and versions. Each completes with its RESULT. Any of the five rows changes nothing in a slice that does not run, and where the oldest command has another OP or there is none. -/
def Obligations.BolterEntriesAreAddedAndDeleted : Prop :=
  ∀ (sl : SliceNo) (h v : Nat) (rest : List (Nat × Nat)) (s : State), s.noUpsets →
    let d := s.dev
    let i := sl.val * 4 + h
    let d0 := d.stepClose sl h
    let copies := d.bltCopies sl (d.rd R.BLT_CMD_TABLE i)
    let addr := d.rd R.BLT_CMD_ADDR i
    let openV := (d.vers.cur + 1) % 65536
    let ends := fun (c : Instr) (x : Dev) (res : Nat) => exec c s = .next { s with dev := x.cmdDone .blt sl res }
    let rows := [(Instr.bltAdd sl, 1), (.bltDelete sl, 2), (.bltRead sl, 3)]
    (∀ c ∈ rows ++ [(.bltSearch sl, 4), (.searchNext sl, 5)], d.cmdHead .blt sl c.2 = none ∨ (d.slc sl).st ≠ .run → exec c.1 s = .next s)
    ∧ ((d.slc sl).st = .run →
    (∀ c ∈ rows, s.queued .blt sl c.2 h v rest → copies = [] → ends c.1 d0 2)
    ∧ (∀ r rs, copies = r :: rs →
      (∀ c ∈ rows, s.queued .blt sl c.2 h v rest → r.depth * 2048 ≤ addr → ends c.1 d0 3)
      ∧ (addr < r.depth * 2048 →
        let e := d.tent r addr
        let bits := 80 * r.width
        (d.vers.pending = true → (s.queued .blt sl 1 h v rest → ends (.bltAdd sl) d0 6) ∧ (s.queued .blt sl 2 h v rest → ends (.bltDelete sl) d0 6))
        ∧ (d.vers.pending = false →
          (s.queued .blt sl 1 h v rest →
            (e.ver.v = true → ends (.bltAdd sl) d0 4)
            ∧ (e.ver.v = false →
              let mask := d.stagedNat R.BLT_MASK i % 2 ^ bits
              let new : TcamEnt := {
                key := (d.stagedNat R.BLT_KEY i % 2 ^ bits) &&& mask, mask := mask, prio := d.rd R.BLT_CMD_PRIO i
                result := d.rd R.BLT_CMD_RESULT i
                ver := { v := true, settled := false, init := false, dp := false, addVer := openV, delVer := 0 } }
              ends (.bltAdd sl) (copies.foldl (fun x c => x.setTent c addr new) d0) 0))
          ∧ (s.queued .blt sl 2 h v rest →
            let writes := fun (n : EntVer) => ends (.bltDelete sl) (copies.foldl (fun x c => x.setTent c addr { x.tent c addr with ver := n }) d0) 0
            (e.ver.v = false ∨ e.ver.dp = true → ends (.bltDelete sl) d0 5)
            ∧ (e.ver.v = true → e.ver.dp = false →
              (e.ver.settled = false ∧ e.ver.addVer = openV → writes { e.ver with v := false })
              ∧ (¬ (e.ver.settled = false ∧ e.ver.addVer = openV) → writes { e.ver with dp := true, delVer := openV }))))
        ∧ (s.queued .blt sl 3 h v rest →
          ends (.bltRead sl) ((((((d0.unstage R.BLT_KEY i bits e.key).unstage R.BLT_MASK i bits e.mask).wr R.BLT_CMD_PRIO i e.prio).wr
            R.BLT_CMD_RESULT i e.result).wr R.BLT_RD_STATE i e.ver.stateBits).wr R.BLT_RD_VERS i e.ver.versBits) 0))))

/-- For a slice that runs and host port h whose bolter command is oldest, no memory in error. SEARCH with VSEL 3: BAD_OP; of a table that the running image does not place: NO_TABLE. Else its matches are the entries visible in the version of VSEL whose cared-for bits equal the key's. Without one: MISS, COUNT 0. The match that precedes every other in the table's order, where its shadow record agrees with the key and the resolver's priority: OK with COUNT, MULTI, HIT, and TIE where the mode is PRIORITY and two matches share its PRIO; its address, PRIO and RESULT are returned and a step-through opens there. Where it disagrees: MISS with HIT 0 and its address, BLT_VERIFY_FAILS and its event; the resolver's priority is rewritten. SEARCH closes an open step-through. SEARCH_NEXT leaves COUNT, MULTI and TIE: with no step-through open BAD_OP, of a table no longer placed NO_TABLE; else the first match after the last one returned is returned likewise; where there is none MISS, and where it fails the check MISS with its address, and the step-through closes. -/
def Obligations.BolterSearchesInResolutionOrder : Prop :=
  ∀ (sl : SliceNo) (h cmd : Nat) (rest : List (Nat × Nat)) (s : State), s.noUpsets → (s.dev.slc sl).st = .run →
    let d := s.dev
    let i := sl.val * 4 + h
    let d0 := d.stepClose sl h
    let ends := fun (c : Instr) (x : Dev) (status : Nat) => exec c s = .next { s with dev := x.cmdDone .blt sl status }
    let hits := fun (r : Place16) (key v : Nat) =>
      (d.tcamEntries r).filter (fun e => e.2.ver.visible v && decide ((key ^^^ e.2.key) &&& e.2.mask = 0))
    let agrees := fun (r : Place16) (key : Nat) (w : Nat × TcamEnt) => key &&& (d.tent r w.1).mask = (d.tent r w.1).key ∧ (d.tent r w.1).resX = 0
    let failed := fun (x : Dev) (r : Place16) (w : Nat × TcamEnt) => ((((x.inc R.BLT_VERIFY_FAILS (r.slice * 4 + r.pipe) 1).raiseBit R.BLT_EVENTS
      r.slice 0).setTent r w.1 { d.tent r w.1 with resX := 0 })).wr R.BLT_RD_ADDR i w.1
    let kept := fun (hit res : Nat) => putFld (putFld (d.rd R.BLT_CMD_STATUS i) 8 1 hit) 0 4 res
    (s.queued .blt sl 4 h cmd rest →
      (fld cmd 4 2 = 3 → ends (.bltSearch sl) d0 7)
      ∧ (fld cmd 4 2 ≠ 3 → d.bltCopies sl (d.rd R.BLT_CMD_TABLE i) = [] → ends (.bltSearch sl) d0 2)
      ∧ (∀ v r rs, d.vselVer (fld cmd 4 2) = some v → d.bltCopies sl (d.rd R.BLT_CMD_TABLE i) = r :: rs →
        let key := d.stagedNat R.BLT_KEY i % 2 ^ (80 * r.width)
        let ms := hits r key v
        let fm := (d.tcfg r).firstMatch
        (ms = [] → ends (.bltSearch sl) d0 1)
        ∧ (∀ w ∈ ms, (∀ x ∈ ms, x ≠ w → before fm w x = true) →
          let found := min 255 ms.length * 2 ^ 16 + (if fm = false ∧ 2 ≤ (ms.filter (fun e => e.2.resPrio = w.2.resPrio)).length then 0x400 else 0)
              + (if 2 ≤ ms.length then 0x200 else 0)
          (agrees r key w → ends (.bltSearch sl)
            ((d0.bltReturn i w).stepOpen sl h ⟨d.rd R.BLT_CMD_TABLE i, fld cmd 4 2, key, w.2.resPrio, w.1⟩) (found + 0x100))
          ∧ (¬ agrees r key w → ends (.bltSearch sl) (failed d0 r w) (found + 1)))))
    ∧ (s.queued .blt sl 5 h cmd rest →
      (SMap.get none d.tbl.steps i = none → ends (.searchNext sl) d (kept 0 7))
      ∧ (∀ x, SMap.get none d.tbl.steps i = some x → d.bltCopies sl x.table = [] → ends (.searchNext sl) d (kept 0 2))
      ∧ (∀ x r rs v, SMap.get none d.tbl.steps i = some x → d.bltCopies sl x.table = r :: rs → d.vselVer x.vsel = some v →
        let fm := (d.tcfg r).firstMatch
        let ms := (hits r x.key v).filter (fun e => before fm (x.addr, { prio := x.prio }) e)
        (ms = [] → ends (.searchNext sl) d0 (kept 0 1))
        ∧ (∀ w ∈ ms, (∀ y ∈ ms, y ≠ w → before fm w y = true) →
          (agrees r x.key w → ends (.searchNext sl) ((d.bltReturn i w).stepOpen sl h { x with prio := w.2.resPrio, addr := w.1 }) (kept 1 0))
          ∧ (¬ agrees r x.key w → ends (.searchNext sl) ((failed d r w).stepClose sl h) (kept 0 1)))))

/-- For a slice. BLT_SWEEP_VISIT with a sweep running and entries left, in a slice that runs: the entry that the sweep has reached, in each of the 48 blocks, is settled where its addition, and freed where its deletion, is no later than the oldest live version; no other entry and nothing else changes, and the sweep is at its next entry with one less left. With none running, none left or a slice that does not run, nothing changes. BLT_SWEEP_DONE with none left: the sweep ends and SWEEP_DONE is raised; otherwise nothing changes. BLT_SCRUB_CHECK enabled, its interval of 16 core clocks or more passed, no memory in error: the scrubber is at its next entry and nothing else changes; disabled, before that time or in a slice that does not run, nothing changes. -/
def Obligations.BolterSweepAndScrubVisitEntries : Prop :=
  ∀ (sl : SliceNo) (s : State),
    let d := s.dev
    let x := d.tslice sl
    let b := if d.vers.oldLive then d.vers.old else d.vers.cur
    let due := x.scrubAt * 27 + max 16 (d.fldOf R.BLT_SCRUB sl 0 8) * 20 ≤ d.now * 27
    (x.bltSweep = false ∨ x.sweepLeft = 0 ∨ (d.slc sl).st ≠ .run → exec (.bltSweepVisit sl) s = .next s)
    ∧ (x.bltSweep = true → 0 < x.sweepLeft → (d.slc sl).st = .run → 
      let d1 := d.setTslice sl { x with sweepPos := (x.sweepPos + 1) % 2048, sweepLeft := x.sweepLeft - 1 }
      ∃ m, exec (.bltSweepVisit sl) s = .next { s with dev := { d1 with tbl := { d1.tbl with tcam := m } } }
        ∧ (∀ key, SMap.get {} m key =
            let e := SMap.get {} d.tbl.tcam key
            if ∃ k : Fin 48, key = (sl.val * 48 + k.val) * 2048 + x.sweepPos then
              if e.ver.v = true ∧ e.ver.dp = true ∧ le16 e.ver.delVer b = true then { e with ver := { e.ver with v := false, dp := false, settled := false } }
              else if e.ver.v = true ∧ le16 e.ver.addVer b = true then { e with ver := { e.ver with settled := true } } else e
            else e))
    ∧ (x.bltSweep = true ∧ x.sweepLeft = 0 ∧ (d.slc sl).st = .run →
      exec (.bltSweepDone sl) s = .next { s with dev := (d.setTslice sl { x with bltSweep := false }).raiseBit R.BLT_EVENTS sl 3 })
    ∧ (¬ (x.bltSweep = true ∧ x.sweepLeft = 0 ∧ (d.slc sl).st = .run) → exec (.bltSweepDone sl) s = .next s)
    ∧ (d.bitOf R.BLT_SCRUB sl 31 = true → (d.slc sl).st = .run → due → s.noUpsets → exec (.bltScrubCheck sl) s
      = .next { s with dev := d.setTslice sl { x with scrubPos := (x.scrubPos + 1) % 2048, scrubAt := d.now } })
    ∧ (d.bitOf R.BLT_SCRUB sl 31 = false ∨ (d.slc sl).st ≠ .run ∨ ¬ due → exec (.bltScrubCheck sl) s = .next s)

/-- For host port h whose table command is oldest, in a slice that runs, at a command's turn, no memory in error. A table not placed: NO_TABLE; LPM ADD of a malformed prefix: BAD_KEY; a commit pending: PENDING. On an exact-match table: ADD of a key visible in the open version: EXISTS; of another, with a free slot in the less occupied candidate bucket that has one, the first of the two when they tie: the entry stands in its lowest free slot, visible from the open version on; with both full: as the insertion ends, OK, NO_ROOM or MEM_ERR. DELETE and REPLACE of a key that is not visible: NOT_LIVE. DELETE of a learned entry, or of one of the open version not settled: V 0; of another: DP 1 and DEL_VER the open version; of one already marked: NOT_LIVE. REPLACE of a learned entry stores the new RESULT; of another, it inserts the new entry and marks the old one deleted; where that insertion fails, its RESULT. On an LPM table: ADD of a prefix that is visible: EXISTS; of a new one: stored where there is room (where in the store is log 16's choice), NO_ROOM otherwise; DELETE and REPLACE of one not visible, or already marked: NOT_LIVE; else the prefix is marked deleted, or leaves where V is 0, REPLACE after it stored the new one. Each ends with its RESULT. Out of turn, in a slice that does not run, or where the oldest command has another OP, the rows change nothing. -/
def Obligations.TableEntriesAreAddedAndDeleted : Prop :=
  ∀ (sl : SliceNo) (h v : Nat) (rest : List (Nat × Nat)) (s : State), s.noUpsets →
    let turn := (s.dev.slc sl).st = .run ∧ (s.dev.learnReady sl = false ∨ (s.dev.tslice sl).lastKind ≠ 2)
    let d := s.dev.setTslice sl { s.dev.tslice sl with lastKind := 2 }
    let i := sl.val * 4 + h
    let openV := (d.vers.cur + 1) % 65536
    let ends := fun (c : Instr) (x : Dev) (res : Nat) => exec c s = .next { s with dev := x.cmdDone .tbl sl res }
    let rows := [(Instr.tblAdd sl, 1), (.tblDelete sl, 2), (.tblReplace sl, 3)]
    (∀ c ∈ rows, ¬ turn ∨ s.dev.cmdHead .tbl sl c.2 = none → exec c.1 s = .next s)
    ∧ (turn →
    (∀ c ∈ rows, s.queued .tbl sl c.2 h v rest → d.tblPlace sl i = none → ends c.1 d 2)
    ∧ (∀ r, d.tblPlace sl i = some r →
      let badKey := r.kind = 2 ∧ prefixOk (d.tcfg r).v6 (d.plenOf i) (d.lpmAddrOf i (d.tcfg r).v6) = false
      (s.queued .tbl sl 1 h v rest → badKey → ends (.tblAdd sl) d 3)
      ∧ (∀ c ∈ rows, s.queued .tbl sl c.2 h v rest → d.vers.pending = true → ¬ (c.2 = 1 ∧ badKey) → ends c.1 d 6)
      ∧ (d.vers.pending = false →
        (r.kind = 1 →
          let key := d.emKeyOf i
          let b := emBuckets r.id key r.buckets
          let new : EmEnt := { key := key, result := d.rd R.TBL_CMD_RESULT i, ver := { v := true, addVer := openV } }
          (s.queued .tbl sl 1 h v rest →
            (∀ l, d.emVisible r key openV = some l → ends (.tblAdd sl) d 4)
            ∧ (d.emVisible r key openV = none →
              (∀ k, d.freeSlot r b.1 = some k → d.freeSlot r b.2 = none ∨ d.occupied r b.1 ≤ d.occupied r b.2 →
                ends (.tblAdd sl) (d.setEme sl (r.slotLoc b.1 k) { new with alt := false }) 0)
              ∧ (∀ k, d.freeSlot r b.2 = some k → d.freeSlot r b.1 = none ∨ d.occupied r b.2 < d.occupied r b.1 → b.2 ≠ b.1 →
                ends (.tblAdd sl) (d.setEme sl (r.slotLoc b.2 k) { new with alt := true }) 0)
              ∧ (d.freeSlot r b.1 = none → d.freeSlot r b.2 = none →
                ∀ e x, d.emEngine r new true = (e, x) →
                  ends (.tblAdd sl) x (match e with | .placed _ => 0 | .noRoom => 9 | .memErr => 8))))
          ∧ (∀ c ∈ rows.tail, s.queued .tbl sl c.2 h v rest → d.emVisible r key openV = none → ends c.1 d 5)
          ∧ (∀ l, d.emVisible r key openV = some l →
            let e := d.eme sl l
            (s.queued .tbl sl 2 h v rest →
              let marks := fun (n : EntVer) => ends (.tblDelete sl) (d.setEme sl l { e with ver := n }) 0
              (e.learned = true ∨ (e.ver.dp = false ∧ e.ver.settled = false ∧ e.ver.addVer = openV) → marks { e.ver with v := false })
              ∧ (e.learned = false → e.ver.dp = false → ¬ (e.ver.settled = false ∧ e.ver.addVer = openV) →
                marks { e.ver with dp := true, delVer := openV })
              ∧ (e.learned = false → e.ver.dp = true → ends (.tblDelete sl) d 5))
            ∧ (s.queued .tbl sl 3 h v rest →
              (e.learned = true → ends (.tblReplace sl) (d.setEme sl l { e with result := new.result }) 0)
              ∧ (e.learned = false →
                (∀ x, d.emEngine r new true = (.noRoom, x) → ends (.tblReplace sl) x 9)
                ∧ (∀ x, d.emEngine r new true = (.memErr, x) → ends (.tblReplace sl) x 8)
                ∧ (∀ n x k w, d.emEngine r new true = (.placed n, x) → e.ver.deleted ((x.vers.cur + 1) % 65536) = some w →
                  (x.emFind r key).find? (fun k => decide (k ≠ n) && decide ((x.eme sl k).ver = e.ver)) = some k →
                  ends (.tblReplace sl) (x.setEme sl k { x.eme sl k with ver := w }) 0)))))
        ∧ (r.kind = 2 →
          let v6 := (d.tcfg r).v6
          let addr := d.lpmAddrOf i v6
          let found := d.lpmExact r (d.lpmVrfOf i) addr (d.plenOf i) openV
          let new : LpmEnt := { vrf := d.lpmVrfOf i, addr := addr, plen := d.plenOf i, result := d.rd R.TBL_CMD_RESULT i, v6 := v6
                                ver := { v := true, addVer := openV } }
          (s.queued .tbl sl 1 h v rest → ¬ badKey →
            (∀ l, found = some l → ends (.tblAdd sl) d 4)
            ∧ (found = none → ends (.tblAdd sl) (d.lpmAdd r new).2 (if (d.lpmAdd r new).1.isSome then 0 else 9)))
          ∧ (∀ c ∈ rows.tail, s.queued .tbl sl c.2 h v rest → found = none → ends c.1 d 5)
          ∧ (∀ l, found = some l →
            let e := SMap.get {} d.tbl.lpm (sl.val * 2 ^ 21 + l)
            let leaves := fun (x : Dev) (k : Nat) (w : EntVer) => if w.v = true then x.setLpm sl k { e with ver := w } else x.clearLpm sl k
            (∀ c ∈ rows.tail, s.queued .tbl sl c.2 h v rest → e.ver.deleted openV = none → ends c.1 d 5)
            ∧ (∀ w, e.ver.deleted openV = some w →
              (s.queued .tbl sl 2 h v rest → ends (.tblDelete sl) (leaves d l w) 0)
              ∧ (s.queued .tbl sl 3 h v rest →
                (∀ x, d.lpmAdd r new = (none, x) → ends (.tblReplace sl) x 9)
                ∧ (∀ n x k y, d.lpmAdd r new = (some n, x) →
                  (x.lpmOf r).find? (fun z => decide (z.1 ≠ n) && decide (z.2 = e)) = some (k, y) → ends (.tblReplace sl) (leaves x k w) 0))))))))

/-- For host port h whose table command is oldest, in a slice that runs, at a command's turn, no memory in error. READ and LOOKUP with VSEL 3: BAD_OP. Any of the rows on a table not placed: NO_TABLE. On an exact-match table READ and LOOKUP return the entry of the staged key visible to the version of VSEL with HIT, and MISS without one. On an LPM table READ returns the visible prefix of exactly the staged VRF, address and length, with HIT; LOOKUP the visible prefix that covers the staged address and is longer than every other one, with HIT and its length in PLEN; each MISS without one; READ_SLOT and FLUSH_LEARNED: BAD_OP. READ_SLOT returns the location that TBL_CMD_LOC names, HIT its V; of a bucket outside the table: BAD_LOC. FLUSH_LEARNED frees the learned entries of the table, with BY_RESULT those whose RESULT agrees with the staged one under the mask, and no other entry of any table, where no learn is taken meanwhile; where learns are, it ends as the walk with them does (log 18). STAT returns the entries with V 1, of an exact-match table the learned ones and those in overflow as well, and of an LPM table the slots. Each ends with its status. Out of turn, in a slice that does not run, or where the oldest command has another OP, the rows change nothing. -/
def Obligations.TableEntriesAreReadAndFlushed : Prop :=
  ∀ (sl : SliceNo) (h cmd : Nat) (rest : List (Nat × Nat)) (during : List (BitVec 20)) (s : State), s.noUpsets →
    let turn := (s.dev.slc sl).st = .run ∧ (s.dev.learnReady sl = false ∨ (s.dev.tslice sl).lastKind ≠ 2)
    let d := s.dev.setTslice sl { s.dev.tslice sl with lastKind := 2 }
    let i := sl.val * 4 + h
    let ends := fun (c : Instr) (x : Dev) (status : Nat) => exec c s = .next { s with dev := x.cmdDone .tbl sl status }
    let both := [(Instr.tblRead sl, 4), (.tblLookup sl, 5)]
    let rows := both ++ [(.readSlot sl, 6), (.flushLearned ⟨sl, during⟩, 7), (.tblStat sl, 8)]
    (∀ c ∈ rows, ¬ turn ∨ s.dev.cmdHead .tbl sl c.2 = none → exec c.1 s = .next s)
    ∧ (turn →
    (∀ c ∈ both, s.queued .tbl sl c.2 h cmd rest → fld cmd 4 2 = 3 → ends c.1 d 7)
    ∧ (∀ c ∈ rows, s.queued .tbl sl c.2 h cmd rest → d.tblPlace sl i = none → ¬ (c.2 < 6 ∧ fld cmd 4 2 = 3) → ends c.1 d 2)
    ∧ (∀ r v, d.tblPlace sl i = some r → d.vselVer (fld cmd 4 2) = some v →
      (r.kind = 1 →
        (∀ c ∈ both, s.queued .tbl sl c.2 h cmd rest →
          (∀ l, d.emVisible r (d.emKeyOf i) v = some l → ends c.1 (d.emReturn i r l) 0x100)
          ∧ (d.emVisible r (d.emKeyOf i) v = none → ends c.1 d 1)))
      ∧ (r.kind = 2 →
        let addr := d.lpmAddrOf i (d.tcfg r).v6
        (s.queued .tbl sl 4 h cmd rest →
          (∀ l, d.lpmExact r (d.lpmVrfOf i) addr (d.plenOf i) v = some l → ends (.tblRead sl) (d.lpmReturn i sl l) 0x100)
          ∧ (d.lpmExact r (d.lpmVrfOf i) addr (d.plenOf i) v = none → ends (.tblRead sl) d 1))
        ∧ (s.queued .tbl sl 5 h cmd rest →
          let cover := (d.lpmOf r).filter (fun e => e.2.covers (d.lpmVrfOf i) addr && e.2.ver.visible v)
          (cover = [] → ends (.tblLookup sl) d 1)
          ∧ (SMap.wf {} d.tbl.lpm = true → ∀ w ∈ cover, (∀ x ∈ cover, x ≠ w → x.2.plen < w.2.plen) →
            ends (.tblLookup sl) (d.lpmReturn i sl w.1) (w.2.plen % 256 * 2 ^ 16 + 0x100)))))
    ∧ (∀ r, d.tblPlace sl i = some r →
      (s.queued .tbl sl 6 h cmd rest →
        let loc := d.rd R.TBL_CMD_LOC i
        (r.kind = 2 → ends (.readSlot sl) d 7)
        ∧ (r.kind = 1 →
          (fld loc 31 1 = 0 → r.buckets ≤ fld loc 0 19 → ends (.readSlot sl) d 0xA)
          ∧ (fld loc 31 1 = 0 → fld loc 0 19 < r.buckets →
            let l := r.slotLoc (fld loc 0 19) (fld loc 19 2)
            ends (.readSlot sl) (d.emReturn i r l) (if (d.eme sl l).ver.v then 0x100 else 0))
          ∧ (fld loc 31 1 = 1 →
            let l := 2097152 + fld loc 0 13
            ends (.readSlot sl) (d.emReturn i r l) (if (d.eme sl l).ver.v then 0x100 else 0))))
      ∧ (s.queued .tbl sl 7 h cmd rest →
        (r.kind = 2 → ends (.flushLearned ⟨sl, during⟩) d 7)
        ∧ (r.kind = 1 →
          let m := d.rd R.TBL_KEY (i * 5)
          let goes := fun (e : EmEnt) => e.learned = true
            ∧ (d.bitOf R.TBL_CMD_FLAGS i 8 = true → e.result &&& m = d.rd R.TBL_CMD_RESULT i &&& m)
          ends (.flushLearned ⟨sl, during⟩)
            (d.flushWalk r (fun e => !d.bitOf R.TBL_CMD_FLAGS i 8 || decide (e.result &&& m = d.rd R.TBL_CMD_RESULT i &&& m)) 0
              (during.map (·.toNat))) 0
          ∧ (during = [] → SMap.wf {} d.tbl.em = true →
            ∃ t, exec (.flushLearned ⟨sl, during⟩) s = .next t ∧ t.pending = s.pending
              ∧ (∀ e ∈ d.emAll r, goes e.2 → t.dev.eme sl e.1 = { e.2 with ver := { e.2.ver with v := false } })
              ∧ (∀ k, (∀ e ∈ d.emAll r, goes e.2 → sl.val * 2 ^ 22 + e.1 ≠ k) → SMap.get {} t.dev.tbl.em k = SMap.get {} d.tbl.em k))))
      ∧ (s.queued .tbl sl 8 h cmd rest →
        (r.kind = 1 → ends (.tblStat sl) (((d.wr R.TBL_RD_USED i (d.emAll r).length).wr R.TBL_RD_LEARNED i
          ((d.emAll r).filter (fun e => e.2.learned)).length).wr R.TBL_RD_OVF i (d.ovfOf sl r.id).length) 0)
        ∧ (r.kind = 2 → ends (.tblStat sl) (d.wr R.TBL_RD_USED i (((d.lpmOf r).map (fun e => if e.2.v6 then 2 else 1)).sum)) 0))))

/-- For a slice, no memory in error. LEARN_EXECUTE changes nothing where no learn is ready, while commands wait and a learn was the last taken, and in a slice that does not run. Else, with no undefined OP at the head of the commands, the oldest learn leaves: of a table not still placed where it was and learning: TBL_LEARN_BADTAB; of a key learned with that RESULT: HIT 1, AGE 0 and TBL_LEARN_REFRESH; with another: the new RESULT, TBL_LEARN_MOVES and a MOVED event; of a key with an entry not learned and visible to a live version or the open one: TBL_LEARN_STATIC; of another at the limit: TBL_LEARN_LIMIT with its event; below it, an insertion that finds room counts TBL_LEARNS with a LEARNED event, and one that does not TBL_LEARN_NOROOM with its events. TBL_SWEEP_DONE with a sweep running in a slice that runs: every exact-match entry that is not learned and every LPM prefix of the slice is settled or freed for the oldest live version, all others stand, and the sweep has ended; the whole pass in this step is log 18's choice. AGEING_PASS disabled or not yet due: nothing; due in a slice that does not run: a wake is asked for; due during a sweep: it waits; due otherwise: a learned entry of a table with an age limit loses HIT and starts at AGE 0, or grows older, or is freed at the limit; every other exact-match entry of the slice stands, and the next pass is a period away. -/
def Obligations.LearningRefreshesMovesAndAges : Prop :=
  ∀ (sl : SliceNo) (s : State), s.noUpsets →
    let d := s.dev
    let x := d.tslice sl
    let due := x.ageWait = true ∨ x.ageLast + max 1 (d.fldOf R.TBL_AGE_CTRL sl 0 16) * 100000000 ≤ d.now
    let b := if d.vers.oldLive then d.vers.old else d.vers.cur
    let frees := fun (v : EntVer) => v.v = true ∧ v.dp = true ∧ le16 v.delVer b = true
    let swept := fun (v : EntVer) => if v.v = true ∧ le16 v.addVer b = true then { v with settled := true } else v
    ((d.slc sl).st ≠ .run ∨ d.learnReady sl = false ∨ (d.cmdQ .tbl sl ≠ [] ∧ x.lastKind ≠ 2) → exec (.learnExecute sl) s = .next s)
    ∧ ((d.slc sl).st = .run →
      (∀ q qs, d.learnReady sl = true → (d.cmdQ .tbl sl = [] ∨ x.lastKind = 2) → x.learnQ = q :: qs →
        (∀ c, (d.cmdQ .tbl sl).head? = some c → opKnown .tbl (c.2 % 16) = true) →
        let d1 := (d.setTslice sl { x with learnQ := qs, lastKind := 1, learnAt := some d.now }).pmcAny sl 0x033 1
        let ends := fun (y : Dev) => exec (.learnExecute sl) s = .next { s with dev := y }
        let place := d.livePlaces.find? (fun r => decide (r.kind = 1) && decide (r.id = q.table) && decide (r.slice = sl.val)
            && decide (r.first = q.first) && decide (r.count = q.count) && (d.tcfg r).learnEn && decide ((d.tcfg r).born = q.born))
        (place = none → ends (d1.inc R.TBL_LEARN_BADTAB sl 1))
        ∧ (∀ r, place = some r →
          let here := d1.emFind r q.key
          (∀ l, here.find? (fun l => (d.eme sl l).learned) = some l →
            ((d.eme sl l).result = q.result → ends ((d1.setEme sl l { d.eme sl l with hit := true, age := 0 }).inc R.TBL_LEARN_REFRESH sl 1))
            ∧ ((d.eme sl l).result ≠ q.result → ends (((d1.setEme sl l { d.eme sl l with result := q.result, hit := true, age := 0 }).inc
                R.TBL_LEARN_MOVES sl 1).learnEvent sl 2 q.table q.key q.result)))
          ∧ ((∀ l ∈ here, (d.eme sl l).learned = false) →
            let seen := ∃ l ∈ here, ∃ v ∈ [b, d.vers.cur, (d.vers.cur + 1) % 65536], (d.eme sl l).ver.visible v = true
            let full := (d.tcfg r).learnMax ≠ 0 ∧ (d.tcfg r).learnMax ≤ d.learnedOf r
            (seen → ends (d1.inc R.TBL_LEARN_STATIC sl 1))
            ∧ (¬ seen → full → ends ((d1.inc R.TBL_LEARN_LIMIT sl 1).learnBudget sl 5 q.table q.key q.result))
            ∧ (¬ seen → ¬ full →
              ∀ e y, d1.emEngine r { key := q.key, result := q.result, ver := { v := true, settled := true }, learned := true, hit := true } false = (e, y) →
                (∀ n, e = .placed n → ends ((y.inc R.TBL_LEARNS sl 1).learnEvent sl 1 q.table q.key q.result))
                ∧ ((∀ n, e ≠ .placed n) →
                  ends (((y.inc R.TBL_LEARN_NOROOM sl 1).raiseBit R.TBL_EVENTS sl 3).learnBudget sl 4 q.table q.key q.result))))))
      ∧ (x.tblSweep = true → SMap.wf {} d.tbl.em = true → SMap.wf {} d.tbl.lpm = true →
        ∃ em lpm, exec (.tblSweepDone sl) s = .next { s with dev :=
              (({ d with tbl := { d.tbl with em := em, lpm := lpm } }).setTslice sl { x with tblSweep := false }).raiseBit R.TBL_EVENTS sl 0 }
          ∧ (∀ k, SMap.get {} em k =
            let e := SMap.get {} d.tbl.em k
            if k / 2 ^ 22 ≠ sl ∨ e.learned = true then e
            else { e with ver := if frees e.ver then { e.ver with v := false, dp := false, settled := false } else swept e.ver })
          ∧ (∀ k, SMap.get {} lpm k =
            let e := SMap.get {} d.tbl.lpm k
            if k / 2 ^ 21 ≠ sl then e else if frees e.ver then {} else { e with ver := swept e.ver })))
    ∧ (x.tblSweep = false ∨ (d.slc sl).st ≠ .run → exec (.tblSweepDone sl) s = .next s)
    ∧ (d.bitOf R.TBL_AGE_CTRL sl 31 = false ∨ ¬ due → exec (.ageingPass sl) s = .next s)
    ∧ (d.bitOf R.TBL_AGE_CTRL sl 31 = true → due →
      ((d.slc sl).st ≠ .run → exec (.ageingPass sl) s = .next { s with dev := d.wake sl })
      ∧ ((d.slc sl).st = .run → x.tblSweep = true → exec (.ageingPass sl) s = .next { s with dev := d.setTslice sl { x with ageWait := true } })
      ∧ ((d.slc sl).st = .run → x.tblSweep = false → (∀ e ∈ d.tbl.em, e.1 / 2 ^ 22 = sl → e.2.learned = false) →
        exec (.ageingPass sl) s = .next { s with dev :=
          ((if x.ageWait then d.inc R.TBL_AGE_LATE sl 1 else d).setTslice sl { x with ageWait := false, ageLast := d.now }).raiseBit R.TBL_EVENTS sl 5 })
      ∧ ((d.slc sl).st = .run → x.tblSweep = false → SMap.wf {} d.tbl.em = true →
        ∃ t, exec (.ageingPass sl) s = .next t ∧ t.pending = s.pending
          ∧ t.dev.tslice sl = { x with ageWait := false, ageLast := d.now }
          ∧ ∀ l < 2 ^ 22,
            let e := d.eme sl l
            let ages := fun (r : Place16) => e.ver.v = true ∧ e.learned = true ∧ ownerOf d.livePlaces sl l e = some r ∧ (d.tcfg r).ageLimit ≠ 0
            ((∀ r, ¬ ages r) → t.dev.eme sl l = e)
            ∧ (∀ r, ages r → t.dev.eme sl l = if e.hit then { e with hit := false, age := 0 }
              else if (d.tcfg r).ageLimit ≤ e.age + 1 then { e with ver := { e.ver with v := false } } else { e with age := e.age + 1 })))

/-- For a thread about to issue, with nothing else due: MOV, ADD, SUB, AND, OR, XOR, SHL, SHR, SAR and MUL without EXT, BFX and BFI with a field within EXT[11:0]: gD is the result modulo 2^64 (g0 discards it), PC moves on, and every other thread, channel, scratch word, frame and cell stands. Without SF the flags stand; with SF, Z and N follow the result, and C and V follow ADD and SUB; C and V of the others are open values (log 41). CMP writes no register and sets the four flags of gA minus B. -/
def Obligations.AluMicrowordsWriteResultAndFlags : Prop :=
  ∀ (sl : SliceNo) (th : ThreadNo) (m : Mw) (s : State), s.issues sl th m →
    let d := s.dev
    let x := d.thr sl th
    let a := x.reg m.a
    let b := if m.bi then m.imm else x.reg m.b
    let on := { x with pc := (x.pc + 1) % 65536, bpPass := false }
    let carry := if m.op = 0x02 then decide (2 ^ 64 ≤ a + b) else decide (b ≤ a)
    let ovf := fun (v : Nat) =>
      if m.op = 0x02 then decide (fld a 63 1 = fld b 63 1) && decide (fld a 63 1 ≠ fld v 63 1)
      else decide (fld a 63 1 ≠ fld b 63 1) && decide (fld a 63 1 ≠ fld v 63 1)
    let gives := fun (c : Instr) (v : Nat) =>
      let y := { on with regs := x.regsWith m.d (v % 2 ^ 64) }
      ∃ t cf vf, exec c s = .next t ∧ t.pending = s.pending ∧ d.sameBut t.dev sl th
        ∧ t.dev.thr sl th = (if m.sf then { y with z := decide (v % 2 ^ 64 = 0), n := decide (fld v 63 1 = 1), c := cf, v := vf } else y)
        ∧ (m.op = 0x02 ∨ m.op = 0x03 → cf = carry ∧ vf = ovf v)
    (∀ c ∈ [(Instr.aeMov sl th, 0x01, b), (.aeAdd sl th, 0x02, (a + b) % 2 ^ 64), (.aeSub sl th, 0x03, (a + 2 ^ 64 - b) % 2 ^ 64),
        (.aeAnd sl th, 0x04, a &&& b), (.aeOr sl th, 0x05, a ||| b), (.aeXor sl th, 0x06, a ^^^ b),
        (.aeShl sl th, 0x07, a * 2 ^ (b % 64)), (.aeShr sl th, 0x08, a / 2 ^ (b % 64)),
        (.aeSar sl th, 0x09, ofInt 64 (sext 64 a / 2 ^ (b % 64))), (.aeMul sl th, 0x0B, a * b)],
      m.op = c.2.1 → m.ext = 0 → gives c.1 c.2.2)
    ∧ (m.op = 0x0C → m.ext < 4096 → gives (.aeBfx sl th) (fld a (m.ext % 64) (fld m.ext 6 6 + 1)))
    ∧ (m.op = 0x0D → m.ext < 4096 → gives (.aeBfi sl th) (putFld (x.reg m.d) (m.ext % 64) (fld m.ext 6 6 + 1) b))
    ∧ (m.op = 0x0A → m.ext = 0 →
      let v := (a + 2 ^ 64 - b) % 2 ^ 64
      ∃ t, exec (.aeCmp sl th) s = .next t ∧ t.pending = s.pending ∧ d.sameBut t.dev sl th
        ∧ t.dev.thr sl th = { on with z := decide (v = 0), n := decide (fld v 63 1 = 1), c := carry, v := ovf v })

/-- For a thread about to issue, with nothing else due. Every row: of its microword whose predicate does not hold only PC moves on. NOP and YIELD: only PC moves on. BR: PC is TGT. CALL with fewer than eight return addresses pushes PC + 1 and goes to TGT; RET pops one. BRX goes to gA[15:0]. TIME puts seconds and nanoseconds in gD. MFTS reads and MTTS writes a trap-save item in its width. TRET goes to TS_PC, plus 1 with EXT[0], restores the flags and ends the trap. CHDISC empties the staged words. TMR with 0 stops the timer; otherwise it runs for B[31:0] core clocks. In all these cases nothing else of the array, the frames and the buffer changes. LD puts the scratch word that (gA + TGT) addresses in gD, ST writes B there, ATOM adds B there and returns the old value; no other scratch word, no other thread, no channel, frame or cell changes. -/
def Obligations.ControlMicrowordsMoveThePc : Prop :=
  ∀ (sl : SliceNo) (th : ThreadNo) (m : Mw) (s : State), s.standsAt sl th m →
    let d := s.dev
    let x := d.thr sl th
    let a := x.reg m.a
    let b := if m.bi then m.imm else x.reg m.b
    let here := { x with bpPass := false }
    let on := { here with pc := (x.pc + 1) % 65536 }
    let gives := fun (c : Instr) (y : Thread) =>
      ∃ t, exec c s = .next t ∧ t.pending = s.pending ∧ d.sameBut t.dev sl th ∧ t.dev.thr sl th = y
    let sets := fun (v : Nat) => { on with regs := x.regsWith m.d v }
    let rows := [(Instr.aeNop sl th, 0x00, 0), (.aeMov sl th, 0x01, 0), (.aeAdd sl th, 0x02, 0), (.aeSub sl th, 0x03, 0), (.aeAnd sl th, 0x04, 0),
      (.aeOr sl th, 0x05, 0), (.aeXor sl th, 0x06, 0), (.aeShl sl th, 0x07, 0), (.aeShr sl th, 0x08, 0), (.aeSar sl th, 0x09, 0), (.aeCmp sl th, 0x0A, 0),
      (.aeMul sl th, 0x0B, 0), (.aeBfx sl th, 0x0C, 0), (.aeBfi sl th, 0x0D, 0), (.aeBr sl th, 0x10, 0), (.aeCall sl th, 0x11, 0), (.aeRet sl th, 0x12, 0),
      (.aeBrx sl th, 0x13, 0), (.aeYield sl th, 0x14, 0), (.aeLd sl th, 0x18, 0), (.aeSt sl th, 0x19, 0), (.aeAtom sl th, 0x1A, 0), (.aeChrd sl th, 0x20, 0),
      (.aeChrdnb sl th, 0x21, 0), (.aeChwr sl th, 0x22, 0), (.aeChsend sl th, 0x23, 0), (.aeChdisc sl th, 0x24, 0), (.aeFld sl th, 0x28, 0),
      (.aeFst sl th, 0x29, 0), (.aeFalloc sl th, 0x2A, 0), (.aeFsend sl th, 0x2B, 0), (.aeFlen sl th, 0x2C, 0), (.aeCalloc sl th, 0x2D, 0),
      (.aeCfree sl th, 0x2E, 0), (.aeWait sl th, 0x30, 0), (.aeTmr sl th, 0x31, 0), (.aeSignal sl th, 0x32, 0), (.aeTctlStop sl th, 0x33, 1),
      (.aeTctlResume sl th, 0x33, 2), (.aeTctlRestart sl th, 0x33, 3), (.aeTctlDisable sl th, 0x33, 4), (.aeTctlDiscardStaged sl th, 0x33, 5),
      (.aeTctlReadState sl th, 0x33, 6), (.aeMfts sl th, 0x34, 0), (.aeMtts sl th, 0x35, 0), (.aeTret sl th, 0x36, 0), (.aeSwtrap sl th, 0x37, 0),
      (.aeMmrd sl th, 0x38, 0), (.aeMmwr sl th, 0x39, 0), (.aeTime sl th, 0x3A, 0)]
    (m.pred < 14 → predHolds x m.pred = false →
      ∀ c ∈ rows, m.op = c.2.1 → (m.op = 0x33 → m.ext % 16 = c.2.2) → gives c.1 on)
    ∧ (s.issues sl th m →
    (m.ext = 0 →
      (m.op = 0x00 → gives (.aeNop sl th) on)
      ∧ (m.op = 0x14 → gives (.aeYield sl th) on)
      ∧ (m.op = 0x10 → gives (.aeBr sl th) { here with pc := m.tgt % 65536 })
      ∧ (m.op = 0x11 → x.stack.length < 8 → gives (.aeCall sl th) { here with pc := m.tgt % 65536, stack := (x.pc + 1) % 65536 :: x.stack })
      ∧ (m.op = 0x12 → ∀ p ps, x.stack = p :: ps → gives (.aeRet sl th) { here with pc := p % 65536, stack := ps })
      ∧ (m.op = 0x13 → gives (.aeBrx sl th) { here with pc := a % 65536 })
      ∧ (m.op = 0x3A → gives (.aeTime sl th) (sets (d.time.secs % 2 ^ 32 * 2 ^ 32 + d.time.ns)))
      ∧ (m.op = 0x24 → gives (.aeChdisc sl th) { on with staged := [] }))
    ∧ (m.op = 0x34 → m.ext < 8 → gives (.aeMfts sl th) (sets (x.trapItem m.ext)))
    ∧ (m.op = 0x35 → m.ext < 8 → gives (.aeMtts sl th) (on.setTrapItem m.ext b))
    ∧ (m.op = 0x36 → m.ext < 2 → gives (.aeTret sl th) { here.setFlags x.tsFlags with pc := (x.tsPc + m.ext) % 65536, inTrap := false })
    ∧ (m.op = 0x31 → m.ext < 2 → gives (.aeTmr sl th) { on with
        timer := if b % 2 ^ 32 = 0 then none else some (d.now + (b % 2 ^ 32 * 20 + 26) / 27), expired := false, timerInt := decide (m.ext = 1) })
    ∧ (m.ext = 0 →
      let key := (sl.val * 32 + th.val / 8) * 4096 + (a + m.tgt) % 32768 / 8
      let old := (SMap.get 0 d.ae.scratch key).toNat
      let stores := fun (c : Instr) (y : Thread) (v : Nat) => ∃ t, exec c s = .next t ∧ t.pending = s.pending ∧ t.dev.thr sl th = y
        ∧ (∀ j, j ≠ sl.val * 256 + th.val → SMap.get {} t.dev.ae.threads j = SMap.get {} d.ae.threads j)
        ∧ (∀ j, SMap.get 0 t.dev.ae.scratch j = if j = key then BitVec.ofNat 64 v else SMap.get 0 d.ae.scratch j)
        ∧ t.dev.ae.chans = d.ae.chans ∧ t.dev.frames = d.frames ∧ t.dev.buf = d.buf
      (m.op = 0x18 → gives (.aeLd sl th) (sets old))
      ∧ (m.op = 0x19 → stores (.aeSt sl th) on b)
      ∧ (m.op = 0x1A → stores (.aeAtom sl th) (sets old) (old + b))))

/-- For a thread about to issue, with nothing else due and no idle read moved. The faults: ILLEGAL_OP (0x01, detail the low half of the microword) by the NOP row of a microword without an operation; SOFTWARE (0x1F, B[31:0]) by SWTRAP; STACK (0x0C, the depth) by CALL with eight return addresses and by RET with none; PRIVILEGE (0x02) by TCTL STOP of a thread other than the miller; CHAN_ACCESS (0x03, the channel) by CHWR and CHSEND to 0xF8 to 0xFA or 0xFD to 0xFF and by CHRD of a channel below 0xF8 that is not enabled or does not admit the engine; STAGE_CONFLICT (0x04, the channel staged for) and MSG_LENGTH (0x05, the channel) by CHWR for another channel than the staged words' and of a seventeenth word. Each: with a trap vector and outside a trap the thread goes to its vector with PC, flags, cause, detail and call depth saved, IN_TRAP set and the fault recorded as handled, and without REPORT_ALL nothing else of the array changes. With no vector, or within a trap, the thread is FAULTED, its PC the microword's, the fault recorded as not handled, and the event is raised in AE_EVENTS. Either way AE_THR_FAULTS of the thread and AE_FAULTS of the slice gain 1, and no other thread, no channel but 0xFE, no scratch word, frame or cell changes. -/
def Obligations.ThreadFaultsTrapOrStop : Prop :=
  ∀ (sl : SliceNo) (th : ThreadNo) (m : Mw) (s : State), s.issues sl th m → (s.dev.thr sl th).idleMove = false →
    let d := s.dev
    let x := d.thr sl th
    let r := d.recOf sl th
    let b := if m.bi then m.imm else x.reg m.b
    let c := m.tgt % 256
    let ch := d.chan sl c
    let barred := (0xF8 ≤ c ∧ c ≤ 0xFA) ∨ 0xFD ≤ c
    ∀ e ∈ [(Instr.aeNop sl th, 0x01, m.raw % 2 ^ 32, m.undefined = true), (.aeSwtrap sl th, 0x1F, b % 2 ^ 32, m.op = 0x37 ∧ m.ext = 0),
        (.aeCall sl th, 0x0C, x.stack.length % 2 ^ 32, m.op = 0x11 ∧ m.ext = 0 ∧ 8 ≤ x.stack.length),
        (.aeRet sl th, 0x0C, 0, m.op = 0x12 ∧ m.ext = 0 ∧ x.stack = []),
        (.aeTctlStop sl th, 0x02, 0, m.op = 0x33 ∧ m.ext = 1 ∧ th.val ≠ 7),
        (.aeChwr sl th, 0x03, c, m.op = 0x22 ∧ m.ext = 0 ∧ barred), (.aeChsend sl th, 0x03, c, m.op = 0x23 ∧ m.ext = 0 ∧ barred),
        (.aeChrd sl th, 0x03, c, m.op = 0x20 ∧ m.ext = 0 ∧ 1 ≤ m.d ∧ m.d ≤ 16 ∧ c < 0xF8 ∧ (ch.en = false ∨ fld ch.readers (th / 8) 1 = 0)),
        (.aeChwr sl th, 0x04, x.stageChan % 2 ^ 32, m.op = 0x22 ∧ m.ext = 0 ∧ ¬ barred ∧ x.staged ≠ [] ∧ x.stageChan ≠ c),
        (.aeChwr sl th, 0x05, c, m.op = 0x22 ∧ m.ext = 0 ∧ ¬ barred ∧ x.stageChan = c ∧ 16 ≤ x.staged.length)],
      e.2.2.2 →
      let y := { x with bpPass := false, faultCause := e.2.1, faultPc := x.pc }
      ∃ t, exec e.1 s = .next t ∧ t.pending = s.pending
        ∧ (∀ n ∈ [(R.AE_THR_FAULTS, sl.val * 256 + th.val), (R.AE_FAULTS, sl.val)], t.dev.rd64 n.1 n.2 = (d.rd64 n.1 n.2 + 1) % 2 ^ 64)
        ∧ (∀ j, j ≠ sl.val * 256 + th.val → SMap.get {} t.dev.ae.threads j = SMap.get {} d.ae.threads j)
        ∧ (∀ j, j ≠ sl.val * 256 + 0xFE → SMap.get {} t.dev.ae.chans j = SMap.get {} d.ae.chans j)
        ∧ t.dev.ae.scratch = d.ae.scratch ∧ t.dev.frames = d.frames ∧ t.dev.buf = d.buf
        ∧ (r.trapVec ≠ 0 → x.inTrap = false →
          t.dev.thr sl th = { y with
              faultHandled := true, tsPc := x.pc, tsFlags := x.flags, tsCause := e.2.1, tsDetail := e.2.2.1, tsCsp := x.stack.length
              inTrap := true, pc := r.trapVec }
          ∧ (r.reportAll = false → t.dev.ae.chans = d.ae.chans))
        ∧ (r.trapVec = 0 ∨ x.inTrap = true →
          t.dev.thr sl th = { y with st := .faulted, faultHandled := false } ∧ t.dev.bitOf R.AE_EVENTS sl 0 = true)

/-- For a thread about to issue, with nothing else due, and a channel c below 0xF8 named by TGT, or with IND by gA. CHWR with room among the staged words of c stages B; with SEND it then commits as CHSEND does. CHSEND of staged words of c within its CAP: with that many words free one message of their count enters c, none is staged, PC moves on; with fewer the thread is BLK_WR there; with none staged only PC moves on. CHRD by an allowed engine of an enabled channel without a message, or whose waiting readers have its PRIO or more: BLK_RD (IDLE with its bit); CHRDNB then answers 1 in gD with X set, and 2 of a channel not enabled. Of a message that the thread may take: its words, of a frame the header with its slot and the tag's first words, are in gD onward, X is clear, the message is gone, the frame is in the lowest free slot. MESSAGE_DELIVER gives such a message to the thread in BLK_RD that comes first. BLOCKED_COMMIT sends what waits once it fits, unless a lower thread commits first. STEER_TO_CHANNEL of a steered frame that no earlier one precedes: into its channel; counted in AE_STEER_BAD_DROPS where that is not in service, in AE_CHAN_DROPS where it is full; a discarded one is only passed over. CHANNEL_CFG_UPDATE gives an empty channel its new record. Each of the last four changes nothing where it has nothing to do or the slice does not run. -/
def Obligations.ChannelMicrowordsStageSendAndRead : Prop :=
  ∀ (sl : SliceNo) (th : ThreadNo) (c : ChannelNo) (m : Mw) (s : State), c.val < 0xF8 →
    let d := s.dev
    let x := d.thr sl th
    let ch := d.chan sl c
    let a := x.reg m.a
    let b := if m.bi then m.imm else x.reg m.b
    let here := { x with bpPass := false }
    let on := { here with pc := (x.pc + 1) % 65536 }
    let named := (if fld m.ext 0 1 = 1 then a % 256 else m.tgt % 256) = c.val
    let only := fun (i : Instr) (y : Thread) => ∃ t, exec i s = .next t ∧ t.pending = s.pending ∧ d.sameBut t.dev sl th ∧ t.dev.thr sl th = y
    let sends := fun (i : Instr) (ws : List DWord) (y : Thread) => ∃ t g, exec i s = .next t ∧ t.pending = s.pending ∧ t.dev.thr sl th = y
      ∧ (t.dev.chan sl c).en = ch.en ∧ (t.dev.chan sl c).cap = ch.cap ∧ (t.dev.chan sl c).readers = ch.readers
      ∧ (t.dev.chan sl c).msgs = ch.msgs ++ [g] ∧ g.frame = none
      ∧ g.words = BitVec.ofNat 64 (packFields [(63, 1, 1), (58, 4, ws.length - 1), (48, 8, th), (0, 44, (ws.map BitVec.toNat).headD 0)]) :: ws.drop 1
    let framed := fun (g : Msg) => g.frame.bind d.frame
    let mayTake := fun (w : Nat) (g : Msg) => g.words ≠ [] ∧ g.words.length ≤ 16
      ∧ ∀ f, framed g = some f → (d.thr sl w).freeSlot ≠ none ∧ (f.hasTag = true → f.tag.epoch = (d.thr sl w).epoch)
    let reads := fun (i : Instr) (w dst : Nat) (g : Msg) (rest : List Msg) => ∃ t, exec i s = .next t ∧ t.pending = s.pending
      ∧ t.dev.chan sl c = { ch with msgs := rest } ∧ (t.dev.thr sl w).st = .run ∧ (t.dev.thr sl w).x = false
      ∧ (t.dev.thr sl w).pc = ((d.thr sl w).pc + 1) % 65536
      ∧ (framed g = none → (t.dev.thr sl w).slots = (d.thr sl w).slots
        ∧ ∀ k : Fin 16, k.val < g.words.length → (t.dev.thr sl w).reg (dst + k) = (g.words.getD k 0).toNat)
      ∧ (∀ fid f k, g.frame = some fid → d.frame fid = some f → (d.thr sl w).freeSlot = some k →
        (t.dev.thr sl w).slots = SMap.set 0 (d.thr sl w).slots k (fid + 1)
        ∧ (t.dev.thr sl w).reg dst = putFld (g.words.getD 0 0).toNat 0 44 (frameBody f k) % 2 ^ 64
        ∧ (t.dev.thr sl w).reg (dst + 1) = (f.tag.words.getD 0 0 + f.tag.words.getD 1 0 * 2 ^ 32) % 2 ^ 64)
    (s.issues sl th m → named →
      (m.op = 0x22 → x.staged.length < 16 → x.staged = [] ∨ x.stageChan = c →
        let ws := x.staged ++ [BitVec.ofNat 64 b]
        (m.ext < 2 → only (.aeChwr sl th) { on with staged := ws, stageChan := c })
        ∧ (4 ≤ m.ext → m.ext < 6 → ws.length ≤ ch.cap →
          (ws.length ≤ d.chanFree sl c → sends (.aeChwr sl th) ws { on with staged := [], stageChan := c, sendWaits := false, sendOwn := false })
          ∧ (d.chanFree sl c < ws.length → only (.aeChwr sl th) { here with
              st := .blkWr, since := d.now, staged := ws, stageChan := c, sendWaits := true, sendOwn := true })))
      ∧ (m.op = 0x23 → m.ext < 2 →
        (x.staged = [] → only (.aeChsend sl th) on)
        ∧ (x.staged ≠ [] → x.stageChan = c → x.staged.length ≤ ch.cap →
          (x.staged.length ≤ d.chanFree sl c → sends (.aeChsend sl th) x.staged { on with staged := [], sendWaits := false, sendOwn := false })
          ∧ (d.chanFree sl c < x.staged.length → only (.aeChsend sl th) { here with st := .blkWr, since := d.now, sendWaits := true, sendOwn := false })))
      ∧ (fld ch.readers (th / 8) 1 = 1 →
        let waits := ch.msgs = [] ∨ ∃ w ∈ d.waiters sl c, (d.recOf sl th).prio ≤ (d.recOf sl w).prio
        (m.op = 0x21 → m.ext < 2 → 1 ≤ m.d → m.d ≤ 16 → ch.en = false → only (.aeChrdnb sl th) { on with regs := x.regsWith m.d 2, x := true })
        ∧ (ch.en = true → waits →
          (m.op = 0x20 → m.ext < 2 → 1 ≤ m.d → m.d ≤ 16 → only (.aeChrd sl th) { here with st := .blkRd, since := d.now, rdChan := c, rdDst := m.d })
          ∧ (m.op = 0x20 → 2 ≤ m.ext → m.ext < 4 → only (.aeChrd sl th) { here with st := .idle, since := d.now, rdChan := c, rdDst := m.d })
          ∧ (m.op = 0x21 → m.ext < 2 → 1 ≤ m.d → m.d ≤ 16 → only (.aeChrdnb sl th) { on with regs := x.regsWith m.d 1, x := true }))
        ∧ (∀ g rest, ch.en = true → ¬ waits → ch.msgs = g :: rest → mayTake th g → m.ext < 2 → 1 ≤ m.d → m.d ≤ 16 →
          (m.op = 0x20 → reads (.aeChrd sl th) th m.d g rest) ∧ (m.op = 0x21 → reads (.aeChrdnb sl th) th m.d g rest))))
    ∧ ((d.slc sl).st ≠ .run ∨ ch.msgs = [] ∨ d.nextReader sl c = none → exec (.messageDeliver sl c) s = .next s)
    ∧ (∀ g rest w, (d.slc sl).st = .run → ch.msgs = g :: rest → mayTake w g → s.noUpsets →
      d.nextReader sl c = some w → (d.thr sl w).st = .blkRd → 1 ≤ (d.thr sl w).rdDst → (d.thr sl w).rdDst ≤ 16 →
      (d.thr sl w).stepping = false → (d.thr sl w).timerIrq = false → (d.thr sl w).sigIrq = false →
      reads (.messageDeliver sl c) w (d.thr sl w).rdDst g rest)
    ∧ ((d.slc sl).st ≠ .run ∨ x.st ≠ .blkWr ∨ d.commitsAfter sl th = true → exec (.blockedCommit sl th) s = .next s)
    ∧ ((d.slc sl).st = .run → x.st = .blkWr → d.commitsAfter sl th = false → (mwOf (d.mwAt sl x.epoch x.pc)).op ≠ 0x2B →
      x.stageChan = c → x.staged ≠ [] → s.noUpsets → x.stepping = false → x.timerIrq = false → x.sigIrq = false →
      (x.staged.length ≤ d.chanFree sl c → sends (.blockedCommit sl th) x.staged
        { x with pc := (x.pc + 1) % 65536, st := .run, staged := [], sendWaits := false, sendOwn := false })
      ∧ (d.chanFree sl c < x.staged.length → exec (.blockedCommit sl th) s = .next s))
    ∧ (∀ fid f, d.frame fid = some f → f.dest = .array c → f.slice = sl →
      (f.steered = true ∨ (d.slc sl).st ≠ .run ∨ d.steersAfter fid f c = true → exec (.steerToChannel fid) s = .next s)
      ∧ (f.steered = false → (d.slc sl).st = .run → d.steersAfter fid f c = false →
        (f.fate = .discarded → exec (.steerToChannel fid) s = .next { s with dev := d.setFrame fid { f with steered := true } })
        ∧ (f.fate ≠ .discarded → d.forced f.tag = none → s.noUpsets →
          (ch.en = true → 2 ≤ d.chanFree sl c → ∃ t g, exec (.steerToChannel fid) s = .next t ∧ t.pending = s.pending
            ∧ (t.dev.chan sl c).msgs = ch.msgs ++ [g] ∧ g.frame = some fid ∧ t.dev.frame fid = some { f with steered := true })
          ∧ (∀ e ∈ [(ch.en = false, R.AE_STEER_BAD_DROPS, sl.val), (ch.en = true ∧ d.chanFree sl c < 2, R.AE_CHAN_DROPS, sl.val * 256 + c.val)],
            e.1 → ∃ t, exec (.steerToChannel fid) s = .next t ∧ t.pending = s.pending
              ∧ (t.dev.chan sl c).msgs = ch.msgs ∧ t.dev.rd64 e.2.1 e.2.2 = (d.rd64 e.2.1 e.2.2 + 1) % 2 ^ 64))))
    ∧ (ch.cfgDue = true → ch.msgs = [] → (d.slc sl).st = .run → exec (.channelCfgUpdate sl c) s = .next { s with dev :=
      (d.setChan sl c { ch with en := (chanRec d.runImage sl c).1, cap := (chanRec d.runImage sl c).2.1
                                readers := (chanRec d.runImage sl c).2.2, cfgDue := false }) })
    ∧ (¬ (ch.cfgDue = true ∧ ch.msgs = [] ∧ (d.slc sl).st = .run) → exec (.channelCfgUpdate sl c) s = .next s)

/-- For a thread about to issue, with nothing else due. With its share free and a cell on the free list: FALLOC into a free slot makes an empty complete frame in that cell there, CALLOC puts the cell, owned by the thread, in gD; both clear X. Without room they set X alone, or with WAIT the thread is BLK_SHARE. CFREE asks for the cell to be freed. FLD puts bytes of a frame space, or with CELL of a cell of the thread, in gD; for bytes not yet there of an incomplete frame it waits. FST stores in USER of the tag, in bytes of a complete frame, or with CELL in a cell. FLEN that needs the same cells keeps them and sets the length. FSEND empties the slot: to 0xFA the cells are to be freed; to a channel with room the frame is its newest message; to 0xF8 with an outbound entry it is offered to its pipeline, and to 0xF9 it is punted; without that room or entry the thread is BLK_WR. Faults: BAD_HANDLE (0x06) of a slot without a frame, or not free for FALLOC; SHARE (0x0A) above BUF_MAX; FRAME_RANGE (0x09) of FLD past the end of a complete frame; CHAN_ACCESS (0x03) of FSEND to 0xFB and above; MSG_LENGTH (0x05) to a channel of CAP below 2. SHARE_ALLOCATE of a waiting CALLOC or FALLOC and FLD_DATA_ARRIVE of a waiting FLD take it up again when it can complete and change nothing before. -/
def Obligations.FrameAndCellMicrowordsHoldAndRelease : Prop :=
  ∀ (sl : SliceNo) (th : ThreadNo) (m : Mw) (s : State),
    let d := s.dev
    let x := d.thr sl th
    let a := x.reg m.a
    let b := if m.bi then m.imm else x.reg m.b
    let here := { x with bpPass := false }
    let on := { here with pc := (x.pc + 1) % 65536 }
    let cell := d.buf.fresh
    let free := d.buf.withheld = [] ∧ cell < cellCount
    let k := m.ext % 16
    let made := fun (y : Dev) => y.nextFid = d.nextFid + 1
      ∧ ∃ f, y.frame d.nextFid = some f ∧ f.cells = [cell] ∧ f.bufWhole = true ∧ f.arrLen = 0 ∧ f.place = .array
    let owned := fun (y : Dev) => y.buf.fresh = cell + 1 ∧ (y.cellRec cell).alloc = true ∧ (y.cellRec cell).owner = partyThread sl th
    let gives := fun (c : Instr) (y : Thread) (also : Dev → Prop) => ∃ t, exec c s = .next t ∧ t.pending = s.pending ∧ t.dev.thr sl th = y
      ∧ (∀ j, j ≠ sl.val * 256 + th.val → SMap.get {} t.dev.ae.threads j = SMap.get {} d.ae.threads j) ∧ t.dev.ae.scratch = d.ae.scratch ∧ also t.dev
    let same := fun (y : Dev) => y.ae.chans = d.ae.chans ∧ y.frames = d.frames ∧ y.buf = d.buf
    let o := (a + m.tgt) % 2 ^ 64
    let n := m.count
    let ci := fld a 8 20
    let co := a % 256 + m.tgt
    let mine := m.ext = fld m.ext 4 4 * 16 + 256 ∧ n ≤ 8 ∧ ci < cellCount ∧ (d.cellRec ci).alloc = true ∧ (d.cellRec ci).owner = partyThread sl th ∧ co + n ≤ 256
    let bytes := SMap.get [] d.buf.data ci
    let none_ := d.slotFrame sl th k = none
    let tgt := m.tgt % 256
    (s.issues sl th m →
      (m.op = 0x2A → m.ext % 256 < 16 → m.ext < 512 → SMap.get 0 x.slots k = 0 →
        (d.shareFor sl th 1 = .ok → free → gives (.aeFalloc sl th) { on with x := false, slots := SMap.set 0 x.slots k (d.nextFid + 1) } made)
        ∧ (d.shareFor sl th 1 = .wait → m.ext < 256 → gives (.aeFalloc sl th) { on with x := true } same)
        ∧ (d.shareFor sl th 1 = .wait → 256 ≤ m.ext → gives (.aeFalloc sl th) { here with st := .blkShare, since := d.now } same))
      ∧ (m.op = 0x2D → m.ext = 0 ∨ m.ext = 256 →
        (d.shareFor sl th 1 = .ok → free → gives (.aeCalloc sl th) { on with x := false, regs := x.regsWith m.d cell } owned)
        ∧ (d.shareFor sl th 1 = .wait → m.ext = 0 → gives (.aeCalloc sl th) { on with x := true } same)
        ∧ (d.shareFor sl th 1 = .wait → m.ext = 256 → gives (.aeCalloc sl th) { here with st := .blkShare, since := d.now } same))
      ∧ (m.op = 0x2E → m.ext = 0 → gives (.aeCfree sl th) on (fun y =>
          y.buf = { d.buf with freeReq := d.buf.freeReq ++ [(a % 2 ^ 20, partyThread sl th)] } ∧ y.frames = d.frames))
      ∧ (m.op = 0x28 → mine → gives (.aeFld sl th) { on with regs := x.regsWith m.d (beNat (cellBytes bytes co n)) } same)
      ∧ (m.op = 0x29 → mine → gives (.aeFst sl th) on (fun y =>
          y.buf = { d.buf with data := SMap.set [] d.buf.data ci (spliceAt (cellBytes bytes 0 256) co (beBytes n b)) } ∧ y.frames = d.frames))
      ∧ (∀ fid f, d.slotFrame sl th k = some (fid, f) →
        (m.op = 0x28 → m.ext < 256 → n ≤ 8 → o + n ≤ 64 + 16383 →
          (o + n ≤ 64 ∨ (o + n - 65 < (d.arrBytes f).length ∧ (f.bufWhole = true → o + n - 65 < f.arrLen)) →
            gives (.aeFld sl th) { on with regs := x.regsWith m.d (beNat (slice (f.spaceHead ++ d.arrBytes f) o n)) } same)
          ∧ (64 < o + n → f.bufWhole = false → (d.arrBytes f).length ≤ o + n - 65 → gives (.aeFld sl th) { here with fldWait := true } same))
        ∧ (m.op = 0x29 → m.ext < 256 → n ≤ 8 → f.bufWhole = true →
          (20 ≤ o → o + n ≤ 32 → gives (.aeFst sl th) on (fun y =>
            y.buf = d.buf ∧ y.frame fid = some { f with tag := f.tag.storeUser o (beBytes n b) }))
          ∧ (64 ≤ o → o - 64 + n ≤ f.arrLen → f.arrLen ≤ 16383 →
            let y := d.arrWrite fid f (spliceAt (d.arrBytes f) (o - 64) (beBytes n b)) ((o - 64) / 256) ((o - 64 + n - 1) / 256)
            gives (.aeFst sl th) on (fun z => z.buf = y.buf ∧ z.frames = y.frames)))
        ∧ (m.op = 0x2C → m.ext < 16 → f.bufWhole = true → b ≤ 16383 → arrCells b = f.cells.length →
          gives (.aeFlen sl th) on (fun y => ∃ g, y.frame fid = some g ∧ g.cells = f.cells ∧ g.tag = f.tag
            ∧ g.blen = ((d.arrBytes f).take b).length + (b - f.arrLen)))
        ∧ (m.op = 0x2B → m.ext < 16 →
          let gone := { on with slots := SMap.set 0 x.slots k 0 }
          (tgt = 0xFA → gives (.aeFsend sl th) gone (fun y => y.buf.freeReq = d.buf.freeReq ++ f.cells.map (fun c => (c, partyFrame))))
          ∧ (tgt < 0xF8 → 2 ≤ (d.chan sl tgt).cap → 2 ≤ d.chanFree sl tgt → gives (.aeFsend sl th) gone (fun y =>
              y.frames = d.frames ∧ ∃ g, (y.chan sl tgt).msgs = (d.chan sl tgt).msgs ++ [g] ∧ g.frame = some fid))
          ∧ (tgt = 0xF8 → d.outFree sl th = true → gives (.aeFsend sl th) gone (fun y =>
              (y.isa (sl * 4 + b % 4)).aeRet = (d.isa (sl * 4 + b % 4)).aeRet ++ [d.nextFid] ∧ y.nextFid = d.nextFid + 1))
          ∧ (tgt = 0xF9 → d.outFree sl th = true → gives (.aeFsend sl th) gone (fun y => y.ae.chans = d.ae.chans))
          ∧ ((tgt < 0xF8 ∧ 2 ≤ (d.chan sl tgt).cap ∧ d.chanFree sl tgt < 2) ∨ ((tgt = 0xF8 ∨ tgt = 0xF9) ∧ d.outFree sl th = false) →
            gives (.aeFsend sl th) { here with st := .blkWr, since := d.now } same)))
      ∧ (∀ e ∈ [(Instr.aeFalloc sl th, 0x06, m.op = 0x2A ∧ m.ext < 16 ∧ SMap.get 0 x.slots k ≠ 0),
            (.aeFld sl th, 0x06, m.op = 0x28 ∧ m.ext < 256 ∧ n ≤ 8 ∧ none_), (.aeFst sl th, 0x06, m.op = 0x29 ∧ m.ext < 256 ∧ n ≤ 8 ∧ none_),
            (.aeFlen sl th, 0x06, m.op = 0x2C ∧ m.ext < 16 ∧ none_), (.aeFsend sl th, 0x06, m.op = 0x2B ∧ m.ext < 16 ∧ none_),
            (.aeFalloc sl th, 0x0A, m.op = 0x2A ∧ m.ext < 16 ∧ SMap.get 0 x.slots k = 0 ∧ d.shareFor sl th 1 = .above),
            (.aeCalloc sl th, 0x0A, m.op = 0x2D ∧ m.ext = 0 ∧ d.shareFor sl th 1 = .above),
            (.aeFld sl th, 0x09, m.op = 0x28 ∧ m.ext < 256 ∧ n ≤ 8 ∧ 64 < o + n
              ∧ ∃ fid f, d.slotFrame sl th k = some (fid, f) ∧ f.bufWhole = true ∧ f.arrLen ≤ o + n - 65),
            (.aeFsend sl th, 0x03, m.op = 0x2B ∧ m.ext < 16 ∧ ¬ none_ ∧ 0xFB ≤ tgt),
            (.aeFsend sl th, 0x05, m.op = 0x2B ∧ m.ext < 16 ∧ ¬ none_ ∧ tgt < 0xF8 ∧ (d.chan sl tgt).cap < 2)],
          e.2.2 → ∃ t, exec e.1 s = .next t ∧ t.pending = s.pending ∧ (t.dev.thr sl th).faultCause = e.2.1 ∧ t.dev.frames = d.frames ∧ t.dev.buf = d.buf))
    ∧ ((d.slc sl).st ≠ .run ∨ x.st ≠ .blkShare → exec (.shareAllocate sl th) s = .next s)
    ∧ ((d.slc sl).st ≠ .run ∨ x.fldWait = false → exec (.fldDataArrive sl th) s = .next s)
    ∧ ((d.slc sl).st = .run → mwOf (d.mwAt sl x.epoch x.pc) = m → m.rsv = 0 → s.noUpsets →
      x.stepping = false → x.timerIrq = false → x.sigIrq = false →
      let again := { x with st := .run, fldWait := false, pc := (x.pc + 1) % 65536 }
      (x.st = .blkShare → (m.op = 0x2D ∧ m.ext = 256) ∨ (m.op = 0x2A ∧ 256 ≤ m.ext ∧ m.ext < 272 ∧ SMap.get 0 x.slots k = 0) →
        (d.shareFor sl th 1 = .wait → exec (.shareAllocate sl th) s = .next s)
        ∧ (d.shareFor sl th 1 = .ok → free →
          (m.op = 0x2D → gives (.shareAllocate sl th) { again with x := false, regs := x.regsWith m.d cell } owned)
          ∧ (m.op = 0x2A → gives (.shareAllocate sl th) { again with x := false, slots := SMap.set 0 x.slots k (d.nextFid + 1) } made)))
      ∧ (∀ fid f, x.st = .run → x.fldWait = true → m.op = 0x28 → m.ext < 256 → n ≤ 8 → d.slotFrame sl th k = some (fid, f) →
        64 < o + n → o + n ≤ 64 + 16383 → f.bufWhole = false →
        ((d.arrBytes f).length ≤ o + n - 65 → exec (.fldDataArrive sl th) s = .next s)
        ∧ (o + n - 65 < (d.arrBytes f).length →
          gives (.fldDataArrive sl th) { again with regs := x.regsWith m.d (beNat (slice (f.spaceHead ++ d.arrBytes f) o n)) } same)))

/-- For a thread about to issue, with nothing else due. WAIT whose condition holds: PC moves on, and SIGPEND clears if it was the condition; of another: WAITING with its condition, operands and TMO noted. SIGNAL to a thread sets its SIGPEND; one in RUN outside a trap, with signal interrupts on and a trap vector, enters its trap with cause 0x21. WAIT_SATISFIED of a thread that waits in a running slice: when the condition holds it goes on in RUN at the next microword; otherwise, and of any other thread, nothing changes. AE_TIMER_EXPIRE of a running timer at its time in a running slice: it is expired and off; a thread that waits with TMO goes on in RUN with X set; a timer with interrupt makes a thread in RUN outside a trap enter its trap with cause 0x20, and with no trap vector the interrupt stays raised (the model's choice, log 47); before that time, with no timer running or in a slice that does not run, nothing changes. No other thread, channel, scratch word, frame or cell changes. -/
def Obligations.WaitsTimersAndSignals : Prop :=
  ∀ (sl : SliceNo) (th : ThreadNo) (m : Mw) (s : State),
    let d := s.dev
    let x := d.thr sl th
    let a := x.reg m.a
    let b := if m.bi then m.imm else x.reg m.b
    let on := { x with bpPass := false, pc := (x.pc + 1) % 65536 }
    let only := fun (c : Instr) (y : Thread) => ∃ t, exec c s = .next t ∧ t.pending = s.pending ∧ d.sameBut t.dev sl th ∧ t.dev.thr sl th = y
    let traps := fun (y : Thread) (vec cause : Nat) => { y with
      tsPc := y.pc, tsFlags := y.flags, tsCause := cause, tsDetail := 0, tsCsp := y.stack.length, inTrap := true, pc := vec, bpPass := false }
    (s.issues sl th m →
      (m.op = 0x30 → m.ext < 32 → m.ext % 16 ≤ 5 →
        (d.waitHolds sl th (m.ext % 16) a b = true →
          only (.aeWait sl th) { on with sigpend := if m.ext % 16 = 1 then false else x.sigpend })
        ∧ (d.waitHolds sl th (m.ext % 16) a b = false →
          only (.aeWait sl th) { x with bpPass := false, st := .waiting, since := d.now, waitCond := m.ext % 16, waitA := a, waitB := b
                                        waitTmo := decide (16 ≤ m.ext) }))
      ∧ (m.op = 0x32 → m.ext = 0 → b % 256 = th → (d.recOf sl th).sigInt = false → only (.aeSignal sl th) { on with sigpend := true })
      ∧ (∀ u : Fin 256, m.op = 0x32 → m.ext = 0 → b % 256 = u → u ≠ th → (d.thr sl u).timerIrq = false → (d.thr sl u).sigIrq = false →
        let y := { d.thr sl u with sigpend := true }
        let r := d.recOf sl u
        let sends := fun (z : Thread) => ∃ t, exec (.aeSignal sl th) s = .next t ∧ t.pending = s.pending ∧ t.dev.thr sl th = on ∧ t.dev.thr sl u = z
          ∧ (∀ j, j ≠ sl.val * 256 + th.val → j ≠ sl.val * 256 + u.val → SMap.get {} t.dev.ae.threads j = SMap.get {} d.ae.threads j)
          ∧ t.dev.ae.chans = d.ae.chans ∧ t.dev.ae.scratch = d.ae.scratch ∧ t.dev.frames = d.frames ∧ t.dev.buf = d.buf
        (r.sigInt = false → sends y)
        ∧ (r.sigInt = true → r.trapVec ≠ 0 → y.st = .run → y.fldWait = false → y.inTrap = false → sends (traps y r.trapVec 0x21))))
    ∧ (x.stepping = false → x.timerIrq = false → x.sigIrq = false →
      ((d.slc sl).st = .run → x.st = .waiting → d.waitHolds sl th x.waitCond x.waitA x.waitB = true →
        only (.waitSatisfied sl th) { x with st := .run, pc := (x.pc + 1) % 65536, sigpend := if x.waitCond = 1 then false else x.sigpend })
      ∧ (∀ due, x.timer = some due → due ≤ d.now → (d.slc sl).st = .run →
        let y := { x with timer := none, expired := true }
        let r := d.recOf sl th
        (x.timerInt = false →
          (x.st = .waiting → x.waitTmo = true → only (.aeTimerExpire sl th) { y with st := .run, x := true, pc := (x.pc + 1) % 65536 })
          ∧ (x.st ≠ .waiting ∨ x.waitTmo = false → only (.aeTimerExpire sl th) y))
        ∧ (x.timerInt = true → x.st = .run → x.fldWait = false → x.inTrap = false →
          (r.trapVec ≠ 0 → only (.aeTimerExpire sl th) (traps y r.trapVec 0x20))
          ∧ (r.trapVec = 0 → only (.aeTimerExpire sl th) { y with timerIrq := true }))))
    ∧ ((d.slc sl).st ≠ .run ∨ x.st ≠ .waiting ∨ d.waitHolds sl th x.waitCond x.waitA x.waitB = false → exec (.waitSatisfied sl th) s = .next s)
    ∧ ((d.slc sl).st ≠ .run ∨ x.timer = none ∨ (∃ due, x.timer = some due ∧ d.now < due) → exec (.aeTimerExpire sl th) s = .next s)

/-- For a thread u of a running slice, no idle read moved and no interrupt waiting. By TCTL of the miller, about to issue, of another thread, and by the thread command of a linked host port while debug is not disabled: STOP of a thread that is not DISABLED, FAULTED or STOPPED: STOPPED now, a blocked or waiting microword abandoned with the word that a CHWR with SEND staged; of another nothing changes; RESUME of a stopped one: RUN past its breakpoint, of another nothing; DISCARD_STAGED: none staged and AE_STAGED_DISCARDS gains their count; RESTART and DISABLE: a fresh thread at its record's entry, RUN when the record enables it and an image runs, DISABLED by DISABLE, timer and SIGPEND kept (log 50), and where it held no frame and no cell no frame changes. By a host alone: STEP of a stopped thread lets it run for one microword, and SIGNAL sets SIGPEND where no signal interrupt is on. READ_STATE puts the status of u in the miller's gD; TCTL of the miller on itself only sets its X. With AE_DEBUG_DIS a host's STOP and STEP only set AE_DBG_STATUS. BREAKPOINT_STOP stops a thread whose next microword a breakpoint matches and changes nothing otherwise. TCTL by another thread is a PRIVILEGE fault (0x02). -/
def Obligations.ThreadsAreStoppedRunAndRestarted : Prop :=
  ∀ (h : HostNo) (sl : SliceNo) (th u : ThreadNo) (m : Mw) (s : State),
    (s.dev.thr sl u).idleMove = false → (s.dev.thr sl u).timerIrq = false → (s.dev.thr sl u).sigIrq = false →
    let d := s.dev
    let y := d.thr sl u
    let b := if m.bi then m.imm else (d.thr sl th).reg m.b
    let gives := fun (c : Instr) (z : Thread) => ∃ t, exec c s = .next t ∧ t.pending = s.pending ∧ t.dev.thr sl u = z
      ∧ t.dev.ae.chans = d.ae.chans ∧ t.dev.ae.scratch = d.ae.scratch ∧ (y.slots = [] → (∀ r ∈ d.buf.recs, r.2.alloc = true → r.2.owner ≠ partyThread sl u) → t.dev.frames = d.frames)
      ∧ (∀ j, j ≠ sl.val * 256 + u.val → j ≠ sl.val * 256 + th.val → SMap.get {} t.dev.ae.threads j = SMap.get {} d.ae.threads j)
    let lost := fun (c : Instr) (n : Nat) => ∀ t, exec c s = .next t →
      t.dev.rd64 R.AE_STAGED_DISCARDS sl = (d.rd64 R.AE_STAGED_DISCARDS sl + n) % 2 ^ 64
    let miller := s.issues sl th m ∧ th.val = 7 ∧ m.op = 0x33
    let byMiller := miller ∧ b % 256 = u ∧ u.val ≠ 7
    let byHost := s.linked h ∧ (d.slc sl).st = .run ∧ d.policy 1 = false
    let e := if y.st = .disabled ∨ d.needsMove sl u = true then d.runEpoch else y.epoch
    let fresh := fun (on : Bool) => ({
        st := if on && (thrRec (d.imageOf e) sl u).en && d.epochs.run.isSome then .run else .disabled
        epoch := e, pc := (thrRec (d.imageOf e) sl u).entry
        timer := y.timer, expired := y.expired, timerInt := y.timerInt, sigpend := y.sigpend, timerIrq := y.timerIrq, sigIrq := y.sigIrq
        faultCause := y.faultCause, faultHandled := y.faultHandled, faultPc := y.faultPc } : Thread)
    let free := y.st = .run ∧ y.fldWait = false
    let rests := y.st = .disabled ∨ y.st = .faulted ∨ y.st = .stopped
    let left := { y with staged := if y.sendOwn then y.staged.dropLast else y.staged, sendWaits := false, sendOwn := false, fldWait := false }
    (∀ c ∈ [(byMiller ∧ m.ext = 1, Instr.aeTctlStop sl th), (byHost, .thrStop h sl u)], c.1 →
      (free → gives c.2 { y with st := .stopped, stepping := false, bpHit := false, stallPosted := false, since := d.now })
      ∧ (¬ free → ¬ rests → gives c.2 { left with st := .stopped, stepping := false, bpHit := false, stallPosted := false, since := d.now })
      ∧ (rests → gives c.2 y))
    ∧ (∀ c ∈ [(byMiller ∧ m.ext = 2, Instr.aeTctlResume sl th), (byHost, .thrResume h sl u)], c.1 →
      (y.st = .stopped → gives c.2 { y with st := .run, stepping := false, bpHit := false, bpPass := true })
      ∧ (y.st ≠ .stopped → gives c.2 y))
    ∧ (∀ c ∈ [(byMiller ∧ m.ext = 5, Instr.aeTctlDiscardStaged sl th), (byHost, .thrDiscardStaged h sl u)], c.1 →
      gives c.2 { y with staged := [], sendWaits := false, sendOwn := false } ∧ lost c.2 y.staged.length)
    ∧ (∀ c ∈ [(byMiller ∧ m.ext = 3, Instr.aeTctlRestart sl th, true), (byHost, .thrRestart h sl u, true),
        (byMiller ∧ m.ext = 4, .aeTctlDisable sl th, false), (byHost, .thrDisable h sl u, false)],
      c.1 → gives c.2.1 (fresh c.2.2) ∧ (y.sendOwn = false → lost c.2.1 y.staged.length))
    ∧ (byHost →
      (y.st = .stopped → gives (.thrStep h sl u) { y with st := .run, stepping := true, bpHit := false, bpPass := true })
      ∧ (y.st ≠ .stopped → gives (.thrStep h sl u) y)
      ∧ ((d.recOf sl u).sigInt = false → gives (.thrSignal h sl u) { y with sigpend := true }))
    ∧ (byMiller ∧ m.ext = 6 → ∃ t, exec (.aeTctlReadState sl th) s = .next t ∧ t.pending = s.pending ∧ d.sameBut t.dev sl th
      ∧ t.dev.thr sl th = { d.thr sl th with
          bpPass := false, pc := ((d.thr sl th).pc + 1) % 65536, regs := (d.thr sl th).regsWith m.d (d.thrStatus sl u) })
    ∧ (s.linked h → (d.slc sl).st = .run → d.policy 1 = true → ∀ c ∈ [Instr.thrStop h sl u, .thrStep h sl u],
      exec c s = .next { s with dev := (d.wake sl).debugOff sl })
    ∧ ((d.slc sl).st = .run → d.atBoundary sl u = true → d.breakAt sl u = true →
      gives (.breakpointStop sl u) { y with st := .stopped, stepping := false, bpHit := true, stallPosted := false, since := d.now })
    ∧ ((d.slc sl).st ≠ .run ∨ d.atBoundary sl u = false ∨ d.breakAt sl u = false → exec (.breakpointStop sl u) s = .next s)
    ∧ (∀ c ∈ [(Instr.aeTctlStop sl th, 1), (.aeTctlResume sl th, 2), (.aeTctlRestart sl th, 3), (.aeTctlDisable sl th, 4),
        (.aeTctlDiscardStaged sl th, 5), (.aeTctlReadState sl th, 6)], m.ext = c.2 →
      (miller → b % 256 = 7 → ∃ t, exec c.1 s = .next t ∧ t.pending = s.pending ∧ d.sameBut t.dev sl th
        ∧ t.dev.thr sl th = { d.thr sl th with bpPass := false, pc := ((d.thr sl th).pc + 1) % 65536, x := true })
      ∧ (s.issues sl th m → th.val ≠ 7 → m.op = 0x33 → ∃ t, exec c.1 s = .next t ∧ t.pending = s.pending
        ∧ (t.dev.thr sl th).faultCause = 0x02 ∧ t.dev.frames = d.frames ∧ t.dev.buf = d.buf))

/-- For a slice. STALLED_WRITER of a thread STOPPED with staged words for the time of AE_DBG_CTRL and not yet reported: in a running slice it is noted, AE_STALLED_WRITERS gains 1 and AE_EVENTS shows it; in another a wake is asked for; otherwise nothing changes. WATCHDOG of an engine of a running slice whose condition has held for AE_WD_CTRL microseconds, not 0, and that has not fired: it has fired, AE_WD_FIRES gains 1 and AE_EVENTS shows it; otherwise nothing changes. MILLER_STALL in a running slice with an unmarked message of channel 0xFE as old as AE_MILLER_CTRL: the oldest such is marked and AE_EVENTS.MILLER_STALL is raised; otherwise nothing changes. FORCED_MOVE in a running slice of a thread in RUN, or blocked or waiting with no idle read moved (that such a thread abandons its microword is log 72's reading), on a bank that is no longer live: it is on the running bank at its record's entry, RUN where the record enables it, else DISABLED, without staged words, and AE_FORCED_MOVES gains 1; of one whose bank is live, that is in another state or in a slice that does not run nothing changes. -/
def Obligations.MillerIsToldAndThreadsMove : Prop :=
  ∀ (sl : SliceNo) (th : ThreadNo) (e : Fin 32) (s : State),
    let d := s.dev
    let x := d.thr sl th
    let runs := (d.slc sl).st = .run
    let gains := fun (t : State) (r : RegInfo) => t.dev.rd64 r sl = (d.rd64 r sl + 1) % 2 ^ 64
    let others := fun (t : State) => ∀ j, j ≠ sl.val * 256 + th.val → SMap.get {} t.dev.ae.threads j = SMap.get {} d.ae.threads j
    let due := x.st = .stopped ∧ x.staged ≠ [] ∧ x.stallPosted = false ∧ x.since + d.fldOf R.AE_DBG_CTRL sl 0 20 * 1000 ≤ d.now
    let us := d.fldOf R.AE_WD_CTRL sl 0 20
    let bites := ∃ since, (d.dog sl e).since = some since ∧ us ≠ 0 ∧ (d.dog sl e).fired = false ∧ since + us * 1000 ≤ d.now
    let late := fun (g : Msg) => g.stalled = false ∧ g.at_ + d.fldOf R.AE_MILLER_CTRL sl 0 20 * 1000 ≤ d.now
    let moves := d.needsMove sl th = true ∧ runs ∧ (x.st = .run ∨ x.st = .blkRd ∨ x.st = .blkWr ∨ x.st = .blkShare ∨ x.st = .waiting)
    (¬ due → exec (.stalledWriter sl th) s = .next s)
    ∧ (due → ¬ runs → exec (.stalledWriter sl th) s = .next { s with dev := d.wake sl })
    ∧ (due → runs → ∃ t, exec (.stalledWriter sl th) s = .next t ∧ t.pending = s.pending ∧ others t
      ∧ t.dev.thr sl th = { x with stallPosted := true } ∧ gains t R.AE_STALLED_WRITERS ∧ t.dev.bitOf R.AE_EVENTS sl 2 = true)
    ∧ (¬ (bites ∧ runs) → exec (.watchdog sl e) s = .next s)
    ∧ (bites → runs → ∃ t, exec (.watchdog sl e) s = .next t ∧ t.pending = s.pending ∧ t.dev.ae.threads = d.ae.threads
      ∧ t.dev.dog sl e = { d.dog sl e with fired := true } ∧ gains t R.AE_WD_FIRES ∧ t.dev.bitOf R.AE_EVENTS sl 1 = true)
    ∧ ((∀ g ∈ (d.chan sl 0xFE).msgs, ¬ late g) ∨ ¬ runs → exec (.millerStall sl) s = .next s)
    ∧ (∀ old g rest, (d.chan sl 0xFE).msgs = old ++ g :: rest → (∀ y ∈ old, ¬ late y) → late g → runs →
      exec (.millerStall sl) s = .next { s with dev :=
        ((d.setChan sl 0xFE { d.chan sl 0xFE with msgs := old ++ { g with stalled := true } :: rest }).raiseBit R.AE_EVENTS sl 4) })
    ∧ (¬ moves → exec (.forcedMove sl th) s = .next s)
    ∧ (moves → x.idleMove = false →
      let r := thrRec (d.imageOf d.runEpoch) sl th
      ∃ t, exec (.forcedMove sl th) s = .next t ∧ t.pending = s.pending ∧ gains t R.AE_FORCED_MOVES ∧ others t
        ∧ t.dev.thr sl th = { x with st := if r.en then .run else .disabled, epoch := d.runEpoch, pc := r.entry
                                     staged := [], sendWaits := false, sendOwn := false, fldWait := false, bpPass := false })

/-- For host port h whose patch command is oldest in a slice that runs, no memory in error. STAGE_WORD and READ_WORD of an address of 0xFE00 or above: BAD_ADDR. STAGE_WORD below it: with 64 others staged FULL, with fewer the word is staged there; UNSTAGE_ALL: none is staged. READ_WORD while no image runs: NO_IMAGE; with one, the microword in force is returned. PATCH_COMMIT and CLEAR_ALL while no image runs: NO_IMAGE; with their guard met: the overlay of the running bank holds every staged word and none is staged any more (log 45), or, of CLEAR_ALL, nothing, LEVEL is taken, PATCH_DONE raised, OK; PATCH_COMMIT of more words than the overlay has room for: FULL; with the guard not met they wait since now. PATCH_INSTALL of a waiting one: as before once its guard is met, else nothing changes. GUARD_TIMEOUT after 100 microseconds of waiting with the guard not met: GUARD_TIMEOUT; before that, or with the guard met, nothing changes. Where the oldest command has another OP, none waits or the slice does not run, each row changes nothing. -/
def Obligations.PatchesAreStagedAndInstalled : Prop :=
  ∀ (sl : SliceNo) (h v : Nat) (rest : List (Nat × Nat)) (s : State), s.noUpsets →
    let d := s.dev
    let runs := (d.slc sl).st = .run
    let i := sl.val * 4 + h
    let a := d.fldOf R.AE_PCH_ADDR i 0 16
    let others := (d.patchStaged sl h).filter (fun w => decide (w.1 ≠ a))
    let ends := fun (c : Instr) (x : Dev) (res : Nat) => exec c s = .next { s with dev := x.cmdDone .pch sl res }
    let words := d.patchStaged sl h
    let fits := d.overlayUsed sl + (words.filter (fun w => decide (SMap.get none d.ae.overlay (d.patchBank sl + w.1) = none))).length ≤ 64
    let level := fun (x : Dev) => (x.wr R.AE_PATCH_STATUS sl (d.fldOf R.AE_PCH_CTRL i 16 16)).raiseBit R.AE_EVENTS sl 9
    let committed := fun (x : Dev) => level ((words.foldl (fun x w => x.setOverlay sl w.1 (some w.2)) x).setPatch sl h [])
    let cleared := fun (x : Dev) => level { x with ae := { x.ae with
      overlay := SMap.keep (fun k _ => decide (k < d.patchBank sl) || decide (d.patchBank sl + 65536 ≤ k)) x.ae.overlay } }
    let guarded := [(Instr.patchCommit sl, 2), (.patchClearAll sl, 3)]
    (∀ c ∈ guarded ++ [(.stageWord sl, 1), (.patchReadWord sl, 4), (.unstageAll sl, 5)],
      ¬ runs ∨ d.cmdHead .pch sl c.2 = none → exec c.1 s = .next s)
    ∧ (∀ c ∈ guarded, (d.guardSince sl).isSome = true → exec c.1 s = .next s)
    ∧ (∀ c ∈ [Instr.patchInstall sl, .guardTimeout sl], ¬ runs ∨ d.guardSince sl = none ∨ d.cmdQ .pch sl = [] → exec c s = .next s)
    ∧ (runs →
    (s.queued .pch sl 1 h v rest →
      (0xFE00 ≤ a → ends (.stageWord sl) d 3)
      ∧ (a < 0xFE00 → others.length < 64 → ends (.stageWord sl) (d.setPatch sl h (others ++ [(a, d.patchWord i)])) 0)
      ∧ (a < 0xFE00 → 64 ≤ others.length → ends (.stageWord sl) d 9))
    ∧ (s.queued .pch sl 5 h v rest → ends (.unstageAll sl) (d.setPatch sl h []) 0)
    ∧ (s.queued .pch sl 4 h v rest →
      (0xFE00 ≤ a → ends (.patchReadWord sl) d 3)
      ∧ (a < 0xFE00 → d.epochs.run = none → ends (.patchReadWord sl) d 0xB)
      ∧ (a < 0xFE00 → d.epochs.run ≠ none →
        ends (.patchReadWord sl) (forN 4 (fun j x => x.wr R.AE_PCH_WORD (i * 4 + j) (fld (d.mwAt sl d.runEpoch a) (32 * j) 32)) d) 0))
    ∧ (d.guardSince sl = none →
      (∀ c ∈ guarded, s.queued .pch sl c.2 h v rest →
        (d.epochs.run = none → ends c.1 d 0xB)
        ∧ (d.epochs.run ≠ none → d.guardMet sl h = false → exec c.1 s = .next { s with dev := d.setGuardWait sl (some d.now) }))
      ∧ (d.epochs.run ≠ none → d.guardMet sl h = true →
        (s.queued .pch sl 2 h v rest → (fits → ends (.patchCommit sl) (committed d) 0) ∧ (¬ fits → ends (.patchCommit sl) d 9))
        ∧ (s.queued .pch sl 3 h v rest → ends (.patchClearAll sl) (cleared d) 0)))
    ∧ (∀ since, d.guardSince sl = some since → s.queued .pch sl 2 h v rest ∨ s.queued .pch sl 3 h v rest →
      (d.guardMet sl h = false → exec (.patchInstall sl) s = .next s)
      ∧ (d.guardMet sl h = true →
        (s.queued .pch sl 2 h v rest → (fits → ends (.patchInstall sl) ((committed d).setGuardWait sl none) 0)
          ∧ (¬ fits → ends (.patchInstall sl) (d.setGuardWait sl none) 9))
        ∧ (s.queued .pch sl 3 h v rest → ends (.patchInstall sl) ((cleared d).setGuardWait sl none) 0))
      ∧ (d.now < since + 100000 ∨ d.guardMet sl h = true → exec (.guardTimeout sl) s = .next s)
      ∧ (since + 100000 ≤ d.now → d.guardMet sl h = false → ends (.guardTimeout sl) (d.setGuardWait sl none) 0xA)))

/-- AE_DBG_DATA_LO_READ of a linked host port on a running slice, with a general register, the PC, the flags, the call depth or a trap-save item of a thread selected: the data are the item's low half, AE_DBG_DATA_HI holds the high half. DEBUG_WRITE of a linked host port on a running slice: with debug disabled AE_DBG_STATUS says so; of a thread that is not STOPPED, or of an item that is none of the general registers, the PC, the flags and the trap-save items, AE_DBG_STATUS.REJECTED is set and the thread stands; else the item of the STOPPED thread takes HI and LO in its width, and nothing else of the array changes. For a thread about to issue, with nothing else due: MMRD and MMWR of a thread without BRIDGE_EN: BRIDGE fault (0x0D). With it, no warm reset running, at the offset of VER_DRAIN_LIMIT and without EXT[2]: MMRD puts the register in gD, MMWR of B writes its field, and nothing else of the array changes. -/
def Obligations.DebugWindowAndRegisterBridge : Prop :=
  ∀ (h : HostNo) (sl : SliceNo) (th : ThreadNo) (m : Mw) (v : Word) (s : State),
    let d := s.dev
    let sel := d.rd R.AE_DBG_SEL sl
    let u := fld sel 0 8
    let item := fld sel 8 8
    let y := d.thr sl u
    let x := d.thr sl th
    let a := x.reg m.a
    let b := if m.bi then m.imm else x.reg m.b
    let on := { x with bpPass := false, pc := (x.pc + 1) % 65536 }
    (s.linked h → (d.slc sl).st = .run →
      (∀ w, (1 ≤ item ∧ item ≤ 0x1F ∧ w = y.reg item) ∨ (item = 0x20 ∧ w = y.pc) ∨ (item = 0x21 ∧ w = y.flags)
          ∨ (item = 0x22 ∧ w = y.stack.length) ∨ (0x28 ≤ item ∧ item ≤ 0x2C ∧ w = y.trapItem (item - 0x28)) → w < 2 ^ 64 →
        ∃ t, exec (.aeDbgDataLoRead h sl) s = .next t ∧ t.pending = s.pending ∧ (t.dev.host h).readData = BitVec.ofNat 64 (w % 2 ^ 32)
          ∧ t.dev.rd R.AE_DBG_DATA_HI sl = w / 2 ^ 32 ∧ t.dev.ae = d.ae)
      ∧ (let at_ := (d.wake sl).wr R.AE_DBG_DATA_HI sl v.toNat
        let known := (1 ≤ item ∧ item ≤ 0x21) ∨ (0x28 ≤ item ∧ item ≤ 0x2C)
        (d.policy 1 = true → exec (.debugWrite h sl v) s = .next { s with dev := at_.debugOff sl })
        ∧ (d.policy 1 = false → y.st ≠ .stopped ∨ ¬ known → exec (.debugWrite h sl v) s = .next { s with dev := at_.setFld R.AE_DBG_STATUS sl 0 1 1 })
        ∧ (d.policy 1 = false → y.st = .stopped → s.noUpsets →
          let w := d.rd R.AE_DBG_DATA_LO sl + v.toNat * 2 ^ 32
          let puts := fun (z : Thread) => ∃ t, exec (.debugWrite h sl v) s = .next t ∧ t.pending = s.pending ∧ d.sameBut t.dev sl u
            ∧ t.dev.thr sl u = z ∧ t.dev.bitOf R.AE_DBG_STATUS sl 0 = false
          (1 ≤ item → item ≤ 0x1F → puts { y with regs := y.regsWith item w })
          ∧ (item = 0x20 → puts { y with pc := w % 65536 })
          ∧ (item = 0x21 → puts (y.setFlags w))
          ∧ (0x28 ≤ item → item ≤ 0x2C → puts (y.setTrapItem (item - 0x28) w)))))
    ∧ (s.issues sl th m →
      ((d.recOf sl th).bridge = false → m.ext < 8 → ∀ c ∈ [(Instr.aeMmrd sl th, 0x38), (.aeMmwr sl th, 0x39)], m.op = c.2 →
        ∃ t, exec c.1 s = .next t ∧ t.pending = s.pending ∧ (t.dev.thr sl th).faultCause = 0x0D)
      ∧ ((d.recOf sl th).bridge = true → m.ext < 4 → a % 2 ^ 28 = R.VER_DRAIN_LIMIT.addr 0 → d.fan.warmRunning = none →
        (m.op = 0x38 → ∃ t, exec (.aeMmrd sl th) s = .next t ∧ t.pending = s.pending ∧ d.sameBut t.dev sl th
          ∧ t.dev.thr sl th = { on with regs := x.regsWith m.d (d.rd R.VER_DRAIN_LIMIT 0) })
        ∧ (m.op = 0x39 → ∃ t, exec (.aeMmwr sl th) s = .next t ∧ t.pending = s.pending ∧ d.sameBut t.dev sl th ∧ t.dev.thr sl th = on
          ∧ t.dev.rd R.VER_DRAIN_LIMIT 0 = (d.rd R.VER_DRAIN_LIMIT 0 &&& 0xFF000000) ||| (b % 2 ^ 32 &&& 0xFFFFFF))))

/-- BAD_ACCESS of a linked host port outside the staging aperture (whose writes R66 rules), whose domain does not have to be started: of a size other than 4 and 8, not naturally aligned, of 8 bytes at a register that no 8-byte access reaches, or at an offset that names no register. A write to an OFFLINE memory controller changes nothing. Of any other: a read's data are zeros, HPL_BAD_ACCESSES of that host port gains 1, and every other register keeps its value; the array, the frames, the buffer, the loader, the fuses and the queue keep theirs. -/
def Obligations.BadAccessesAreDiscardedAndCounted : Prop :=
  ∀ (h : HostNo) (a : Offset) (size : Nat) (write : Bool) (v : DWord) (s : State), s.linked h →
    inAperture a.toNat = false → s.dev.waitsFor (.host h) a.toNat = none →
    (∀ b, deviceAddr h a.toNat = some b → 0x4000000 ≤ b → b < 0x5000000 → (s.dev.slc ((b - 0x4000000) / 0x200000)).macRun = true) →
    (size ≠ 4 ∧ size ≠ 8) ∨ a.toNat % size ≠ 0 ∨ deviceAddr h a.toNat = none
      ∨ (∃ b, deviceAddr h a.toNat = some b ∧ (resolve b = none ∨ (∃ r i o, resolve b = some (r, i, o) ∧ size = 8 ∧ r.latched = false
          ∧ r.id ≠ R.MSIX_TABLE.id ∧ s.dev.offlineAt b = false ∧ s.dev.fan.warmRunning = none))) →
    (write = true → (∃ b, deviceAddr h a.toNat = some b ∧ s.dev.offlineAt b = true) → exec (.badAccess h a size write v) s = .next s)
    ∧ ((∀ b, deviceAddr h a.toNat = some b → write = true → s.dev.offlineAt b = false) →
    ∃ t, exec (.badAccess h a size write v) s = .next t ∧ t.pending = s.pending
      ∧ (write = false → (t.dev.host h).readData = 0)
      ∧ t.dev.rd64 R.HPL_BAD_ACCESSES h = (s.dev.rd64 R.HPL_BAD_ACCESSES h + 1) % 2 ^ 64
      ∧ t.dev.regs.words = s.dev.regs.words
      ∧ (∀ k, k ≠ R.HPL_BAD_ACCESSES.key h → SMap.get 0 t.dev.regs.wides k = SMap.get 0 s.dev.regs.wides k)
      ∧ t.dev.ae = s.dev.ae ∧ t.dev.frames = s.dev.frames ∧ t.dev.buf = s.dev.buf ∧ t.dev.loader = s.dev.loader ∧ t.dev.fuses = s.dev.fuses)

/-- COUNTER_LOW_READ of a linked host port of a counter of the register map whose domain runs, outside a statistics shadow view: with n the counter's value at that instant, the data are n mod 2^32, the latch of that host port for that counter holds n div 2^32, every other latch, of another counter or of another host port, keeps its value, and the counter itself keeps its value. -/
def Obligations.CounterLowReadsFillTheLatch : Prop :=
  ∀ (h : HostNo) (a : Offset) (r : RegInfo) (i b : Nat) (s : State), s.linked h →
    inAperture a.toNat = false → a.toNat % 8 = 0 → deviceAddr h a.toNat = some b → resolve b = some (r, i, 0) → r.kind = .counter →
    s.dev.stoppedAt b = none → s.dev.bitOf R.STAT_VIEW h 0 = false →
    let n := ((s.dev.touch b).counterNow r i).wideView none r i
    ∃ t, exec (.counterLowRead h a) s = .next t ∧ t.pending = s.pending
      ∧ (t.dev.host h).readData = BitVec.ofNat 64 (n % 2 ^ 32)
      ∧ t.dev.latch h (r.key i) = n / 2 ^ 32
      ∧ (∀ k, k ≠ h.val * 2 ^ 40 + r.key i → SMap.get 0 t.dev.regs.latches k = SMap.get 0 s.dev.regs.latches k)
      ∧ t.dev.wideView none r i = n

/-- For a linked host port, outside the command sets and the staging aperture. REGISTER_WRITE of an RW register that starts nothing, in a domain that runs: its writable bits take the value, its other bits stand, every other register stands. Of an RO or RC register or a counter that starts nothing: nothing is written. To an OFFLINE memory controller, but for HBM_EVENTS: nothing changes. Of a W1C register: a bit written 1 clears unless hardware sets it in that clock (the model's operand of the row), every bit set by hardware is 1 after it and its companion count gains 1; every other register stands but HPL_W1C_COLLISIONS of that host port, which gains 1 where a bit was both. RC_READ of an RC register that is no FIFO: the data are the value before; the field then holds what hardware updates it to in that clock, or else the restart value of the field. STOPPED_DOMAIN_ACCESS of a domain that does not run: the access waits in the register bridge and the domain is asked to start. -/
def Obligations.RegistersFollowTheirAccessType : Prop :=
  ∀ (h : HostNo) (a : Offset) (v hw : Word) (b : Nat) (s : State), s.linked h →
    inAperture a.toNat = false → a.toNat % 4 = 0 → deviceAddr h a.toNat = some b → setOf b = none →
    let d := s.dev.touch b
    let plain := fun (r : RegInfo) => effectIn r.id effects = none ∧ (∀ i o, d.rightsWrite (.host h) r i o v.toNat = none)
    (∀ (r : RegInfo) (i o : Nat), resolve b = some (r, i, o) → s.dev.stoppedAt b = none → s.dev.offlineAt b = false →
      (r.kind = .rw → plain r → ∃ t, exec (.registerWrite h a v hw) s = .next t ∧ t.pending = s.pending
        ∧ t.dev.rd r i = (d.rd r i &&& (r.mask ^^^ 0xFFFFFFFF)) ||| (v.toNat &&& r.mask)
        ∧ (∀ k, k ≠ r.key i → SMap.get 0 t.dev.regs.words k = SMap.get 0 d.regs.words k)
        ∧ t.dev = { d with regs := t.dev.regs })
      ∧ (r.kind = .ro ∨ r.kind = .rc ∨ r.kind = .counter ∨ r.kind = .ro64 → plain r →
        exec (.registerWrite h a v hw) s = .next { s with dev := d })
      ∧ (r.kind = .w1c → plain r → ∃ t, exec (.registerWrite h a v hw) s = .next t ∧ t.pending = s.pending
        ∧ (∀ k, k < 32 → fld r.mask k 1 = 1 → fld (t.dev.rd r i) k 1
          = if fld hw.toNat k 1 = 1 then 1 else if fld v.toNat k 1 = 1 then 0 else fld (d.rd r i) k 1)
        ∧ (∀ k, k < 32 → fld r.mask k 1 = 1 → fld hw.toNat k 1 = 1 →
          SMap.get 0 t.dev.regs.companions (r.key i * 32 + k) = SMap.get 0 d.regs.companions (r.key i * 32 + k) + 1)
        ∧ (∀ k, k ≠ r.key i → SMap.get 0 t.dev.regs.words k = SMap.get 0 d.regs.words k)
        ∧ t.dev.rd64 R.HPL_W1C_COLLISIONS h
          = if v.toNat &&& hw.toNat &&& r.mask = 0 then d.rd64 R.HPL_W1C_COLLISIONS h else (d.rd64 R.HPL_W1C_COLLISIONS h + 1) % 2 ^ 64)
      ∧ (r.kind = .rc → r.id ≠ R.LP_TSFIFO_W0.id → r.id ≠ R.ERR_LOG_W0.id → r.id ≠ R.PMS_W0.id → ∀ upd : Option Word,
        ∃ t, exec (.rcRead h a upd) s = .next t ∧ t.pending = s.pending ∧ (t.dev.host h).readData = BitVec.ofNat 64 (d.rd r i)
          ∧ t.dev.rd r i = ((upd.map BitVec.toNat).getD (d.restartAt r i) &&& r.mask) % 2 ^ 32
          ∧ (∀ k, k ≠ r.key i → SMap.get 0 t.dev.regs.words k = SMap.get 0 d.regs.words k)))
    ∧ (∀ (r : RegInfo) (i o : Nat), resolve b = some (r, i, o) → s.dev.offlineAt b = true → r.id ≠ R.HBM_EVENTS.id →
      exec (.registerWrite h a v hw) s = .next s)
    ∧ (∀ p write, s.dev.stoppedAt b = some p → exec (.stoppedDomainAccess h a write v) s = .next { s with dev :=
        { s.dev.askStart p with bridge := s.dev.bridge ++
          [{ who := .host h, addr := a.toNat, write := write, size := 4, value := v.toNat, hwSet := 0, upd := none }] } })

/-- No memory in error; with an end not clocked CELL_RECEIVE and the two releases change nothing. CELL_RECEIVE of the oldest cell of a link: one ahead of NEXT by less than 4096 whose slot is empty takes its slot, and NEXT stands; one behind NEXT, or too far ahead or whose slot is taken, is counted in LATE or WINDOW, one that fails its check in the CRC counter of its link, and none takes a slot. RSQ_RELEASE of a ready cell at NEXT: NEXT advances, the slot empties, its context moves on, an orphan is counted; inbound, admission gets what the context says, with a bad mark: the cell for the context's frame, an end CELL_LOST of a frame given up (reason 7), or nothing. It leaves, outbound, a cell that waits for its egress MAC FIFO and a head to forward; with no ready cell nothing changes. HEAD_RELEASE releases that head once its last cell or the LEAD cells after it are ready; before that, and while the FIFO is full, nothing changes; under a forced retire it is counted and stays in its slot. GAP_TIMEOUT past the timeout: NEXT advances and LOST gains 1; before it, or with no gap, nothing. CONTEXT_TIMEOUT of a context in a frame likewise puts it into DISCARD; the inbound frame's end is sent on as CELL_LOST, and the outbound copy, where it neither returns nor is discarded, is whole, marked 7 and stomped; of a context in no frame nothing changes. -/
def Obligations.CellsCrossTheMillrace : Prop :=
  ∀ (out crc : Bool) (sl : SliceNo) (p : PipeNo) (pl : Fin 4) (ctx : Fin 32) (s : State), s.noUpsets →
    let d := s.dev
    let q := d.rsq (streamOf out sl p)
    let after := fun (t : State) => t.dev.rsq (streamOf out sl p)
    let ends := fun (c : Instr) (post : State → Prop) => ∃ t, exec c s = .next t ∧ t.pending = s.pending ∧ post t
    let gains := fun (t : State) (r : RegInfo) (i : Nat) => t.dev.rd64 r i = (d.rd64 r i + 1) % 2 ^ 64
    let counted := fun (c : Instr) (which : Nat) => ends c (fun t =>
      gains t (rsqCtr out sl p which).1 (rsqCtr out sl p which).2.1 ∧ t.dev.rsqs = d.rsqs)
    (d.endsRun out sl = false → exec (.cellReceive out sl pl crc) s = .next s ∧ exec (.rsqRelease out sl p) s = .next s)
    ∧ (d.endsRun true sl = false → exec (.headRelease sl p) s = .next s)
    ∧ (d.endsRun out sl = true →
      let receive := fun (lost : Bool) => Instr.cellReceive out sl pl lost
      (∀ c rest, takeFirst (fun c => decide (c.outbound = out) && decide (c.slice = sl.val) && decide (c.plane = pl.val)) d.links = some (c, rest) →
        c.pipe = p.val →
        let dist := (c.seq + 65536 - q.next) % 65536
        (dist < 4096 → SMap.get none q.slots (c.seq % 4096) = none → ends (receive false) (fun t => (after t).next = q.next
          ∧ (after t).slots = SMap.set none q.slots (c.seq % 4096) (some { c with ready := !out || !c.first })))
        ∧ (61440 ≤ dist → counted (receive false) 2)
        ∧ (dist < 61440 → 4096 ≤ dist ∨ SMap.get none q.slots (c.seq % 4096) ≠ none → counted (receive false) 3)
        ∧ ends (receive true) (fun t => t.dev.rsqs = d.rsqs ∧ gains t (if out then R.MRC_CRC_OUT else R.MRC_CRC_IN) (sl.val * 4 + pl.val)))
      ∧ (d.cellAtNext out sl p = none → exec (.rsqRelease out sl p) s = .next s ∧ (out = true → exec (.headRelease sl p) s = .next s))
      ∧ (out = true → d.macBlocked sl p = true → exec (.rsqRelease out sl p) s = .next s ∧ exec (.headRelease sl p) s = .next s)
      ∧ (∀ c, d.cellAtNext out sl p = some c →
        (out = true → d.macBlocked sl p = false ∧ (c.first = true → d.headWaits out c = false ∧ ∀ x, d.cpy c.owner = some x → d.egressForced x = none)) →
        let verdict := ctxStep (SMap.get {} q.ctx c.ctx).st c
        let cell := fun (o : Nat) => AdmitCell.mk o c.first c.last (if c.bad ≠ 0 then c.bad else if c.poison then 5 else 0) true c.data
        let lostEnd := fun (o : Nat) => AdmitCell.mk o false true 7 false []
        ends (.rsqRelease out sl p) (fun t => (after t).next = (q.next + 1) % 65536
          ∧ (after t).slots = SMap.set none q.slots (c.seq % 4096) none ∧ (SMap.get {} (after t).ctx c.ctx).st = verdict.2
          ∧ (verdict.1 = .orphan → gains t (rsqCtr out sl p 1).1 (rsqCtr out sl p 1).2.1)
          ∧ (out = false → t.dev.admitQ = d.admitQ ++ (match verdict.1 with
            | .start none => [cell c.owner]
            | .start (some o) => [lostEnd o, cell c.owner]
            | .pass o => [cell o]
            | .endBad o => [lostEnd o]
            | .orphan => []
            | .discard => []))))
      ∧ (∀ c x, out = true → d.cellAtNext out sl p = some c → d.headWaits out c = true → d.cpy c.owner = some x → d.macBlocked sl p = false →
        let mine := (d.slotCells c.owner x).filter (fun y => y.ready)
        let goes := mine.any (·.last) = true ∨ ∀ i, i < d.fldOf R.MRS_CTRL sl 16 3 → mine.any (fun y => decide (y.cidx = i + 1)) = true
        (∀ ctr, d.egressForced x = some ctr → ends (.headRelease sl p) (fun t => gains t ctr 0 ∧ t.dev.rsqs = d.rsqs))
        ∧ (d.egressForced x = none → exec (.rsqRelease out sl p) s = .next s
          ∧ (¬ goes → exec (.headRelease sl p) s = .next s)
          ∧ (goes → ends (.headRelease sl p) (fun t => (after t).next = (q.next + 1) % 65536
            ∧ (after t).slots = SMap.set none q.slots (c.seq % 4096) none)))))
    ∧ (q.gapSince = none → exec (.gapTimeout out sl p) s = .next s)
    ∧ (∀ since, q.gapSince = some since →
      (d.now < since + d.rsqTimeout out sl → exec (.gapTimeout out sl p) s = .next s)
      ∧ (since + d.rsqTimeout out sl ≤ d.now → ends (.gapTimeout out sl p) (fun t => (after t).next = (q.next + 1) % 65536
        ∧ (after t).slots = q.slots ∧ gains t (rsqCtr out sl p 0).1 (rsqCtr out sl p 0).2.1)))
    ∧ ((∀ k o, (SMap.get {} q.ctx ctx).st ≠ .inFrame k o) → exec (.contextTimeout out sl p ctx) s = .next s)
    ∧ (∀ k o, (SMap.get {} q.ctx ctx).st = .inFrame k o →
      let due := (SMap.get {} q.ctx ctx).since + d.rsqTimeout out sl
      (d.now < due → exec (.contextTimeout out sl p ctx) s = .next s)
      ∧ (due ≤ d.now → out = false →
        exec (.contextTimeout out sl p ctx) s = .next { s with dev :=
          ({ d.setRsq (streamOf out sl p) { q with ctx := SMap.set {} q.ctx ctx { st := .discard, since := d.now } } with
            admitQ := d.admitQ ++ [{ owner := o, first := false, last := true, bad := 7, hasCell := false, data := [] }] }) })
      ∧ (due ≤ d.now → out = true → ends (.contextTimeout out sl p ctx) (fun t => (SMap.get {} (after t).ctx ctx).st = .discard
        ∧ ∀ x, d.cpy o = some x → x.recircTo = none → x.verdict ≠ .discard → t.dev.cpy o = some { x with
          relWhole := true, bad := if x.bad = 0 then 7 else x.bad, tag := { x.tag with stomp := true } })))

/-- The fabric asleep, or no cell at admission: FRAME_ADMIT changes nothing, and with no cell CELL_ADMIT neither. Else, no memory in error, the oldest cell of admission the first of a frame with no fate nor copy yet that is unicast, bound for a queue, unmetered and under no forced retire, calling for no PFC frame, free cells there, and its end, if it is there, not bad, FRAME_ADMIT: to a port not in use the frame is discarded and BPM_UNUSED_LPORT gains 1; past the pool check and below its queue's limit, without ECN, or in class 15, it is admitted, a copy of it waits in its queue and bin, BPM_P_FRAMES and TMQ_ENQ_FRAMES gain 1; at its queue's limit TMQ_DROP_LIMIT gains 1; refused by the pool check its pool's LIMIT, SHARED or GUARD drop counter gains 1, and for the first two, with spilling off, SPE_NOT_ELIGIBLE; a frame so refused has no copy. In each the cell leaves the queue of admission. CELL_ADMIT of a later cell, the oldest at admission, of an admitted unicast frame in the buffer that is not bad and has no started copy: the cell that the pool manager allocates joins the frame and the frame's length grows by the cell's bytes; the last makes it whole. -/
def Obligations.FramesAreAdmittedToTheBuffer : Prop :=
  ∀ (cell : AdmitCell) (rest : List AdmitCell) (f : Frame) (s : State), s.noUpsets →
    (s.dev.fan.fabricAsleep = true ∨ s.dev.admitQ = [] → exec .frameAdmit s = .next s)
    ∧ (s.dev.admitQ = [] → exec .cellAdmit s = .next s)
    ∧ (s.dev.fan.fabricAsleep = false → s.dev.admitQ = cell :: rest → s.dev.frame cell.owner = some f →
    f.dest = .queue → cell.bad = 0 → f.bufBad = 0 → f.atomic = false → s.dev.buf.take (s.dev.buf.withheld.length + 1) ≠ none →
    let d := s.dev
    let d1 := { d with admitQ := rest }
    let q := f.tag.queue
    let r := d.qrecView q
    let gains := fun (t : State) (r : RegInfo) (i : Nat) => t.dev.rd64 r i = (d.rd64 r i + 1) % 2 ^ 64
    let took := fun (c : Instr) (post : State → Prop) => ∃ t, exec c s = .next t ∧ t.pending = s.pending ∧ t.dev.admitQ = rest ∧ post t
    (cell.first = true → f.fate = .none → f.tag.mcast = false → d.forced f.tag = none → d1.meter f.tag cell.data.length = ({}, d1) →
      (∀ e ∈ d.copies, ∀ c, e.2 = some c → c.fid ≠ cell.owner) → f.nCopies = 0 → d.freeCells ≠ 0 → q < 8192 → f.slice < 8 →
      (r.pfc = true → d.bitOf R.TMP_CTRL f.tag.lport (16 + r.prio) = false) → f.tag.lport < 512 →
      let pool := poolOf q r
      let refused := fun (post : State → Prop) => took .frameAdmit (fun t => post t ∧ t.dev.nextCid = d.nextCid)
      (d.lpInUse (q / 16) = false → refused (fun t => gains t R.BPM_UNUSED_LPORT 0))
      ∧ (d.lpInUse (q / 16) = true →
        (d.poolCheck pool 0 = .ok →
          (q % 16 = 15 ∨ (d.depthOf q < d.queueLimit q 0 ∧ d.bitOf R.TMQ_ECN_CTRL q 0 = false) → took .frameAdmit (fun t =>
            gains t R.BPM_P_FRAMES pool ∧ gains t R.TMQ_ENQ_FRAMES q
            ∧ (∃ g, t.dev.frame cell.owner = some g ∧ g.fate = .admitted ∧ g.nCopies = 1 ∧ g.pool = pool)
            ∧ (∃ y, t.dev.cpy d.nextCid = some y ∧ y.fid = cell.owner ∧ y.queue = q ∧ y.bin = f.tag.bin ∧ y.place = .queued ∧ y.spill = 0)))
          ∧ (q % 16 ≠ 15 → d.queueLimit q 0 ≤ d.depthOf q → refused (fun t => gains t R.TMQ_DROP_LIMIT q)))
        ∧ (d.poolCheck pool 0 = .guard → refused (fun t => gains t R.BPM_P_DROP_GUARD pool))
        ∧ (d.bitOf R.HBM_SPILL_CTRL 0 0 = false →
          (d.poolCheck pool 0 = .limit → refused (fun t => gains t R.SPE_NOT_ELIGIBLE f.slice ∧ gains t R.BPM_P_DROP_LIMIT pool))
          ∧ (d.poolCheck pool 0 = .sharedFull → refused (fun t => gains t R.SPE_NOT_ELIGIBLE f.slice ∧ gains t R.BPM_P_DROP_SHARED pool)))))
    ∧ (cell.first = false → f.fate = .admitted → f.fwd = none → f.stack = none → f.nCopies ≠ 0 → f.bufWhole = false →
      cell.hasCell = true → (∀ e ∈ d.copies, ∀ c, e.2 = some c → c.fid = cell.owner → c.place = .queued) →
      ∀ n x, d1.allocCell (some f.pool) f.nCopies partyFrame f.pfc 0 = (some n, x) →
        took .cellAdmit (fun t => ∃ g, t.dev.frame cell.owner = some g ∧ g.cells = f.cells ++ [n]
          ∧ g.blen = f.blen + cell.data.length ∧ g.bufWhole = cell.last)))

/-- The fabric asleep, or with no free waiting, CELL_FREE changes nothing; nor does a pool command's row while the fabric sleeps or where the oldest command has another OP. Else, no memory in error, CELL_FREE of the oldest free, of a cell by a frame: with more than one reference left the count falls by 1; with one left the cell rejoins the free list and its pool's use falls; of a cell that is not allocated, of another owner's, or past the last, the DOUBLE, OWNER or RANGE counter gains 1, BPM_LAST_BAD_FREE0 names its reason and the cell, and the buffer stands. For the pool command of host port h that is oldest: ALLOC with its limit reached or FREE at or below GUARD ends in EXHAUSTED, else the cell allocated is in BPM_CMD_CELL and h holds one more; BPM_FREE of a raw cell of h returns it, of a cell past the last ends in RANGE, of one not allocated or another owner's in 4 and 5 with its counter and the cell standing; READ_STATE writes BPM_RD_STATE, of a cell past the last RANGE; SET_ATOMIC and CLEAR_ATOMIC put the list in and out; READ_ATOMIC writes BPM_RD_ATOMIC. -/
def Obligations.PoolCommandsAndFreesKeepTheCells : Prop :=
  ∀ (h v : Nat) (rest : List (Nat × Nat)) (s : State), s.noUpsets → h < 4 →
    let d := s.dev
    let rows := [(Instr.bpmAlloc, 1), (.bpmFree, 2), (.bpmReadState, 3), (.setAtomic, 4), (.clearAtomic, 5), (.readAtomic, 6)]
    let ends := fun (c : Instr) (x : Dev) (status : Nat) => exec c s = .next { s with dev := x.cmdDone .bpm 0 status }
    let gains := fun (t : State) (r : RegInfo) => t.dev.rd64 r 0 = (d.rd64 r 0 + 1) % 2 ^ 64
    let l := d.fldOf R.BPM_CMD_LIST h 0 16
    let held := SMap.get 0 d.buf.hostCells h
    let n := d.fldOf R.BPM_CMD_CELL h 0 20
    let r := d.cellRec n
    (d.fan.fabricAsleep = true ∨ d.buf.freeReq = [] → exec .cellFree s = .next s)
    ∧ (∀ c ∈ rows, d.fan.fabricAsleep = true ∨ d.cmdHead .bpm 0 c.2 = none → exec c.1 s = .next s)
    ∧ (d.fan.fabricAsleep = false →
    (∀ c party more, d.buf.freeReq = (c, party) :: more → party / 8192 = 1 →
      let x := { d with buf := { d.buf with freeReq := more } }
      let y := d.cellRec c
      let bad := fun (code : Nat) (ctr : RegInfo) => ∃ t, exec .cellFree s = .next t ∧ t.pending = s.pending ∧ gains t ctr
        ∧ t.dev.rd R.BPM_LAST_BAD_FREE0 0 = packFields [(31, 1, 1), (27, 4, code), (0, 20, c)] ∧ t.dev.buf = x.buf
      (cellCount ≤ c → bad 3 R.BPM_BAD_FREE_RANGE)
      ∧ (c < cellCount → y.alloc = false → bad 1 R.BPM_BAD_FREE_DOUBLE)
      ∧ (c < cellCount → y.alloc = true → y.owner / 8192 ≠ 1 → bad 2 R.BPM_BAD_FREE_OWNER)
      ∧ (c < cellCount → y.alloc = true → y.owner / 8192 = 1 → 1 < y.ref →
        exec .cellFree s = .next { s with dev := x.setCellRec c { y with ref := y.ref - 1 } })
      ∧ (c < cellCount → y.alloc = true → y.owner / 8192 = 1 → y.ref ≤ 1 → ∃ t, exec .cellFree s = .next t ∧ t.pending = s.pending
        ∧ t.dev.buf = { x.buf with freed := d.buf.freed ++ [c]
                                   used := SMap.modify 0 d.buf.used y.pool (· - 1)
                                   recs := SMap.set {} d.buf.recs c { owner := y.owner } }))
    ∧ (s.queued .bpm 0 1 h v rest →
      (d.fldOf R.BPM_HOST_CTRL 0 0 20 ≤ held ∨ d.freeCells ≤ d.guard → ends .bpmAlloc d 1)
      ∧ (held < d.fldOf R.BPM_HOST_CTRL 0 0 20 → d.guard < d.freeCells → ∀ c x, d.allocCell none 1 (partyHost h) none 0 = (some c, x) →
        ends .bpmAlloc ({ x with buf := { x.buf with hostCells := SMap.modify 0 x.buf.hostCells h (· + 1) } }.wr R.BPM_CMD_CELL h c) 0))
    ∧ (s.queued .bpm 0 2 h v rest →
      let c := v / 16
      let y := d.cellRec c
      let bad := fun (code : Nat) (ctr : RegInfo) => ∃ t, exec .bpmFree s = .next t ∧ t.pending = s.pending ∧ gains t ctr
        ∧ t.dev.rd R.BPM_CMD_STATUS h = code ∧ t.dev.buf = d.buf
      (cellCount ≤ c → bad 3 R.BPM_BAD_FREE_RANGE)
      ∧ (c < cellCount → y.alloc = false → bad 4 R.BPM_BAD_FREE_DOUBLE)
      ∧ (c < cellCount → y.alloc = true → y.owner ≠ partyHost h → bad 5 R.BPM_BAD_FREE_OWNER)
      ∧ (c < cellCount → y.alloc = true → y.owner = partyHost h → ends .bpmFree (d.reallyFree c y) 0))
    ∧ (s.queued .bpm 0 3 h v rest →
      (cellCount ≤ n → ends .bpmReadState d 3)
      ∧ (n < cellCount → ends .bpmReadState (d.wr R.BPM_RD_STATE h
        (packFields [(31, 1, b2n r.alloc), (27, 4, r.pool), (16, 10, r.ref), (0, 16, r.owner)])) 0))
    ∧ (s.queued .bpm 0 4 h v rest → ends .setAtomic { d with buf := { d.buf with
      atomicLists := if d.buf.atomicLists.contains l then d.buf.atomicLists else l :: d.buf.atomicLists } } 0)
    ∧ (s.queued .bpm 0 5 h v rest →
      ends .clearAtomic { d with buf := { d.buf with atomicLists := d.buf.atomicLists.filter (· ≠ l) } } 0)
    ∧ (s.queued .bpm 0 6 h v rest → ends .readAtomic (d.wr R.BPM_RD_ATOMIC h (b2n (d.buf.atomicLists.contains l))) 0))

/-- No memory in error. HBM_INIT_DONE in INIT: TRAIN. HBM_TRAIN_DONE in TRAIN: HBM_TRAIN_STATUS holds what passed; with every pseudo channel passed RUN and every page not RETIRED FREE, else TRAIN_FAIL and its event. HBM_SLEEP_ENTRY in RUN, asked by the fantail or idle as R439 says: SLEEP. HBM_SLEEP_EXIT in SLEEP with a request, no access held in the bridge: RUN. FREEZE of a linked host port in RUN, and HBM_OVERTEMP of 105 degrees or more in RUN and SLEEP: FROZEN, its failures counted anew and no write-back waiting, and, with nothing of a copy in the stack, HBM_FRZ_INFO with its cause, HBM_FREEZES gains 1, the event FROZEN; of a FROZEN one only HBM_FREEZES and, of OVERTEMP, HBM_TEMP change. THAW in FROZEN: RUN and the event THAWED where the checks pass, else only the event TRAIN_FAIL. OFFLINE in FROZEN: OFFLINE; RETRAIN in FROZEN and TRAIN_FAIL: TRAIN with no line held; both discard the stack's copies. In SLEEP the four commands wait in the bridge and ask the controller to wake. A row in a state in which none of this is due leaves every controller as it is, HBM_OVERTEMP writing HBM_TEMP, which while OFFLINE it leaves too. -/
def Obligations.HbmControllersChangeState : Prop :=
  ∀ (h : HostNo) (k : StackNo) (mask : Word) (t12 : BitVec 12) (pass reused : Bool) (s : State), s.noUpsets →
    let d := s.dev
    let x := d.stk k
    let ends := fun (c : Instr) (post : State → Prop) => ∃ t, exec c s = .next t ∧ t.pending = s.pending ∧ post t
    let gains := fun (t : State) (r : RegInfo) => t.dev.rd64 r k = (d.rd64 r k + 1) % 2 ^ 64
    let raised := fun (t : State) (b : Nat) => fld (t.dev.rd R.HBM_EVENTS k) b 1 = 1
    let st := fun (t : State) => (t.dev.stk k).st
    let gone := fun (t : State) => ∀ e ∈ d.stackCopies k, t.dev.cpy e.1 = none
    let same := fun (t : State) => t.dev.hbm = d.hbm
    let idle := d.bitOf R.HBM_CTRL k 0 = true ∧ d.writesWait k = false ∧ d.readsWait k = false ∧ d.fldOf R.HBM_SR_CTRL k 0 20 * 1000 ≤ d.now - x.lastReq
    let asked := x.wakeReq = true ∨ d.writesWait k = true ∨ d.readsWait k = true
    let frozen := fun (c : Instr) (cause : Nat) => ends c (fun t => st t = .frozen ∧ (t.dev.stk k).fails = 0 ∧ (t.dev.stk k).repair = none
      ∧ (d.stackCopies k = [] → gains t R.HBM_FREEZES ∧ raised t 0 ∧ t.dev.rd R.HBM_FRZ_INFO k = packFields [(31, 1, 1), (27, 4, cause)]))
    (x.st = .init → exec (.hbmInitDone k) s = .next { s with dev := d.setStk k { x with st := .train, since := d.now } })
    ∧ (x.st ≠ .init → exec (.hbmInitDone k) s = .next s)
    ∧ (x.st = .train → ends (.hbmTrainDone k mask reused) (fun t => t.dev.rd R.HBM_TRAIN_STATUS k = mask.toNat
      ∧ (mask.toNat = 2 ^ 32 - 1 → st t = .run ∧ ∀ p, (t.dev.page k p).st = if (d.page k p).st = .retired then .retired else .free)
      ∧ (mask.toNat ≠ 2 ^ 32 - 1 → st t = .trainFail ∧ raised t 8)))
    ∧ (x.st ≠ .train → ends (.hbmTrainDone k mask reused) same)
    ∧ (x.st = .run → x.sleepReq = true ∨ idle → exec (.hbmSleepEntry k) s
      = .next { s with dev := d.setStk k { x with st := .sleep, since := d.now, sleepReq := false, wakeReq := false } })
    ∧ (x.st ≠ .run ∨ (x.sleepReq = false ∧ ¬ idle) → exec (.hbmSleepEntry k) s = .next s)
    ∧ (d.bridge = [] → (x.st = .sleep → asked → ends (.hbmSleepExit k) (fun t => st t = .run))
      ∧ (x.st ≠ .sleep ∨ ¬ asked → ends (.hbmSleepExit k) (fun t => st t = x.st)))
    ∧ (x.st = .offline → exec (.hbmOvertemp k t12) s = .next s)
    ∧ (840 ≤ sext 12 t12.toNat →
      (x.st = .frozen → ends (.hbmOvertemp k t12) (fun t => gains t R.HBM_FREEZES ∧ same t ∧ t.dev.rd R.HBM_TEMP k = t12.toNat))
      ∧ (x.st = .run ∨ x.st = .sleep → frozen (.hbmOvertemp k t12) 6))
    ∧ (x.st ≠ .offline → sext 12 t12.toNat < 840 ∨ x.st = .off ∨ x.st = .init ∨ x.st = .train ∨ x.st = .trainFail →
      exec (.hbmOvertemp k t12) s = .next { s with dev := d.wr R.HBM_TEMP k t12.toNat })
    ∧ (s.linked h →
      (x.st = .run → frozen (.hbmFreeze h k) 4)
      ∧ (x.st = .frozen → exec (.hbmFreeze h k) s = .next { s with dev := d.inc R.HBM_FREEZES k 1 })
      ∧ (x.st = .frozen → ends (.hbmThaw h k pass) (fun t =>
        (pass = true → st t = .run ∧ raised t 1) ∧ (pass = false → same t ∧ raised t 8)))
      ∧ (x.st = .frozen → ends (.hbmOffline h k) (fun t => st t = .offline ∧ gone t))
      ∧ (x.st = .frozen ∨ x.st = .trainFail → ends (.hbmRetrain h k) (fun t => st t = .train ∧ (t.dev.stk k).lines = [] ∧ gone t))
      ∧ (∀ c ∈ [(Instr.hbmFreeze h k, 1), (.hbmThaw h k pass, 2), (.hbmOffline h k, 4), (.hbmRetrain h k, 8)], x.st = .sleep →
        exec c.1 s = .next { s with dev := { (d.setStk k { x with wakeReq := true }) with bridge := d.bridge ++
          [{ who := .host h, addr := R.HBM_CMD.addr k % 0x10000000, write := true, size := 4, value := c.2, hwSet := 0, upd := none }] } })
      ∧ (x.st ≠ .sleep → x.st ≠ .frozen → (x.st ≠ .run → exec (.hbmFreeze h k) s = .next s)
        ∧ exec (.hbmOffline h k) s = .next s ∧ ends (.hbmThaw h k pass) (fun t => same t ∧ t.dev.regs = d.regs)
        ∧ (x.st ≠ .trainFail → exec (.hbmRetrain h k) s = .next s)))

/-- No memory in error, fabric awake. SPILL_WRITE_DONE in RUN, a write phase and its engine's turn, no earlier cell waiting: the next staged cell is in its line, HBM_WRITES gains 1, and after the last of a whole frame the copy is PARKED; of n cells as n times one. In another phase or turn nothing changes. FILL_EVALUATE before 256 clocks: nothing; after, the one parked copy of a slice, among the first of its queue, with room, is FILLING. FILL_READ_DONE in RUN, a read phase and turn: the line's bytes are in a cell that joins the frame, FLE_CELLS gains 1, and the copy is RESIDENT after its last line; in another, or with no free cell, nothing. HBM_PHASE_SWITCH goes over when the other kind waits and the time is up, none of its own waits or, to reads, PANIC stands. HBM_REFRESH: issued; under PANIC postponed or, at the limit, forced. HBM_REPLAY counts; one failure past the limit freezes. HBM_SCRUB_READ: the next line when due, or the write-back that waits; asleep it wakes the controller. PAGE_RETIRE of a page in no use retires it, of one in use asks for it. READ_LINE in FROZEN puts the line into HBM_DIAG_DATA; TEST_PAGES leaves the last pattern in a range not in use and retires its bad pages, else PAGE_IN_USE; outside FROZEN both end in 1. -/
def Obligations.HbmMovesLinesAndPages : Prop :=
  ∀ (h : HostNo) (k : StackNo) (sl : SliceNo) (pc : Fin 32) (pg : BitVec 20) (bad : List Nat) (cid m : Nat) (reread : Bool) (s : State), s.noUpsets →
    s.dev.errs.pageReq = [] → s.dev.fan.fabricAsleep = false →
    let d := s.dev
    let x := d.stk k
    let ends := fun (c : Instr) (post : State → Prop) => ∃ t, exec c s = .next t ∧ t.pending = s.pending ∧ post t
    let gains := fun (t : State) (r : RegInfo) (i : Nat) => t.dev.rd64 r i = (d.rd64 r i + 1) % 2 ^ 64
    let goes := fun (c : Instr) (x : Dev) => exec c s = .next { s with dev := x }
    (∀ c f, d.cpy cid = some c → d.frame c.fid = some f → f.stack = some k.val → c.queue < 8192 → f.pool < 16 →
      (c.spill = 1 → x.st = .run →
        let i := f.lines.length - f.staged
        (x.writing = false ∨ d.writeTurn k ≠ some f.slice ∨ d.earlierWrite f = true → goes (.spillWriteDone ⟨cid, m⟩) d)
        ∧ (∀ a, x.writing = true → d.writeTurn k = some f.slice → d.earlierWrite f = false → f.lines[i]? = some a →
          ends (.spillWriteDone ⟨cid, 1⟩) (fun t => gains t R.HBM_WRITES k
            ∧ (SMap.get [] (t.dev.stk k).lines a).take (f.stageData.getD i []).length = f.stageData.getD i []
            ∧ t.dev.cpy cid = some (if f.staged = 1 ∧ f.bufWhole = true then { c with spill := 2 } else c)
            ∧ ∃ g, t.dev.frame c.fid = some g ∧ g.staged = f.staged - 1 ∧ g.lines = f.lines)))
      ∧ (c.spill = 3 → x.st = .run → ∀ a, f.lines[c.filled]? = some a →
        let turn := x.writing = false ∧ d.readTurn k = some (sliceOfQueue c.queue) ∧ d.earlierRead (sliceOfQueue c.queue) k c = false ∧ x.repair ≠ some a
        (¬ turn ∨ d.buf.take (d.buf.withheld.length + 1) = none → goes (.fillReadDone cid) d)
        ∧ (∀ n b, turn → d.buf.take (d.buf.withheld.length + 1) = some (n, b) →
          ends (.fillReadDone cid) (fun t => gains t R.FLE_CELLS (sliceOfQueue c.queue)
            ∧ SMap.get [] t.dev.buf.data n = (SMap.get [] x.lines a).take (f.cellLen c.filled)
            ∧ (∃ g, t.dev.frame c.fid = some g ∧ g.cells = f.cells ++ [n])
            ∧ t.dev.cpy cid = some (if f.lines.length = c.filled + 1 then { c with spill := 4, filled := 0, candAt := none }
              else { c with filled := c.filled + 1 }))))
      ∧ (SMap.wf none d.copies = true → d.fillCopies sl = [(cid, c, f)] → (∀ e ∈ d.hbm, e.2.st ≠ .frozen) → c.spill = 2 → c.candAt = none →
        x.st = .run ∨ x.st = .sleep → (d.firstCopies c.queue (max 1 (d.fldOf R.FLE_PF_CTRL sl 0 4))).contains cid = true → d.forced c.tag = none →
        f.lines.length ≤ min 16384 (d.fldOf R.FLE_PF_CELLS sl 0 16) - (f.cells.length - c.sent) →
        25600 ≤ (d.now - (d.spf sl).evalAt) * 135 → ends (.fillEvaluate sl) (fun t =>
          t.dev.cpy cid = some { c with spill := 3, filled := 0, candAt := some d.now, readSeq := (d.spf sl).reads } ∧ (t.dev.spf sl).evalAt = d.now)))
    ∧ (∀ t, m < 64 → exec (.spillWriteDone ⟨cid, 1⟩) s = .next t → exec (.spillWriteDone ⟨cid, m + 1⟩) s = exec (.spillWriteDone ⟨cid, m⟩) t)
    ∧ ((d.now - (d.spf sl).evalAt) * 135 < 25600 → goes (.fillEvaluate sl) d)
    ∧ (let long := max 1 (d.fldOf R.HBM_SCHED k 0 16) ≤ d.now - x.phaseSince
      let toReads := x.writing = true ∧ d.readsWait k = true ∧ (long ∨ d.writesWait k = false ∨ d.panicAt k = true)
      let toWrites := x.writing = false ∧ d.writesWait k = true ∧ d.panicAt k = false ∧ (long ∨ d.readsWait k = false)
      (x.st = .run → toReads → goes (.hbmPhaseSwitch k) (d.setStk k { x with writing := false, phaseSince := d.now }))
      ∧ (x.st = .run → toWrites → goes (.hbmPhaseSwitch k) (d.setStk k { x with writing := true, phaseSince := d.now, postponed := [] }))
      ∧ (x.st ≠ .run ∨ (¬ toReads ∧ ¬ toWrites) → goes (.hbmPhaseSwitch k) d))
    ∧ (x.st ≠ .run → x.st ≠ .frozen → goes (.hbmRefresh k pc) d ∧ goes (.hbmReplay ⟨k, pc, m⟩ reread true) d ∧ goes (.hbmReplay ⟨k, pc, m⟩ reread false) d)
    ∧ (x.st = .run ∨ x.st = .frozen →
      let put := SMap.get 0 x.postponed pc
      let most := min 8 (d.fldOf R.HBM_REF_CTRL k 0 4)
      (d.panicAt k = false → goes (.hbmRefresh k pc) (d.issued k pc .refresh))
      ∧ (d.panicAt k = true → put < most →
        goes (.hbmRefresh k pc) ((d.setStk k { x with postponed := SMap.set 0 x.postponed pc (put + 1) }).inc R.HBM_REF_POSTPONED k 1))
      ∧ (d.panicAt k = true → most ≤ put →
        goes (.hbmRefresh k pc) (((d.issued k pc .refresh).inc R.HBM_REF_FORCED k 1).raiseBit R.HBM_EVENTS k 7))
      ∧ ends (.hbmReplay ⟨k, pc, m⟩ reread false) (fun t => gains t (if reread then R.HBM_REREADS else R.HBM_REPLAYS) k
        ∧ (t.dev.stk k).fails = 0 ∧ (t.dev.stk k).st = x.st)
      ∧ (let most := max 1 (d.fldOf R.HBM_CTRL k 8 8)
        (x.fails < most → ends (.hbmReplay ⟨k, pc, m⟩ reread true) (fun t => (t.dev.stk k).fails = x.fails + 1 ∧ (t.dev.stk k).st = x.st))
        ∧ (most ≤ x.fails → ends (.hbmReplay ⟨k, pc, m⟩ reread true) (fun t => (t.dev.stk k).st = .frozen
          ∧ (d.stackCopies k = [] → gains t R.HBM_REPLAY_FAILS k)))))
    ∧ (let may := x.st = .run ∧ x.writing = true ∧ d.panicAt k = false ∧ d.spillsWait k = false
      x.repair ≠ none → (may → ends (.hbmScrubRead k) (fun t => (t.dev.stk k).repair = none ∧ gains t R.HBM_WRITES k ∧ gains t R.HBM_SCRUB_REPAIRS k))
        ∧ (¬ may → goes (.hbmScrubRead k) d))
    ∧ (x.repair = none →
      (d.scrubDue k = false ∨ (x.st ≠ .run ∧ x.st ≠ .sleep) ∨ (x.st = .run ∧ (x.writing = true ∨ d.fillsWait k = true)) → goes (.hbmScrubRead k) d)
      ∧ (d.scrubDue k = true → x.st = .sleep → goes (.hbmScrubRead k) (d.stackAsk k))
      ∧ (∀ a, d.scrubDue k = true → x.st = .run → x.writing = false → d.fillsWait k = false → d.scrubLine k = some a →
        ends (.hbmScrubRead k) (fun t => gains t R.HBM_READS k ∧ (t.dev.stk k).scrubPos = a + 1 ∧ (t.dev.stk k).scrubAt = d.now)))
    ∧ (s.linked h → x.st ≠ .sleep → x.st ≠ .offline →
      let p := d.page k pg.toNat
      let unused := p.st = .free ∨ ((p.st = .closed ∨ p.st = .open_) ∧ p.live = 0 ∧ p.writing = 0)
      (unused → ends (.pageRetire h k pg) (fun t => (t.dev.page k pg.toNat).st = .retired ∧ fld (t.dev.rd R.HBM_EVENTS k) 5 1 = 1))
      ∧ (¬ unused → p.st ≠ .retired → goes (.pageRetire h k pg) (d.setPage k pg.toNat { p with retiring := true }))
      ∧ (p.st = .retired → goes (.pageRetire h k pg) d))
    ∧ (let done := fun (x : Dev) (r : Nat) => ((x.setStk k { x.stk k with diag := 0 }).wr R.HBM_DIAG_STATUS k r).raiseBit R.HBM_EVENTS k 9
      let p0 := d.fldOf R.HBM_DIAG_ADDR k 6 20
      let p1 := min 1048576 (p0 + d.fldOf R.HBM_DIAG_COUNT k 0 21)
      (x.diag ≠ 1 → goes (.readLine k) d) ∧ (x.diag ≠ 2 → goes (.testPages k bad) d)
      ∧ (x.diag = 1 → x.st ≠ .frozen → goes (.readLine k) (done d 1))
      ∧ (x.diag = 1 → x.st = .frozen → ends (.readLine k) (fun t => (t.dev.stk k).diag = 0 ∧ t.dev.rd R.HBM_DIAG_STATUS k = 0
        ∧ ∀ j, j < 64 → t.dev.rd R.HBM_DIAG_DATA (k.val * 64 + j) = leAt (SMap.get [] x.lines (d.fldOf R.HBM_DIAG_ADDR k 0 26)) (4 * j) 4))
      ∧ (x.diag = 2 → x.st ≠ .frozen → goes (.testPages k bad) (done d 1))
      ∧ (x.diag = 2 → x.st = .frozen → (∃ e ∈ x.pages, p0 ≤ e.1 ∧ e.1 < p1 ∧ (e.2.st = .open_ ∨ e.2.st = .closed)) → goes (.testPages k bad) (done d 2))
      ∧ (x.diag = 2 → x.st = .frozen → (∀ e ∈ x.pages, p0 ≤ e.1 → e.1 < p1 → e.2.st = .free ∨ e.2.st = .retired) →
        ends (.testPages k bad) (fun t => (t.dev.stk k).diag = 0 ∧ t.dev.rd R.HBM_DIAG_STATUS k = 0
          ∧ (∀ p ∈ bad, p0 ≤ p → p < p1 → (t.dev.page k p).st = .retired)
          ∧ ∀ a, p0 ≤ a / 64 → a / 64 < p1 → SMap.get [] (t.dev.stk k).lines a = (List.range 256).map Config.testPattern)))

/-- No memory in error. While the fabric sleeps no row of these changes anything, nor does COPY_START of a slice that does not run or while the recirculation that its pipeline feeds is full (the model's choice, log 146), a governor row where the oldest command has another OP, or AGER_VISIT with ageing off. COPY_START else: the heads that must go have gone and lost turns have ended; with no eligible class nothing more happens; else the copy at the head of the bin, of the class, of the port that are picked has started, the pipeline remembers the port, and, with no stack frozen, TMP_DEQ_FRAMES and TMQ_DEQ_FRAMES gain 1. AGER_VISIT with ageing on leaves a head copy that spills or fills, or is under no forced retire and no older than its pool allows; where every head of the queue stays and no stack is frozen nothing changes; of the first bin whose head does not stay, that copy is gone. For the governor command that is oldest: WRITE with EN and a rate or burst that cannot be ends in BAD_RATE, else waits for the refill; READ returns the configuration and the buckets; READ_STATS the statistics, READ_CLEAR_STATS clears them too; RESET_BUCKETS waits for the refill. -/
def Obligations.SchedulerAgerAndGovernor : Prop :=
  ∀ (sl : SliceNo) (p : PipeNo) (qn : QueueNo) (h v : Nat) (rest : List (Nat × Nat)) (s : State), s.noUpsets →
    SMap.wf none s.dev.copies = true →
    let d := s.dev
    let i := sl.val * 4 + h
    let k := sl.val * 32768 + d.fldOf R.GOV_CMD_INDEX i 0 15
    let x := d.policer k
    let rows := [(Instr.govWrite sl, 1), (.govRead sl, 2), (.govReadStats sl, 3), (.govReadClearStats sl, 4), (.govResetBuckets sl, 5)]
    let ends := fun (c : Instr) (y : Dev) (status : Nat) => exec c s = .next { s with dev := y.cmdDone .gov sl status }
    let stats := (((((((d.wr64 R.GOV_ST_GREEN_FR i x.greenFr).wr64 R.GOV_ST_GREEN_BY i x.greenBy).wr64 R.GOV_ST_YEL_FR i x.yelFr).wr64
      R.GOV_ST_YEL_BY i x.yelBy).wr64 R.GOV_ST_RED_FR i x.redFr).wr64 R.GOV_ST_RED_BY i x.redBy).wr64 R.GOV_ST_DROPS i x.drops)
    let asked := (d.rd R.GOV_CIR i, d.rd R.GOV_PIR i, d.rd R.GOV_CBS i, d.rd R.GOV_PBS i, d.rd R.GOV_FLAGS i)
    let bad := fld (d.rd R.GOV_FLAGS i) 2 1 = 1
      ∧ (d.rd R.GOV_PIR i < d.rd R.GOV_CIR i ∨ d.rd R.GOV_CBS i = 0 ∨ d.rd R.GOV_PBS i = 0)
    (d.fan.fabricAsleep = true ∨ (d.slc sl).st ≠ .run ∨ d.recircFull sl p = true → exec (.copyStart sl p) s = .next s)
    ∧ (d.fan.fabricAsleep = true ∨ d.bitOf R.BPM_AGE_CTRL 0 0 = false → exec (.agerVisit qn) s = .next s)
    ∧ (∀ c ∈ rows, d.fan.fabricAsleep = true ∨ d.cmdHead .gov sl c.2 = none → exec c.1 s = .next s)
    ∧ (d.fan.fabricAsleep = false →
    ((d.slc sl).st = .run → d.recircFull sl p = false →
      let e := (List.range 16).foldl (fun e j => let n := sl.val * 64 + p.val * 16 + j
        if e.portOpen n then (e.planReads n).turnsLost n else e) (d.schedPrep sl p)
      (e.schedPort sl p = none → exec (.copyStart sl p) s = .next { s with dev := e })
      ∧ (∀ n cls grouped g b y cid c, e.schedPort sl p = some n → e.pickClass n (e.eligClasses n) = some (cls, grouped, g) →
        let z := if grouped then { e with tm := { e.tm with groups := SMap.set {} e.tm.groups n { g with since := e.now } } } else e
        (SMap.get {} z.tm.bins (n * 16 + cls)).pick (z.eligBins (n * 16 + cls)) (z.binQuantum (n * 16 + cls)) = some (b, y) →
        e.binHead (n * 16 + cls) b = some (cid, c) → c.queue = n * 16 + cls → c.ended = false →
        ∃ t, exec (.copyStart sl p) s = .next t ∧ t.pending = s.pending
          ∧ SMap.get 0 t.dev.tm.served (sl.val * 4 + p.val) = n + 1
          ∧ (∃ w, t.dev.cpy cid = some w ∧ w.place = .started)
          ∧ ((∀ j ∈ e.hbm, j.2.st ≠ .frozen) →
            t.dev.rd64 R.TMP_DEQ_FRAMES n = (e.rd64 R.TMP_DEQ_FRAMES n + 1) % 2 ^ 64
            ∧ t.dev.rd64 R.TMQ_DEQ_FRAMES (n * 16 + cls) = (e.rd64 R.TMQ_DEQ_FRAMES (n * 16 + cls) + 1) % 2 ^ 64)))
    ∧ (d.bitOf R.BPM_AGE_CTRL 0 0 = true →
      let limit := fun (c : Copy) => d.fldOf R.BPM_POOL_AGE (match d.frame c.fid with | some f => f.pool | none => 0) 0 16
      let stays := fun (c : Copy) => (c.spill = 1 ∨ c.spill = 3)
        ∨ (d.forced c.tag = none ∧ (limit c = 0 ∨ d.ageOf c.tag.ts ≤ limit c * 40000))
      ((∀ (b : Fin 64) cid c, d.binHead qn b = some (cid, c) → stays c) → (∀ e ∈ d.hbm, e.2.st ≠ .frozen) →
        exec (.agerVisit qn) s = .next s)
      ∧ (∀ (b : Fin 64) cid c, d.binHead qn b = some (cid, c) → ¬ stays c →
        (∀ (b' : Fin 64) cid' c', b' < b → d.binHead qn b' = some (cid', c') → stays c') →
        ∃ t, exec (.agerVisit qn) s = .next t ∧ t.pending = s.pending ∧ t.dev.cpy cid = none))
    ∧ (s.queued .gov sl 1 h v rest →
      (bad → ends (.govWrite sl) d 4)
      ∧ (¬ bad → ends (.govWrite sl) (d.setPolicer k { x with pending := some asked }) 0))
    ∧ (s.queued .gov sl 2 h v rest → ends (.govRead sl) (((((((d.wr R.GOV_CIR i x.cir).wr R.GOV_PIR i x.pir).wr R.GOV_CBS i x.cbs).wr
      R.GOV_PBS i x.pbs).wr R.GOV_FLAGS i x.flags).wr R.GOV_TC i (wholeBytes x.tc)).wr R.GOV_TP i (wholeBytes x.tp)) 0)
    ∧ (s.queued .gov sl 3 h v rest → ends (.govReadStats sl) stats 0)
    ∧ (s.queued .gov sl 4 h v rest → ends (.govReadClearStats sl) (stats.setPolicer k
      { x with greenFr := 0, greenBy := 0, yelFr := 0, yelBy := 0, redFr := 0, redBy := 0, drops := 0 }) 0)
    ∧ (s.queued .gov sl 5 h v rest → ends (.govResetBuckets sl) (d.setPolicer k { x with resetDue := true }) 0))

/-- Fabric awake. SHAPER_REFILL with n refills due, n not 0: every policer and every shaper is filled n times, TM_REFILLS gains n; with none due nothing changes. CONFIG_CHANGE of a linked host port: a list that R480 refuses sets CONFIG_ERR alone; another is pending with its base time as change time where that is 1000 ns ahead, else with the first later cycle start that is, and PAST. CANCEL discards the pending list. GATE_LIST_CHANGE at the change time makes the list the oper list with its base there; before it, and with none pending, nothing changes. GATE_ENTRY_BOUNDARY latches the gates of the time; with no oper list nothing. OVERSIZE_DISCARD of a resident head copy that has been oversize for OVS_CYCLES: the copy is gone, TMQ_OVERSIZE gains 1; before that it stays. PFC_FRAME_RX of a frame that R486 accepts sets the pause timers of the enabled priorities, held from 200 ns after its last byte, and counts; another is counted as bad; with none nothing changes. PAUSE_TIMER_EXPIRE at its time ends the pause, its last nanoseconds counted. PFC_REFRESH at its time sends the frame again from a port that is UP; in a quiet interval the frame waits; both before their time, and PFC_REFRESH of a port not UP, change nothing. -/
def Obligations.RefillsGatesAndPause : Prop :=
  ∀ (h : HostNo) (n : LportNo) (prio : Fin 8) (q : QueueNo) (b : Fin 64) (s : State), s.dev.fan.fabricAsleep = false →
    let d := s.dev
    let x := d.tmp n
    let ends := fun (c : Instr) (post : State → Prop) => ∃ t, exec c s = .next t ∧ t.pending = s.pending ∧ post t
    let gains := fun (t : State) (r : RegInfo) (i m : Nat) => t.dev.rd64 r i = (d.rd64 r i + m) % 2 ^ 64
    (d.refillsDue = 0 → exec .shaperRefill s = .next s)
    ∧ (d.refillsDue ≠ 0 → ends .shaperRefill (fun t => gains t R.TM_REFILLS 0 d.refillsDue ∧ t.dev.tm.lastRefill = d.now
      ∧ (SMap.wf {} d.tm.policers = true → ∀ k, t.dev.policer k = (d.policer k).refill d.refillsDue)
      ∧ (∀ k : QueueNo, t.dev.queueShaper k = (d.queueShaper k).refill d.refillsDue (d.rd R.TMQ_SHAPE_RATE k) (d.rd R.TMQ_SHAPE_BURST k))
      ∧ (∀ k : LportNo, t.dev.portShaper k = (d.portShaper k).refill d.refillsDue (d.rd R.TMP_SHAPE_RATE k) (d.rd R.TMP_SHAPE_BURST k))))
    ∧ (s.linked h →
      let l := d.adminList n
      let len := d.rd R.SLU_ADMIN_LEN n
      let bad := len = 0 ∨ 64 < len ∨ l.cycle = 0 ∨ ∃ e ∈ l.ents, e.2 = 0
      let planned := fun (c : Nat) => (d.setTmp n { x with pend := some (l, c, d.ns64) }).wr64 R.SLU_CHANGE_TIME n c
      (bad → exec (.configChange h n) s = .next { s with dev := (d.raiseBit R.SLU_EVENTS n 1).raiseBit R.TM_EVENTS 0 4 })
      ∧ (¬ bad → d.ns64 + 1000 ≤ l.base → exec (.configChange h n) s = .next { s with dev := planned l.base })
      ∧ (¬ bad → l.base < d.ns64 + 1000 → ∃ m, d.ns64 + 1000 ≤ l.base + m * l.cycle ∧ l.base + m * l.cycle < d.ns64 + 1000 + l.cycle
        ∧ exec (.configChange h n) s = .next { s with dev := (planned (l.base + m * l.cycle)).raiseBit R.SLU_EVENTS n 3 })
      ∧ exec (.gateCancel h n) s = .next { s with dev := d.setTmp n { x with pend := none } })
    ∧ (x.pend = none → exec (.gateListChange n) s = .next s)
    ∧ (∀ l c conf, x.pend = some (l, c, conf) →
      (d.ns64 < c → exec (.gateListChange n) s = .next s)
      ∧ (c ≤ d.ns64 → ends (.gateListChange n) (fun t => (t.dev.tmp n).oper = some { l with base := c } ∧ (t.dev.tmp n).pend = none
        ∧ gains t R.SLU_CHANGES n 1 ∧ fld (t.dev.rd R.SLU_EVENTS n) 0 1 = 1)))
    ∧ (x.oper ≠ none → exec (.gateEntryBoundary n) s = .next { s with dev := d.setTmp n { x with gates := (d.gateSeg n d.ns64).1 } })
    ∧ (x.oper = none → exec (.gateEntryBoundary n) s = .next s)
    ∧ (∀ cid c l t0, SMap.wf none d.copies = true → d.binHead q b = some (cid, c) → (d.tmp (q.val / 16)).oper = some l → c.ovsSince = some t0 →
      d.oversize c = true → c.spill = 0 ∨ c.spill = 4 →
      let k := d.fldOf R.SLU_CTRL (q.val / 16) 8 8
      (k = 0 ∨ k ≤ l.cyclesIn t0 d.ns64 →
        ends (.oversizeDiscard q b) (fun t => t.dev.cpy cid = none ∧ gains t R.TMQ_OVERSIZE q 1 ∧ fld (t.dev.rd R.TM_EVENTS 0) 2 1 = 1))
      ∧ (k ≠ 0 → l.cyclesIn t0 d.ns64 < k → ends (.oversizeDiscard q b) (fun t => t.dev.cpy cid = some c)))
    ∧ (d.pfcRx = [] → exec .pfcFrameRx s = .next s)
    ∧ (∀ bs at_ rest, d.pfcRx = (n.val, bs, at_) :: rest →
      let good := beAt bs 12 2 = 0x8808 ∧ beAt bs 14 2 = 0x0101 ∧ bs.length = 64
      let sets := fun (p : Nat) => fld (beAt bs 16 2) p 1 = 1 ∧ d.bitOf R.TMP_CTRL n (24 + p) = true
      let time := fun (p : Nat) => beAt bs (18 + 2 * p) 2
      (¬ good → exec .pfcFrameRx s = .next { s with dev := ({ d with pfcRx := rest }.inc R.TMP_PFC_RX_BAD n 1).raiseBit R.TMP_EVENTS n 2 })
      ∧ (good → ends .pfcFrameRx (fun t => t.dev.pfcRx = rest ∧ gains t R.TMP_PFC_RX_FRAMES n 1
        ∧ ∀ p, p < 8 →
          (sets p → SMap.get 0 (t.dev.tmp n).pauseEnd p = (if time p = 0 then 0 else d.now + ceilDiv (time p * 512) (d.macRate n))
            ∧ (time p ≠ 0 → SMap.get 0 (t.dev.tmp n).pauseFrom p
              = if d.now < SMap.get 0 x.pauseEnd p then SMap.get 0 x.pauseFrom p else at_ + 200))
          ∧ (¬ sets p → SMap.get 0 (t.dev.tmp n).pauseEnd p = SMap.get 0 x.pauseEnd p))))
    ∧ (let stop := SMap.get 0 x.pauseEnd prio
      (stop = 0 ∨ d.now < stop → exec (.pauseTimerExpire n prio) s = .next s)
      ∧ (stop ≠ 0 → stop ≤ d.now → ends (.pauseTimerExpire n prio) (fun t => SMap.get 0 (t.dev.tmp n).pauseEnd prio = 0
        ∧ gains t R.TMP_PAUSED_NS (n * 8 + prio) (stop - max (SMap.get 0 x.pauseFrom prio) (SMap.get 0 x.pauseMark prio)))))
    ∧ (let due := fld x.xoff prio 1 = 1 ∧ d.bitOf R.TMP_CTRL n (16 + prio.val) = true
        ∧ max 1 (d.fldOf R.TMP_PFC_TIME n 16 16) * 512 ≤ (d.now - SMap.get 0 x.xoffSent prio) * d.macRate n
      let again := [(prio.val, d.fldOf R.TMP_PFC_TIME n 0 16)]
      (¬ due ∨ (d.lp n).st ≠ .up → exec (.pfcRefresh n prio) s = .next s)
      ∧ (due → (d.lp n).st = .up → (d.lp n).txQuiet = true → exec (.pfcRefresh n prio) s
        = .next { s with dev := d.setTmp n { x with pfcDue := x.pfcDue ++ [again], xoffSent := SMap.set 0 x.xoffSent prio d.now } })
      ∧ (due → (d.lp n).st = .up → (d.lp n).txQuiet = false → ends (.pfcRefresh n prio) (fun t =>
        gains t R.TMP_PFC_TX_FRAMES n 1 ∧ SMap.get 0 (t.dev.tmp n).xoffSent prio = d.now)))

/-- For a host port, linked where it acts. ACQUIRE of a free lease grants it with GEN plus 1 and the term; of its own renews the term; of another's is BUSY and changes no lease. RELEASE of its own frees it; else NOT_HOLDER. LEASE_EXPIRE after the term frees it and sets the event; before, or with no holder, nothing. PORT_RESET frees its leases, stops its rings, clears Bus Master Enable, empties its punt queue and, where it holds no claim on the loader, drops its unsent records; its key stands. RING_RECORD_POST of the oldest record: to a ring that is off it goes nowhere; with Bus Master Enable 0 or no room it is lost and counted; else PROD passes it, behind a filler where it would cross the end, and without one, nor index write-back, it stands at PROD in host memory. MSIX_RAISE of a ring that is due sends its vector, or sets its PBA bit where masked; not due, nothing. RING_CONS_WRITE ends a raise, moves CONS of the rings whose CONS is the host's, and of the punt ring wakes the fabric (DEDUCED, log 173). RING_ENABLE starts a stopped ring at 0; in a running one LOG2 and PROD stand. PUNT_WRITE, no memory in error, writes the oldest whole frame into its slot, or loses it with Bus Master Enable 0; one not whole, or with no room, waits. INJECT_DESCRIPTOR offers the frame of a good descriptor and skips and counts a bad one; with none to take, nothing. A PCIe error stops the ring of a record, a punted frame or a descriptor. -/
def Obligations.LeasesAndRingsServeTheHosts : Prop :=
  ∀ (h : HostNo) (n : LeaseNo) (r : RingNo) (term : BitVec 16) (v : Word) (down : Bool) (s : State),
    let d := s.dev
    let l := d.lease n
    let x := d.host h
    let i := ringAt h r
    let ring := d.ring i
    let prod := d.rd R.RING_PROD i
    let ends := fun (c : Instr) (post : State → Prop) => ∃ t, exec c s = .next t ∧ t.pending = s.pending ∧ post t
    let gains := fun (t : State) (r : RegInfo) (i : Nat) => t.dev.rd64 r i = (d.rd64 r i + 1) % 2 ^ 64
    let result := fun (t : State) => fld (t.dev.rd R.HPL_LEASE_RESULT h) 0 4
    let till := d.now + max 1 term.toNat * 1000000
    let stopped := fun (c : Instr) => ends c (fun t => t.dev.ringEn i = false ∧ fld (t.dev.rd R.HPL_EVENTS h) 3 1 = 1)
    (s.linked h →
      (l.holder = none → ends (.leaseAcquire h n term) (fun t => result t = 0
        ∧ t.dev.lease n = { holder := some h.val, gen := (l.gen + 1) % 65536, deadline := till }))
      ∧ (l.holder = some h.val → ends (.leaseAcquire h n term) (fun t => result t = 1 ∧ t.dev.lease n = { l with deadline := till }))
      ∧ (∀ k, l.holder = some k → k ≠ h.val → ends (.leaseAcquire h n term) (fun t => result t = 2 ∧ t.dev.leases = d.leases))
      ∧ (l.holder = some h.val → ends (.leaseRelease h n) (fun t => result t = 3 ∧ t.dev.lease n = { l with holder := none, deadline := 0 }))
      ∧ (l.holder ≠ some h.val → ends (.leaseRelease h n) (fun t => result t = 4 ∧ t.dev.leases = d.leases))
      ∧ exec (.ringConsWrite h r v) s = .next { s with dev :=
        ((if r.val < 5 then d.wr R.RING_CONS i v.toNat else if r.val = 5 then (d.wr R.RING_CONS i v.toNat).wakeFabric else d).setRing i
          { ring with raised := false }) }
      ∧ (d.ringEn i = false → ends (.ringEnable h r v) (fun t => t.dev.ringEn i = true ∧ t.dev.rd R.RING_PROD i = 0
        ∧ t.dev.rd R.RING_CONS i = 0 ∧ t.dev.ring i = {}))
      ∧ (d.ringEn i = true → ends (.ringEnable h r v) (fun t => t.dev.ringEn i = true ∧ t.dev.rd R.RING_PROD i = prod ∧ t.dev.ring i = ring
        ∧ fld (t.dev.rd R.RING_CTRL i) 0 5 = fld (d.rd R.RING_CTRL i) 0 5)))
    ∧ (l.holder = none → exec (.leaseExpire n) s = .next s)
    ∧ (∀ k, l.holder = some k → k < 4 →
      (d.now < l.deadline → exec (.leaseExpire n) s = .next s)
      ∧ (l.deadline ≤ d.now → ends (.leaseExpire n) (fun t => t.dev.lease n = { l with holder := none, deadline := 0 }
        ∧ fld (t.dev.rd R.HPL_EVENTS k) 4 1 = 1)))
    ∧ ends (.portReset h down) (fun t => (∀ k : LeaseNo, (t.dev.lease k).holder ≠ some h.val) ∧ (∀ k : RingNo, t.dev.ringEn (ringAt h k) = false)
      ∧ (t.dev.host h).punt = [] ∧ (t.dev.host h).bme = false ∧ (t.dev.host h).up = (x.up && !down) ∧ (t.dev.host h).key = x.key ∧ (d.owns h = false → ∀ q ∈ t.dev.ringQ, q.host ≠ h.val))
    ∧ (∀ q rest, d.ringQ = q :: rest → q.host = h.val → q.ring = r.val →
      let len := ceilDiv (16 + q.payload.length) 32
      let size := 2 ^ d.ringLog2 i
      let fill := if size < prod % size + len then size - prod % size else 0
      let bytes := d.recordHead i prod len q.typ q.aux (ring.seq + 1) q.secs q.ns ring.lost ++ q.payload
      (d.ringEn i = false → exec (.ringRecordPost false) s = .next { s with dev := { d with ringQ := rest } })
      ∧ (d.ringEn i = true → x.bme = false ∨ d.ringRoom i < fill + len → ends (.ringRecordPost false) (fun t =>
        gains t R.RING_LOST i ∧ (t.dev.ring i).lost = true))
      ∧ (d.ringEn i = true → x.bme = true → fill + len ≤ d.ringRoom i → stopped (.ringRecordPost true)
        ∧ ends (.ringRecordPost false) (fun t => t.dev.ringQ = rest ∧ t.dev.rd R.RING_PROD i = (prod + fill + len) % 2 ^ 32
          ∧ (fill = 0 → gains t R.RING_DONE i ∧ (d.ringWb i = 0 →
            t.dev.hostRead h (d.ringEntry i prod 32) (32 * len) = bytes ++ List.replicate (32 * len - bytes.length) 0)))))
    ∧ (let due := d.ringEn i = true ∧ x.bme = true ∧ ring.raised = false ∧ 0 < ring.unsignalled
        ∧ (max 1 (d.fldOf R.RING_MOD i 0 16) ≤ ring.unsignalled ∨ ring.oldest + d.fldOf R.RING_MOD i 16 16 * 1000 ≤ d.now)
      let vec := d.fldOf R.RING_CTRL i 16 5
      (¬ due → exec (.msixRaise h r) s = .next s)
      ∧ (due → d.msixMasked h vec = false → exec (.msixRaise h r) s = .next { s with dev :=
        ((d.setRing i { ring with raised := true, unsignalled := 0 }).setHost h { x with msixSent := vec :: x.msixSent }) })
      ∧ (due → d.msixMasked h vec = true → ends (.msixRaise h r) (fun t => (t.dev.ring i).raised = true ∧ t.dev.hosts = d.hosts
        ∧ fld (t.dev.rd R.MSIX_PBA (h.val * 2)) vec 1 = 1)))
    ∧ (x.punt = [] → exec (.puntWrite h false) s = .next s)
    ∧ (∀ e rest f, r.val = 5 → x.punt = e :: rest → d.frame e.fid = some f → s.noUpsets →
      let bad := f.bufBad
      let data := f.cells.flatMap (fun c => SMap.get [] d.buf.data c)
      let slot := d.puntBytes h i f data bad
      (e.whole = false → exec (.puntWrite h false) s = .next s)
      ∧ (e.whole = true → d.forced f.tag = none → x.bme = false → ends (.puntWrite h false) (fun t => gains t R.RING_LOST i
        ∧ (t.dev.host h).punt = rest))
      ∧ (e.whole = true → d.forced f.tag = none → x.bme = true → d.ringEn i = false ∨ d.ringRoom i = 0 → exec (.puntWrite h false) s = .next s)
      ∧ (e.whole = true → d.forced f.tag = none → x.bme = true → d.ringEn i = true → d.ringRoom i ≠ 0 → stopped (.puntWrite h true)
        ∧ ends (.puntWrite h false) (fun t => gains t R.HPL_PUNT_FRAMES h ∧ (t.dev.host h).punt = rest ∧ t.dev.frame e.fid = none
          ∧ t.dev.rd R.RING_PROD i = (prod + 1) % 2 ^ 32
          ∧ (d.ringWb i = 0 → t.dev.hostRead h (d.ringEntry i prod (2 ^ d.puntSlot h)) slot.length = slot))))
    ∧ (x.bme = false ∨ x.injHeld ≠ none ∨ d.injRing h x.injTurn 4 = none → exec (.injectDescriptor h down) s = .next s)
    ∧ (∀ k, x.bme = true → x.injHeld = none → d.injRing h x.injTurn 4 = some k → r.val = 6 + k →
      let e := d.hostRead h (d.ringEntry i (d.rd R.RING_CONS i) 32) 32
      let len := leAt e 8 2 % 2 ^ 14
      (len < 64 ∨ leAt e 12 20 ≠ 0 → ends (.injectDescriptor h false) (fun t => gains t R.HPL_INJ_BAD h
        ∧ t.dev.rd R.RING_CONS i = (d.rd R.RING_CONS i + 1) % 2 ^ 32))
      ∧ (64 ≤ len → leAt e 12 20 = 0 → ends (.injectDescriptor h false) (fun t => (t.dev.host h).injHeld = some (d.nextFid, i)
        ∧ (t.dev.host h).injTurn = (k + 1) % 4 ∧ ∃ f, t.dev.frame d.nextFid = some f ∧ f.bytes = d.hostRead h (leAt e 0 8) len
          ∧ f.lport = leAt e 10 2 % 512 ∧ f.whole = true ∧ f.place = .offered))
      ∧ stopped (.injectDescriptor h true))

/-- No memory in error, no warm reset, no access held in the bridge. READ_BLOCK, WRITE_BLOCK and PROGRAM with no descriptor, or one of another's operation, change nothing; of one of theirs with a field out of range, or of an undefined operation, STATUS is BAD_DESC (index write-back off, as in all that follows of them). Of 4 bytes at VER_DRAIN_LIMIT, READ_BLOCK puts the register at HOST_ADDR and WRITE_BLOCK writes its field from there, with STATUS OK and 1 unit; a PROGRAM of one WRITE entry does the same; a failed request gives PCIE_ERR and stops the ring. AMILER_REQUEST with one in execution, or none waiting, changes nothing; it takes a well-formed out-of-band request first, rejects a malformed one, and takes a whole in-band one whose key, MAC and SEQ pass, with AML_SEQ and AML_ACCEPTED, or else rejects and counts it under the first check that fails. AML_WRITE, AML_READ, AML_READ64 and AML_WAIT, where the next entry is of another kind or there is none, change nothing; else they execute it, here at VER_DRAIN_LIMIT and VER_COMMITS, with its status and value (a WAIT whose bits stand waits, until it times out), and the last entry of an out-of-band request clears BUSY (an in-band one here asks for no response). LOAD makes the staged key the key, KEY_CLEAR removes both; GO makes the request wait, and while BUSY is ignored. -/
def Obligations.DmaAndAmilerAct : Prop :=
  ∀ (h : HostNo) (s : State), s.noUpsets → s.dev.fan.warmRunning = none → s.dev.bridge = [] →
    let d := s.dev
    let x := d.host h
    let i := ringAt h 10
    let ends := fun (c : Instr) (post : State → Prop) => ∃ t, exec c s = .next t ∧ t.pending = s.pending ∧ post t
    let gains := fun (t : State) (r : RegInfo) (i : Nat) => t.dev.rd64 r i = (d.rd64 r i + 1) % 2 ^ 64
    let at_ := d.ringEntry i (d.rd R.RING_CONS i) 32 + 20
    let status := fun (t : State) (st units : Nat) => t.dev.hostRead h at_ 4 = leBytes 4 (st + units * 256)
    let reg := R.VER_DRAIN_LIMIT.addr 0
    let word := d.rd R.VER_DRAIN_LIMIT 0
    let takes := fun (t : State) (v : Nat) => t.dev.rd R.VER_DRAIN_LIMIT 0 = (word &&& 0xFF000000) ||| (v &&& 0xFFFFFF)
    (d.dmaHead h = none → exec (.readBlock h none) s = .next s ∧ exec (.writeBlock h none) s = .next s ∧ exec (.program h false) s = .next s)
    ∧ (∀ e, d.dmaHead h = some e → d.ringWb i = 0 →
      (∀ c ∈ [(Instr.readBlock h none, 1), (.writeBlock h none, 2), (.program h false, 3)],
        (e.op ≠ c.2 → 1 ≤ e.op → e.op ≤ 3 → exec c.1 s = .next s)
        ∧ (e.op = c.2 ∨ e.op = 0 ∨ 3 < e.op → e.good = false → ends c.1 (fun t => status t 1 0 ∧ gains t R.RING_DONE i ∧ t.dev.rd R.RING_CONS i = (d.rd R.RING_CONS i + 1) % 2 ^ 32)))
      ∧ (e.good = true → e.op = 1 → e.wide = false → e.len = 4 → e.bar = reg → e.host + 4 ≤ at_ ∨ at_ + 4 ≤ e.host →
        ends (.readBlock h none) (fun t => status t 0 1 ∧ t.dev.hostRead h e.host 4 = leBytes 4 word)
        ∧ ends (.readBlock h (some 0)) (fun t => status t 2 0 ∧ t.dev.ringEn i = false))
      ∧ (e.good = true → e.op = 2 → e.len = 4 → e.bar = reg →
        ends (.writeBlock h none) (fun t => status t 0 1 ∧ takes t (leNat (d.hostRead h e.host 4))))
      ∧ (e.good = true → e.op = 3 → e.len = 8 → x.dma = none → leNat (d.hostRead h e.host 4) = reg →
        ends (.program h false) (fun t => status t 0 1 ∧ takes t (leNat (d.hostRead h (e.host + 4) 4)))))
    ∧ (d.aml.isSome = true ∨ ((∀ k, k < 4 → (d.host k).oobBusy = false) ∧ d.amlWhole = none) → exec .amilerRequest s = .next s)
    ∧ (d.aml = none →
      (let body := (List.range 256).flatMap (fun j => leBytes 4 (d.rd R.HPL_AML_REQ (h.val * 256 + j)));
        x.oobBusy = true → (∀ k, k < h.val → (d.host k).oobBusy = false) →
        (amlFormat body false = true → exec .amilerRequest s = .next { s with dev := { d with aml := some (amlRun h true body [] [] {}) } })
        ∧ (amlFormat body false = false → ends .amilerRequest (fun t => t.dev.aml = none ∧ (t.dev.host h).oobBusy = false
          ∧ gains t R.AML_REJ_FORMAT 0)))
      ∧ (∀ fid f, (∀ k, k < 4 → (d.host k).oobBusy = false) → d.amlWhole = some fid → d.frame fid = some f → d.forced f.tag = none →
        let data := f.cells.flatMap (fun c => SMap.get [] d.buf.data c)
        let body := (data.take (data.length - 4)).drop (ethLen data)
        let n := 16 + 8 * byteAt body 3
        let wellFormed := f.bufBad = 0 ∧ n + 16 ≤ body.length ∧ amlFormat body true = true
        let rejected := fun (r : RegInfo) => ends .amilerRequest (fun t => gains t r 0 ∧ t.dev.aml = none ∧ t.dev.amlQ = d.amlQ.filter (· ≠ fid))
        (¬ wellFormed → rejected R.AML_REJ_FORMAT)
        ∧ (wellFormed → byteAt body 2 = h.val →
          (x.key = none → rejected R.AML_REJ_KEY)
          ∧ (∀ key, x.key = some key →
            (cmac key (body.take n) ≠ slice body n 16 → rejected R.AML_REJ_MAC)
            ∧ (cmac key (body.take n) = slice body n 16 →
              (beAt body 4 8 ≤ d.rd64 R.AML_SEQ h → rejected R.AML_REJ_REPLAY)
              ∧ (d.rd64 R.AML_SEQ h < beAt body 4 8 → ends .amilerRequest (fun t => gains t R.AML_ACCEPTED 0
                ∧ t.dev.rd64 R.AML_SEQ h = beAt body 4 8 ∧ t.dev.amlQ = d.amlQ.filter (· ≠ fid)
                ∧ t.dev.aml = some (amlRun h false body key (data.take (ethLen data)) f.tag))))))))
    ∧ (∀ c ∈ [(Instr.amlWrite, 0), (.amlRead, 1), (.amlWait, 2), (.amlRead64, 3)],
      (d.aml = none → exec c.1 s = .next s)
      ∧ ∀ a e rest, d.aml = some a → a.todo = e :: rest → fld e.1 30 2 ≠ c.2 → exec c.1 s = .next s)
    ∧ (∀ a e rest, d.aml = some a → a.todo = e :: rest → a.abandon = false → a.host = h.val → (rest = [] → a.oob = true ∨ a.noReply = true) →
      let done := fun (c : Instr) (st v : Nat) (post : State → Prop) => ends c (fun t => gains t R.AML_ENTRIES 0 ∧ post t
        ∧ (rest ≠ [] →
          t.dev.aml = some { a with done := a.done ++ [(e.1, st, v)], todo := rest, waitSince := none })
        ∧ (rest = [] → t.dev.aml = none ∧ (a.oob = true → (t.dev.host h).oobBusy = false)))
      (fld e.1 30 2 = 0 → fld e.1 0 28 = reg → done .amlWrite 0 0 (fun t => takes t (e.2 % 2 ^ 32)))
      ∧ (fld e.1 30 2 = 1 → fld e.1 0 28 = reg → done .amlRead 0 word (fun _ => True))
      ∧ (fld e.1 30 2 = 3 → fld e.1 0 28 = R.VER_COMMITS.addr 0 → d.bitOf R.STAT_VIEW h 0 = false →
        done .amlRead64 0 (d.rd64 R.VER_COMMITS 0) (fun _ => True))
      ∧ (fld e.1 30 2 = 2 → fld e.1 0 28 = reg →
        (word &&& e.2 = 0 → done .amlWait 0 word (fun _ => True))
        ∧ (word &&& e.2 ≠ 0 → d.now < a.waitSince.getD d.now + d.amlWait →
          exec .amlWait s = .next { s with dev := { d with aml := some { a with waitSince := some (a.waitSince.getD d.now) } } })
        ∧ (word &&& e.2 ≠ 0 → a.stop = false → a.waitSince.getD d.now + d.amlWait ≤ d.now → done .amlWait 3 word (fun _ => True))))
    ∧ (s.linked h →
      exec (.amlKeyLoad h) s = .next { s with dev := d.setHost h { x with key := some ((x.keyStage ++ List.replicate 32 0).take 32) } }
      ∧ exec (.amlKeyClear h) s = .next { s with dev := d.setHost h { x with key := none, keyStage := [] } }
      ∧ (x.oobBusy = true → exec (.oobGo h) s = .next s)
      ∧ (x.oobBusy = false → exec (.oobGo h) s = .next { s with dev := d.setHost h { x with oobBusy := true } }))

/-- SLICE_SLEEP_ENTRY of a slice in RUN whose idle rule has held for max(1, SLICE_US) µs in READY, with its FAN_SLEEP_EN bit 1, its FAN_HOLD bit 0 and no retirement that needs it: ENTERING; else nothing. SLICE_ASLEEP in ENTERING without a wake request: ASLEEP, FAN_SLEEPS plus 1. SLICE_WAKE with a wake request in ENTERING or ASLEEP: WAKING, and a sleeping fabric is asked to wake. SLICE_WAKE_DONE in WAKING: RUN, FAN_WAKES plus 1; the array stands as it was kept, and the tables where no command waits for the slice; a slice that slept through an activation takes the running epoch and version, another's pipelines stand; elsewhere nothing. FAN_HOLD_WRITE of a linked host port writes the bits and wakes each slice in ENTERING or ASLEEP whose bit is 1. MAC_DOMAIN_STOP once every port of the slice has been DISABLED for 10 µs, in READY with no hold, stops the domain; before, nothing. FABRIC_SLEEP when the fabric's idle rule has held for max(1, FABRIC_US) µs: asleep, and every stack in RUN is asked to sleep; else nothing. FABRIC_WAKE of a sleeping fabric that has been asked: awake, FAN_FABRIC_WAKES plus 1, stacks in SLEEP asked to wake; else nothing. SLICE_WAKE_DONE and FABRIC_WAKE are stated where no access is held, command sets hold host port numbers below 4 and no logical port above 511 is listed. -/
def Obligations.SlicesAndTheFabricSleepAndWake : Prop :=
  ∀ (k : SliceNo) (h : HostNo) (v : Word) (s : State),
    let d := s.dev
    let x := d.slc k
    let ends := fun (c : Instr) (post : State → Prop) => ∃ t, exec c s = .next t ∧ t.pending = s.pending ∧ post t
    let gains := fun (t : State) (r : RegInfo) (i : Nat) => t.dev.rd64 r i = (d.rd64 r i + 1) % 2 ^ 64
    let may := d.fan.st = .ready ∧ x.st = .run ∧ d.idleRule k = true ∧ d.bitOf R.FAN_SLEEP_EN 0 k = true ∧ d.bitOf R.FAN_HOLD 0 k = false
      ∧ d.loader.retireWake = false
    let plain := d.bridge = [] ∧ (∀ e ∈ d.tm.ports, e.1 < 512) ∧ ∀ (e : Engine7) (j : Fin 8), ∀ x ∈ d.cmdQ e j, x.1 < 4
    let us := max 1 (d.fldOf R.FAN_IDLE 0 0 16)
    let fus := max 1 (d.fldOf R.FAN_IDLE 0 16 16)
    (∀ t0, x.idleSince = some t0 → may → t0 + us * 1000 ≤ d.now → ends (.sliceSleepEntry k) (fun t =>
      t.dev.slc k = { x with st := .entering, since := d.now, idleSince := none } ∧ ∀ j : SliceNo, j ≠ k → t.dev.slc j = d.slc j))
    ∧ (¬ may ∨ x.idleSince = none ∨ (∃ t0, x.idleSince = some t0 ∧ d.now < t0 + us * 1000) → exec (.sliceSleepEntry k) s = .next s)
    ∧ (x.st = .entering → x.wakeReq = false → ends (.sliceAsleep k) (fun t => t.dev.slc k = { x with st := .asleep, since := d.now }
      ∧ gains t R.FAN_SLEEPS k))
    ∧ (x.st ≠ .entering ∨ x.wakeReq = true → exec (.sliceAsleep k) s = .next s)
    ∧ (x.wakeReq = true → x.st = .entering ∨ x.st = .asleep → ends (.sliceWake k) (fun t =>
      t.dev.slc k = { x with st := .waking, since := d.now, wakeReq := false } ∧ (d.fan.fabricAsleep = true → t.dev.fan.fabricWakeReq = true)))
    ∧ (x.wakeReq = false ∨ x.st = .run ∨ x.st = .waking → exec (.sliceWake k) s = .next s)
    ∧ (x.st = .waking → plain → ends (.sliceWakeDone k) (fun t => (t.dev.slc k).st = .run ∧ (t.dev.slc k).wakeReq = false ∧ gains t R.FAN_WAKES k
      ∧ t.dev.ae = d.ae ∧ ((∀ e ∈ [Engine7.blt, .tbl, .stg, .pch], d.cmdQ e k = []) → t.dev.tbl = d.tbl)
      ∧ (x.switchDue = true → ∀ p : Fin 4, (t.dev.isa (k * 4 + p)).epoch = d.epochs.run.getD 0 ∧ (t.dev.isa (k * 4 + p)).version = d.vers.cur)
      ∧ (x.switchDue = false → t.dev.isas = d.isas)))
    ∧ (x.st ≠ .waking → d.bridge = [] → exec (.sliceWakeDone k) s = .next s)
    ∧ (s.linked h → ends (.fanHoldWrite h v) (fun t => t.dev.rd R.FAN_HOLD 0 = v.toNat % 512 ∧ ∀ j : SliceNo, (t.dev.slc j).st
      = if fld v.toNat j 1 = 1 ∧ ((d.slc j).st = .entering ∨ (d.slc j).st = .asleep) then .waking else (d.slc j).st))
    ∧ (let stops := x.macRun = true ∧ d.sliceIdle k = true ∧ d.bitOf R.FAN_HOLD 0 k = false ∧ x.macIdleSince + 10000 ≤ d.now ∧ d.fan.st = .ready;
      (stops → ends (.macDomainStop k) (fun t => t.dev.slc k = { x with macRun := false } ∧ ∀ j : SliceNo, j ≠ k → t.dev.slc j = d.slc j))
      ∧ (¬ stops → exec (.macDomainStop k) s = .next s))
    ∧ (let sleeps := d.fan.st = .ready ∧ d.fan.fabricAsleep = false ∧ d.fan.fabricWakeReq = false ∧ d.fabricIdle = true
        ∧ ∃ t0, d.fan.fabricIdleSince = some t0 ∧ t0 + fus * 1000 ≤ d.now;
      (sleeps → ends .fabricSleep (fun t => t.dev.fan.fabricAsleep = true ∧ t.dev.slices = d.slices
        ∧ ∀ j : StackNo, t.dev.stk j = if (d.stk j).st = .run then { d.stk j with sleepReq := true } else d.stk j))
      ∧ (¬ sleeps → exec .fabricSleep s = .next s))
    ∧ (d.fan.fabricAsleep = true → d.fan.fabricWakeReq = true → plain → ends .fabricWake (fun t => t.dev.fan.fabricAsleep = false
      ∧ t.dev.fan.fabricWakeReq = false ∧ gains t R.FAN_FABRIC_WAKES 0 ∧ ∀ j : StackNo, (d.stk j).st = .sleep → (t.dev.stk j).wakeReq = true))
    ∧ (d.fan.fabricAsleep = false ∨ d.fan.fabricWakeReq = false → d.bridge = [] → exec .fabricWake s = .next s)

/-- POWER_ON, SHUTDOWN, WARM and COLD come from a host port whose link is up or from I3C with the island powered. INPUT_QUALIFIED, POWER_ON, RAILS_GOOD, STARTUP_DONE, SHUTDOWN, SHUTDOWN_DONE, BROWNOUT and TEMP_SAMPLE at 125 °C move the main state with RST_CAUSE, counts and the remembered exit as tabled, and leave it as it is elsewhere. SHUTDOWN leaves every port DISABLED, every laser dark and running stacks in self-refresh; SHUTDOWN_DONE and BROWNOUT leave no frame, every laser dark, a fuse change torn. WARM in READY with no fuse change is counted and recorded: no frame, copy or claim is left, the time, fuses and running image stand, a load is FAILED with ABORTED (where no epoch drains), threads restart at their entries in the running bank with registers 0. COLD: INIT, time 0, no image, loader EMPTY, stacks in INIT, fuses stand. While a fuse change runs a reset waits; while one waits or a warm reset runs WARM is ignored, and COLD where COLD waits; DEFERRED_RESET_START starts it once BUSY is 0. POWER_ON_RESET clears registers, counts, frames and the loader, and the change log stands. STANDBY_RAIL_LOSS takes the island's power unless the conversion runs. PERST_DEASSERT brings the link up once host ports are enabled, in READY or 3 ms into INIT (log 117); STARTUP_DONE those still down. WARM_RESET_DONE ends the warm reset. -/
def Obligations.PowerStatesAndResets : Prop :=
  ∀ (w : Option HostNo) (h : HostNo) (width speed : BitVec 4) (bme high hot : Bool) (mps : Fin 3) (k : Fin 9) (t12 : BitVec 12) (s : State),
    let d := s.dev
    let f := d.fan
    let ends := fun (c : Instr) (post : State → Prop) => ∃ t, exec c s = .next t ∧ t.pending = s.pending ∧ post t
    let gains := fun (t : State) (r : RegInfo) (i : Nat) => t.dev.rd64 r i = (d.rd64 r i + 1) % 2 ^ 64
    let cause := fun (t : State) (c src : Nat) => t.dev.rd R.RST_CAUSE 0 = c + 256 * src
    let dark := fun (t : State) => ∀ e : EngineNo, (t.dev.eng e).litPri = 0 ∧ (t.dev.eng e).litSpr = 0
    let stays := fun (t : State) => t.dev.fan.st = f.st ∧ t.dev.regs = d.regs ∧ t.dev.frames = d.frames ∧ t.dev.fan.resetWaiting = f.resetWaiting
    let off := fun (t : State) => t.dev.fan.aonOn = false ∧ t.dev.fan.st = .standby ∧ t.dev.regs = {}
    let src := (w.map (fun h => h.val)).getD 4
    let sends := match w with | some h => (d.host h).up = true | none => f.aonOn = true
    let enabled := f.st = .ready ∨ (f.st = .init ∧ f.since + 3000000 ≤ d.now)
    let waits := f.resetWaiting.isSome = true ∨ f.warmRunning.isSome = true
    let coldWaits := ∃ j, f.resetWaiting = some (.cold, j)
    let warmed := fun (src : Nat) (t : State) => t.dev.fan.st = f.st ∧ t.dev.fan.warmRunning = some d.now ∧ t.dev.fan.resetWaiting = none
      ∧ cause t 4 src ∧ gains t R.RST_WARM_COUNT 0 ∧ t.dev.frames = [] ∧ t.dev.copies = [] ∧ t.dev.loader.held = false
      ∧ t.dev.time = d.time ∧ t.dev.fuses = d.fuses ∧ t.dev.epochs.run = d.epochs.run
      ∧ (d.epochs.old = none → d.loader.st = .loading ∨ d.loader.st = .staged ∨ d.loader.st = .armed → t.dev.loader.st = .failed ∧ t.dev.loader.err = 0x0D)
      ∧ (∀ e, d.epochs.run = some e → ∀ (j : SliceNo) (n : ThreadNo), let y := t.dev.thr j n; let r := thrRec (d.imageOf e) j n;
        y.st = (if r.en then .run else .disabled) ∧ y.epoch = e ∧ y.pc = r.entry ∧ y.regs = [])
    let colded := fun (src : Nat) (t : State) => t.dev.fan.st = .init ∧ cause t 3 src ∧ gains t R.RST_COLD_COUNT 0 ∧ t.dev.fan.resetWaiting = none ∧ t.dev.frames = []
      ∧ t.dev.time = {} ∧ t.dev.epochs.run = none ∧ t.dev.loader = {} ∧ t.dev.fuses = d.fuses ∧ ∀ j : StackNo, (t.dev.stk j).st = .init
    let upped := fun (src : Nat) (t : State) => t.dev.fan.st = .powerUp ∧ t.dev.fan.exitHeld = false ∧ cause t 2 src ∧ gains t R.RST_COLD_COUNT 0
    (f.aonOn = false → exec .inputQualified s = .next s ∧ exec (.tempSample k t12) s = .next s)
    ∧ (f.aonOn = true → (f.st = .standby → f.exitHeld = false → d.bitOf R.AON_CTRL 0 0 = true → ends .inputQualified (upped 7))
      ∧ (f.st ≠ .standby ∨ f.exitHeld = true ∨ d.bitOf R.AON_CTRL 0 0 = false → exec .inputQualified s
        = .next (s.on (fun d => { d with fan := { d.fan with inputHigh := true, inputOk := true } }))))
    ∧ (sends →
      (let go := (f.st = .standby ∧ high = true) ∨ (f.st = .tripped ∧ ∀ j : Fin 9, d.dieTemp j < 800);
        (go → ends (.powerOn w high) (upped src)) ∧ (¬ go → ends (.powerOn w high) (fun t => stays t ∧ t.dev.fan.exitHeld = f.exitHeld)))
      ∧ (f.st = .ready → ends (.shutdown w) (fun t => t.dev.fan.st = .shutdown ∧ t.dev.fan.exitHeld = true ∧ cause t 7 src ∧ dark t
        ∧ (∀ n : LportNo, (t.dev.lp n).st = .disabled) ∧ ∀ j : StackNo, (d.stk j).st = .run → (t.dev.stk j).st = .sleep))
      ∧ (f.st ≠ .ready → ends (.shutdown w) stays ∧ ends (.warm w) stays ∧ ends (.cold w) stays)
      ∧ (f.st = .ready → (waits → ends (.warm w) stays) ∧ (coldWaits → ends (.cold w) stays)
        ∧ (¬ waits → d.fuseBusy = false → ends (.warm w) (warmed src))
        ∧ (¬ coldWaits → d.fuseBusy = false → ends (.cold w) (colded src))
        ∧ (¬ waits → d.fuseBusy = true → ends (.warm w) (fun t => t.dev.fan.resetWaiting = some (.warm, src) ∧ t.dev.regs = d.regs))
        ∧ (¬ coldWaits → d.fuseBusy = true → ends (.cold w) (fun t => t.dev.fan.resetWaiting = some (.cold, src) ∧ t.dev.regs = d.regs))))
    ∧ (f.st = .powerUp → ends .railsGood (fun t => t.dev.fan.st = .init ∧ t.dev.time = {} ∧ ∀ j : StackNo, (t.dev.stk j).st = .init))
    ∧ (f.st ≠ .powerUp → exec .railsGood s = .next s)
    ∧ (f.st = .init → ends .startupDone (fun t => t.dev.fan.st = .ready ∧ fld (t.dev.rd R.FAN_EVENTS 0) 0 1 = 1
      ∧ ∀ j : HostNo, let x := d.host j
        t.dev.host j = if x.perstOff = true ∧ x.up = false then { x with up := true, bme := x.lnkBme, mps := x.lnkMps } else x))
    ∧ (f.st ≠ .init → exec .startupDone s = .next s)
    ∧ (let x := { d.host h with perstOff := true, lnkWidth := width.toNat, lnkSpeed := speed.toNat, lnkBme := bme, lnkMps := mps };
      (enabled → ends (.perstDeassert h width speed ⟨bme, mps⟩) (fun t => t.dev.host h = { x with up := true, bme := bme, mps := mps }))
      ∧ (¬ enabled → ends (.perstDeassert h width speed ⟨bme, mps⟩) (fun t => t.dev.host h = x)))
    ∧ (f.st = .shutdown → ends .shutdownDone (fun t => t.dev.fan.st = .standby ∧ t.dev.frames = [] ∧ dark t ∧ t.dev.fuses.busy = false
      ∧ (f.vsb3 = true → fld (t.dev.rd R.FAN_EVENTS 0) 1 1 = 1) ∧ (f.vsb3 = false → off t)))
    ∧ (f.st ≠ .shutdown → exec .shutdownDone s = .next s)
    ∧ (f.vsb3 = false → ends (.brownout hot) off)
    ∧ (f.vsb3 = true →
      (f.st.live = true → ends (.brownout hot) (fun t => dark t ∧ t.dev.frames = [] ∧ t.dev.fuses.busy = false ∧ t.dev.fan.inputOk = false
        ∧ (hot = false → t.dev.fan.st = .standby ∧ cause t 5 7 ∧ t.dev.fan.exitHeld = f.exitHeld)
        ∧ (hot = true → t.dev.fan.st = .tripped ∧ cause t 6 7 ∧ t.dev.fan.exitHeld = true)))
      ∧ (f.st.live = false → ends (.brownout hot) (fun t => t.dev.fan.st = (if f.st = .tripped then .standby else f.st)
        ∧ t.dev.fan.exitHeld = f.exitHeld ∧ t.dev.fan.inputOk = false ∧ t.dev.rd R.RST_CAUSE 0 = d.rd R.RST_CAUSE 0)))
    ∧ (f.aonOn = true → ends (.tempSample k t12) (fun t => t.dev.rd R.FAN_TEMP k = t12.toNat
      ∧ (d.dieTemp k < d.fldOf R.FAN_THERM 0 0 8 * 8 → (d.fldOf R.FAN_THERM 0 0 8 * 8 : Int) ≤ t12.toInt → fld (t.dev.rd R.FAN_EVENTS 0) 3 1 = 1)
      ∧ (1000 ≤ t12.toInt → f.st.live = true → t.dev.fan.st = .tripped ∧ t.dev.fan.exitHeld = true ∧ cause t 6 7 ∧ dark t)
      ∧ (t12.toInt < 1000 ∨ f.st.live = false → t.dev.fan.st = f.st ∧ t.dev.fan.exitHeld = f.exitHeld ∧ t.dev.engines = d.engines)))
    ∧ ends .powerOnReset (fun t => t.dev.fan = { inputHigh := f.inputHigh } ∧ cause t 1 7 ∧ t.dev.rd64 R.RST_COLD_COUNT 0 = 0
      ∧ t.dev.rd64 R.RST_WARM_COUNT 0 = 0 ∧ t.dev.frames = [] ∧ t.dev.loader = {} ∧ t.dev.fuses.log = d.fuses.log ∧ t.dev.fuses.busy = false)
    ∧ exec .warmResetDone s = .next (s.on (fun d => { d with fan := { d.fan with warmRunning := none } }))
    ∧ (f.resetWaiting = none → exec .deferredResetStart s = .next s)
    ∧ (∀ r j, f.resetWaiting = some (r, j) → j < 8 → (d.fuseBusy = true → exec .deferredResetStart s = .next s)
      ∧ (d.fuseBusy = false → ends .deferredResetStart (match r with | .warm => warmed j | .cold => colded j)))
    ∧ (let runs := f.inputHigh = true ∧ (f.st.live = true ∨ f.st = .shutdown);
      (runs → exec .standbyRailLoss s = .next (s.on (fun d => { d with fan := { d.fan with vsb3 := false } })))
      ∧ (¬ runs → ends .standbyRailLoss off))

/-- SET of a linked host port gives the time unit TIME_SET with fraction 0, STEP adds the signed TIME_STEP_NS (modulo 2^48 s) and keeps the fraction; each sets TIME_EVENTS bit 2; a TIME_SET_NS above 999,999,999 gives nanoseconds that the spec does not state (log 2). With the clocks running: REF_LOST and REF_RELOCK under REF_SEL set TIME_STATUS to HOLDOVER and LOCKED; PPS_IN_EDGE where enabled latches the time; PPS_OUT where enabled rises in READY within 2 ns of OFFSET_NS and falls WIDTH_MS later. TIME_NOW_NS_READ returns the nanoseconds and latches seconds and fraction for that host port; TIME_PPS_IN_NS_READ likewise. I3C_PRIVATE_WRITE with the island powered keeps the offset, and with a word writes it (here to AON_CTRL); at an offset that I3C does not reach AON_I3C_BAD gains 1; I3C_PRIVATE_READ reads from the last offset (here one word of AON_CTRL). ENTDAA sends the provisioned ID and gives the dynamic address. BYPASS, IDCODE, SAMPLE_PRELOAD and EXTEST put their instruction in force; the latter two capture pins that are free here and load the cells in READY, and act as BYPASS elsewhere (the model's reading, log 56). Without power I3C, BYPASS and IDCODE do nothing. -/
def Obligations.TimeAndTheSideInterfacesAct : Prop :=
  ∀ (h : HostNo) (data : DWord) (addr : BitVec 7) (off v : Word) (s : State),
    let d := s.dev
    let f := d.fan
    let ends := fun (c : Instr) (post : State → Prop) => ∃ t, exec c s = .next t ∧ t.pending = s.pending ∧ post t
    let event := fun (t : State) (bit : Nat) => fld (t.dev.rd R.TIME_EVENTS 0) bit 1 = 1
    let secs := d.rd R.TIME_SET_SL 0 + d.fldOf R.TIME_SET_SH 0 0 16 * 2 ^ 32
    let sum := (d.ns64 : Int) + sext 32 (d.rd R.TIME_STEP_NS 0)
    let ppsOff := d.fldOf R.TIME_PPS_OUT 0 0 30
    (s.linked h →
      (d.rd R.TIME_SET_NS 0 < 10 ^ 9 → ends (.timeSet h) (fun t => t.dev.time = { secs := secs, ns := d.rd R.TIME_SET_NS 0 } ∧ event t 2))
      ∧ (10 ^ 9 ≤ d.rd R.TIME_SET_NS 0 → ends (.timeSet h) (fun t => t.dev.time.secs = secs ∧ t.dev.time.ns < 10 ^ 9 ∧ event t 2
        ∧ t.dev.freeCount = d.freeCount + 1))
      ∧ ends (.timeStep h) (fun t => (t.dev.ns64 : Int) = sum % (2 ^ 48 * 10 ^ 9) ∧ t.dev.time.ns < 10 ^ 9
        ∧ t.dev.time.frac = d.time.frac ∧ event t 2)
      ∧ ends (.timeNowNsRead h) (fun t => (t.dev.host h).readData = BitVec.ofNat 64 d.time.ns ∧ (t.dev.host h).nowSecs = d.time.secs
        ∧ (t.dev.host h).nowFrac = d.time.frac / 2 ^ 16 ∧ t.dev.regs = d.regs)
      ∧ ends (.timePpsInNsRead h) (fun t => (t.dev.host h).readData = BitVec.ofNat 64 (d.rd R.TIME_PPS_IN_NS 0)
        ∧ (t.dev.host h).ppsSecs = d.rd R.TIME_PPS_IN_SL 0 + d.fldOf R.TIME_PPS_IN_SH 0 0 16 * 2 ^ 32 ∧ t.dev.regs = d.regs))
    ∧ (d.clocksOn = true → d.bitOf R.TIME_CTRL 0 0 = true →
      ends .refLost (fun t => t.dev.rd R.TIME_STATUS 0 = 2 ∧ event t 1) ∧ ends .refRelock (fun t => t.dev.rd R.TIME_STATUS 0 = 1))
    ∧ (d.clocksOn = false ∨ d.bitOf R.TIME_CTRL 0 0 = false → exec .refLost s = .next s ∧ exec .refRelock s = .next s)
    ∧ (d.clocksOn = true → d.bitOf R.TIME_CTRL 0 1 = true → d.time.ns < 10 ^ 9 → d.time.secs < 2 ^ 48 → ends .ppsInEdge (fun t =>
      t.dev.rd R.TIME_PPS_IN_NS 0 = d.time.ns ∧ t.dev.rd R.TIME_PPS_IN_SL 0 + t.dev.rd R.TIME_PPS_IN_SH 0 * 2 ^ 32 = d.time.secs ∧ event t 0))
    ∧ (d.clocksOn = false ∨ d.bitOf R.TIME_CTRL 0 1 = false → exec .ppsInEdge s = .next s)
    ∧ (let rises := f.st = .ready ∧ d.bitOf R.TIME_CTRL 0 2 = true ∧ f.ppsOut = false ∧ ppsOff ≤ d.time.ns + 2 ∧ d.time.ns ≤ ppsOff + 2;
      (rises → exec .ppsOutRise s = .next (s.on (fun d => { d with fan := { d.fan with ppsOut := true, ppsOutSince := d.now } })))
      ∧ (¬ rises → exec .ppsOutRise s = .next s))
    ∧ (let falls := f.ppsOut = true ∧ f.ppsOutSince + max 1 (d.fldOf R.TIME_PPS_WIDTH 0 0 10) * 1000000 ≤ d.now;
      (falls → exec .ppsOutFall s = .next (s.on (fun d => { d with fan := { d.fan with ppsOut := false } })))
      ∧ (¬ falls → exec .ppsOutFall s = .next s))
    ∧ (f.aonOn = false → ∀ c ∈ [Instr.i3cPrivateWrite off (some v), .i3cPrivateWrite off none, .i3cPrivateRead 1, .entdaa addr, .jtagBypass, .jtagIdcode],
      exec c s = .next s)
    ∧ (f.aonOn = true →
      exec (.i3cPrivateWrite off none) s = .next (s.on (fun d => { d with fan := { d.fan with i3cOffset := off.toNat } }))
      ∧ ends (.i3cPrivateWrite (BitVec.ofNat 32 (R.AON_CTRL.addr 0)) (some v)) (fun t => t.dev.rd R.AON_CTRL 0 = v.toNat % 2
        ∧ t.dev.fan.i3cOffset = R.AON_CTRL.addr 0)
      ∧ (d.i3cReach off.toNat = false → ends (.i3cPrivateWrite off (some v)) (fun t =>
        t.dev.rd64 R.AON_I3C_BAD 0 = (d.rd64 R.AON_I3C_BAD 0 + 1) % 2 ^ 64 ∧ t.dev.regs.words = d.regs.words
        ∧ t.dev.fan.i3cOffset = off.toNat))
      ∧ (f.i3cOffset = R.AON_CTRL.addr 0 → exec (.i3cPrivateRead 1) s
        = .next (s.on (fun d => { d with fan := { d.fan with i3cRead := [BitVec.ofNat 32 (d.rd R.AON_CTRL 0)] } })))
      ∧ ends (.entdaa addr) (fun t => t.dev.rd R.AON_I3C_STATUS 0 = 128 + addr.toNat ∧ fld t.dev.fan.i3cPid 33 15 = Config.mipiId % 2 ^ 15
        ∧ fld t.dev.fan.i3cPid 32 1 = 0 ∧ fld t.dev.fan.i3cPid 16 16 = 0x1024 ∧ fld t.dev.fan.i3cPid 0 8 = R.DEV_REV.reset)
      ∧ exec .jtagBypass s = .next (s.on (fun d => { d with fan := { d.fan with jtagInsn := 0, jtagData := 0 } }))
      ∧ ends .jtagIdcode (fun t => t.dev.fan.jtagInsn = 1 ∧ fld t.dev.fan.jtagData 0 1 = 1 ∧ fld t.dev.fan.jtagData 1 11 = Config.jep106 % 2 ^ 11
        ∧ fld t.dev.fan.jtagData 12 16 = 0x1024 ∧ fld t.dev.fan.jtagData 28 4 = R.DEV_REV.reset % 16)
      ∧ (f.st = .ready → (∀ c ∈ [(Instr.jtagSample data, 2), (.jtagExtest data, 3)], ends c.1 (fun t => t.dev.fan.jtagInsn = c.2
        ∧ t.dev.fan.jtagCells = data.toNat ∧ t.dev.fan.jtagData = Config.freeValue d.freeCount % 2 ^ 64 ∧ t.dev.freeCount = d.freeCount + 1 ∧ t.dev.regs = d.regs))))
    ∧ (f.st ≠ .ready → exec (.jtagSample data) s = exec .jtagBypass s ∧ exec (.jtagExtest data) s = exec .jtagBypass s)

/-- ERROR_REPORT completes with any further reports of its clock; two of one location are one, UE if either is, of different classes or units in class then unit order. One report, no page retirement pending: ERR_UE or ERR_CE of the class gains 1, its ERR_EVENTS bit is set and ERR_LAST shows it; of a poisoned location nothing else. Else its tracker entry, in its window, restarted after it, or new (putting out the oldest of 4,096), counts it below THRESH; at THRESH or for a UE the entry is freed, ERR_LASTING gains 1, LASTING is set and it is logged, or lost from a full log: class 0x01 withholds the cell, 0x03 retires the page, a class with spares and SPARE_EN is spared; with none left 0x02 withholds, 0x04 retires the page, 0x07 and 0x08 the location, others count ERR_NOSPARE; any other class is only logged. A UE in a banked memory of a live bank poisons. SPARE_REMAP makes the oldest copy in progress a remap to the lowest spare, numbered by those in use; with none, nothing. INJ_ARM and INJ_CANCEL arm and disarm and change nothing else; ERROR_INJECT while armed puts an error at a location of the selected class and unit, by the symbols selected, and disarms; unarmed, nothing. SPARE_GO remaps a location and answers 0, or answers 2 for a class or location without spares, 3 for one already remapped, 1 with none left. ERR_LOG_READ returns the head entry with its other words and removes it; of an empty log, zeros. The model's choices: injected if either is (log 161), COUNT 0 of a poisoned location (log 175), free bits (log 2). -/
def Obligations.ErrorsAreTrackedSparedAndInjected : Prop :=
  ∀ (h : HostNo) (cls : BitVec 8) (unit : BitVec 16) (loc : Word) (ue inj : Bool) (s : State),
    let d := s.dev
    let e := d.errs
    let c := cls.toNat
    let u := unit.toNat
    let l := loc.toNat
    let ends := fun (c : Instr) (post : State → Prop) => ∃ t, exec c s = .next t ∧ t.pending = s.pending ∧ post t
    let gains := fun (t : State) (r : RegInfo) (i : Nat) => t.dev.rd64 r i = (d.rd64 r i + 1) % 2 ^ 64
    let event := fun (t : State) (bit : Nat) => fld (t.dev.rd R.ERR_EVENTS 0) bit 1 = 1
    let same := fun (x : Track) => decide (x.cls = c) && decide (x.unit = u) && decide (x.loc = l)
    let thresh := max 1 (d.fldOf R.ERR_CTRL 0 8 4)
    let window := max 1 (d.fldOf R.ERR_CTRL 0 0 8) * 3600
    let now := d.time.secs
    let report := fun (others : List ErrReport) => Instr.errorReport cls unit loc ue ⟨inj, others⟩
    let shown := fun (t : State) (n : Nat) => gains t (if ue then R.ERR_UE else R.ERR_CE) c ∧ event t (if ue then 1 else 0)
      ∧ fld (t.dev.rd R.ERR_LAST0 0) 16 8 = c ∧ fld (t.dev.rd R.ERR_LAST0 0) 0 16 = u ∧ fld (t.dev.rd R.ERR_LAST0 0) 30 1 = b2n ue
      ∧ fld (t.dev.rd R.ERR_LAST0 0) 29 1 = b2n inj ∧ fld (t.dev.rd R.ERR_LAST0 0) 31 1 = 1 ∧ t.dev.rd R.ERR_LAST1 0 = l
      ∧ t.dev.rd R.ERR_LAST2 0 = n ∧ t.dev.rd R.ERR_LAST3 0 = now % 2 ^ 32
    let logged := fun (t : State) (action : Nat) =>
      (e.log.length < 64 → t.dev.errs.log = e.log ++ [{ cls := c, unit := u, loc := l, ue := ue, inj := inj, action := action, secs := now % 2 ^ 32 }])
      ∧ (64 ≤ e.log.length → t.dev.errs.log = e.log ∧ gains t R.ERR_LOG_LOST 0 ∧ event t 6)
    let free := e.tracker.filter (fun x => !same x)
    let lasts := ue = true ∨ thresh = 1 ∨ ∃ before x after, e.tracker = before ++ x :: after ∧ same x = true ∧ before.any same = false
      ∧ now < x.first + window ∧ thresh ≤ x.count + 1
    let lasting := fun (action : Nat) (post : State → Prop) => ends (report []) (fun t => shown t thresh ∧ gains t R.ERR_LASTING c ∧ event t 2
      ∧ logged t action ∧ (e.tracker.any same = true ∨ e.tracker.length < 4096 → t.dev.errs.tracker = free)
      ∧ (let bank := (d.bank (fld u 4 1)).st; t.dev.errs.poisoned = if ue = true ∧ (c = 0x0A ∨ c = 0x0B ∨ c = 0x0F ∨ c = 0x10)
          ∧ (bank = .running ∨ bank = .draining) then (c, u, l) :: e.poisoned else e.poisoned) ∧ post t)
    let withheld := fun (t : State) => gains t R.ERR_RETIRED c ∧ t.dev.buf.withheld = l :: d.buf.withheld
    let pageOut := fun (p : Nat) (t : State) => gains t R.ERR_RETIRED c ∧ (let y := t.dev.page (u % 16) p; y.st = .retired ∨ y.retiring = true)
    let spares := spareCount c ≠ 0 ∧ d.bitOf R.ERR_CTRL 0 16 = true
    let room := d.sparesUsed c u l < spareCount c
    let i3 := d.fldOf R.ERR_INJ_SEL 0 0 8
    let iu := d.fldOf R.ERR_INJ_SEL 0 8 16
    let ia := d.bitOf R.ERR_INJ_SYM 0 7
    let ib := d.bitOf R.ERR_INJ_SYM 0 15
    let both := ia = true ∧ ib = true ∧ d.fldOf R.ERR_INJ_SYM 0 0 6 ≠ d.fldOf R.ERR_INJ_SYM 0 8 6
    let hits := i3 = 0x06 ∨ i3 = 0x14 ∨ ia = true ∨ ib = true
    let bit := Config.freeValue d.freeCount % (if i3 = 0x06 then 2 ^ 7 else if i3 = 0x09 then 2 else if i3 = 0x03 then 16 else 1) % 80
    let sc := d.fldOf R.ERR_SPARE_SEL 0 0 8
    let su := d.fldOf R.ERR_SPARE_SEL 0 8 16
    let sl := d.rd R.ERR_SPARE_LOC 0
    let known := ∃ r ∈ e.remaps, r.cls = sc ∧ r.unit = su ∧ r.loc = sl
    (∀ others, ends (report others) (fun _ => True))
    ∧ (∀ ue' inj', exec (report [⟨cls, unit, loc, ue', inj'⟩]) s = exec (.errorReport cls unit loc (ue || ue') ⟨inj || inj', []⟩) s)
    ∧ (∀ x : ErrReport, x.cls.toNat < c ∨ (x.cls.toNat = c ∧ x.unit.toNat < u) →
      exec (report [x]) s = exec (.errorReport x.cls x.unit x.loc x.ue ⟨x.inj, [⟨cls, unit, loc, ue, inj⟩]⟩) s)
    ∧ (e.pageReq = [] → (c, u, l) ∈ e.poisoned → ends (report []) (fun t => shown t 0 ∧ t.dev.errs = e))
    ∧ (e.pageReq = [] → (c, u, l) ∉ e.poisoned →
      (ue = false → 1 < thresh → e.tracker.any same = false →
        (e.tracker.length < 4096 → ends (report []) (fun t => shown t 1 ∧ t.dev.errs = { e with tracker := e.tracker ++ [⟨c, u, l, now, 1⟩] }))
        ∧ (4096 ≤ e.tracker.length → ends (report []) (fun t => shown t 1 ∧ gains t R.ERR_TRACK_EVICTS 0 ∧ event t 5
          ∧ ∃ before x after, e.tracker = before ++ x :: after ∧ (∀ y ∈ e.tracker, x.first ≤ y.first)
            ∧ t.dev.errs = { e with tracker := before ++ after ++ [⟨c, u, l, now, 1⟩] })))
      ∧ (∀ before x after, ue = false → e.tracker = before ++ x :: after → same x = true → (before ++ after).any same = false →
        (now < x.first + window → x.count + 1 < thresh → ends (report []) (fun t => shown t (x.count + 1)
          ∧ t.dev.errs = { e with tracker := before ++ after ++ [{ x with count := x.count + 1 }] }))
        ∧ (x.first + window ≤ now → 1 < thresh → ends (report []) (fun t => shown t 1
          ∧ t.dev.errs = { e with tracker := before ++ after ++ [{ x with first := now, count := 1 }] })))
      ∧ (lasts →
        (c = 0x01 → lasting 1 withheld)
        ∧ (c = 0x03 → lasting 1 (pageOut (l / 64)))
        ∧ (spares → room → lasting 0 (fun t => gains t R.ERR_SPARED c ∧ event t 3 ∧ t.dev.errs.spareJobs = e.spareJobs ++ [⟨c, u, l, ue, inj⟩]))
        ∧ (spares → ¬ room →
          (c = 0x02 → lasting 1 withheld) ∧ (c = 0x04 → lasting 1 (pageOut l))
          ∧ (c = 0x07 ∨ c = 0x08 → lasting 1 (fun t => gains t R.ERR_RETIRED c ∧ t.dev.errs.retired = (c, u, l) :: e.retired))
          ∧ (c ≠ 0x02 → c ≠ 0x04 → c ≠ 0x07 → c ≠ 0x08 → lasting 2 (fun t => gains t R.ERR_NOSPARE c ∧ event t 4
            ∧ t.dev.errs.spareJobs = e.spareJobs)))
        ∧ (c ≠ 0x01 → c ≠ 0x03 → ¬ spares → lasting 3 (fun t => t.dev.errs.spareJobs = e.spareJobs ∧ t.dev.buf = d.buf))))
    ∧ (e.spareJobs = [] → exec .spareRemap s = .next s)
    ∧ (∀ j js, e.spareJobs = j :: js → ends .spareRemap (fun t => t.dev.errs.spareJobs = js ∧ t.dev.errs.remaps = e.remaps ++
      [⟨j.cls, j.unit, j.loc, (e.remaps.filter (fun r => decide (spareSet r.cls r.unit r.loc = spareSet j.cls j.unit j.loc))).length⟩]
      ∧ (∀ u ∈ e.upsets, (u ∈ t.dev.errs.upsets ↔ u.ue = true ∨ ¬ (u.cls = j.cls ∧ u.unit = j.unit ∧ u.loc = j.loc))) ∧ t.dev.regs = d.regs))
    ∧ (s.linked h →
      exec (.injArm h) s = .next (s.on (fun d => { d with errs := { d.errs with armed := true } }))
      ∧ exec (.injCancel h) s = .next (s.on (fun d => { d with errs := { d.errs with armed := false } }))
      ∧ (let fits := spareCount sc ≠ 0 ∧ sl < locCount sc;
        (¬ fits → ends (.spareGo h) (fun t => t.dev.rd R.ERR_SPARE_STATUS 0 = 2 ∧ t.dev.errs = e))
        ∧ (fits → known → ends (.spareGo h) (fun t => t.dev.rd R.ERR_SPARE_STATUS 0 = 3 ∧ t.dev.errs = e))
        ∧ (fits → ¬ known → spareCount sc ≤ d.sparesUsed sc su sl → ends (.spareGo h) (fun t => t.dev.rd R.ERR_SPARE_STATUS 0 = 1
          ∧ t.dev.errs = e))
        ∧ (fits → ¬ known → d.sparesUsed sc su sl < spareCount sc → ends (.spareGo h) (fun t => t.dev.rd R.ERR_SPARE_STATUS 0 = 0
          ∧ t.dev.errs = { e with remaps := e.remaps ++ [⟨sc, su, sl, d.sparesUsed sc su sl⟩] })))
      ∧ (e.log = [] → ends (.errLogRead h) (fun t => (t.dev.host h).readData = 0 ∧ t.dev.rd R.ERR_LOG_W1 0 = 0 ∧ t.dev.rd R.ERR_LOG_W2 0 = 0
        ∧ t.dev.errs = e))
      ∧ (∀ x rest, e.log = x :: rest → x.loc < 2 ^ 32 → x.secs < 2 ^ 32 → ends (.errLogRead h) (fun t => t.dev.errs = { e with log := rest }
        ∧ fld (t.dev.host h).readData.toNat 31 1 = 1 ∧ fld (t.dev.host h).readData.toNat 30 1 = b2n x.ue
        ∧ fld (t.dev.host h).readData.toNat 29 1 = b2n x.inj
        ∧ fld (t.dev.host h).readData.toNat 27 2 = x.action % 4 ∧ fld (t.dev.host h).readData.toNat 16 8 = x.cls % 256
        ∧ fld (t.dev.host h).readData.toNat 0 16 = x.unit % 65536 ∧ t.dev.rd R.ERR_LOG_W1 0 = x.loc ∧ t.dev.rd R.ERR_LOG_W2 0 = x.secs)))
    ∧ (e.armed = false → exec (.errorInject loc) s = .next s)
    ∧ (e.armed = true → ends (.errorInject loc) (fun t => t.dev.errs.armed = false ∧ t.dev.regs = d.regs
        ∧ ∀ y : Upset, (y.cls = i3 ∧ y.unit = iu ∧ y.loc = l → (y ∈ t.dev.errs.upsets
            ↔ hits ∧ y = ⟨i3, iu, l, decide (i3 ≠ 0x06 ∧ (i3 = 0x14 ∨ both)), true, bit⟩))
          ∧ (¬ (y.cls = i3 ∧ y.unit = iu ∧ y.loc = l) → (y ∈ t.dev.errs.upsets ↔ y ∈ e.upsets))))

/-- STAT_CONFIG_WRITE of a linked host port: a write of EN from 0 to 1 sets the next boundary to the first instant at least 1 ms on that fits STAT_ALIGN and the period, from 1 to 0 ends periods, the same value changes nothing; STAT_PERIOD_MS and each word of STAT_ALIGN take the value and, while EN is 1, set the next boundary under the new values, which ends a short period. STAT_BOUNDARY before the instant, or while none is set, changes nothing; from it on (the counters in canonical form, no logical port above 511 listed), STAT_SEQ gains 1, STAT_LAST_TIME is the last instant passed, BOUNDARY is set, the next is one period later, and a counter that takes part, here LP_LINK_DOWNS of a running MAC domain, goes to its shadow and restarts at 0. PMC_SAMPLE with none called for changes nothing; else the slice's oldest enters its FIFO, or is lost and counted with 256 there. PMS_READ of a linked host port and a running slice takes the head sample with its other words; of an empty FIFO, zeros. PERF_FREEZE, PERF_UNFREEZE and SNAPSHOT set the action and its time, 1,000 ns on or a scheduled time more than 1 µs on; a pending one is replaced and REPLACED set. PERF_ACTION with none, or before its time, changes nothing; from it on it stops or starts the counters, or copies every one into its snapshot register with the time, and sets ACTED. -/
def Obligations.StatisticsAndPerformanceCountersAct : Prop :=
  ∀ (h : HostNo) (k : SliceNo) (n : LportNo) (v : Word) (sched : Bool) (s : State),
    let d := s.dev
    let st := d.stats
    let ends := fun (c : Instr) (post : State → Prop) => ∃ t, exec c s = .next t ∧ t.pending = s.pending ∧ post t
    let on := d.bitOf R.STAT_CTRL 0 0
    let period := fun (t : State) => min 60000 (max 1 (t.dev.rd R.STAT_PERIOD_MS 0 % 65536)) * 1000000
    let fits := fun (t : State) => ∃ b, t.dev.stats.next = some b ∧ d.ns64 + 1000000 ≤ b ∧ b < d.ns64 + 1000000 + period t
      ∧ ((b : Int) - (t.dev.rd64 R.STAT_ALIGN 0 : Int)) % (period t : Int) = 0
    let redo := fun (t : State) => (on = true → fits t ∧ t.dev.stats.short = true) ∧ (on = false → t.dev.stats = st)
    let now := d.ns64
    let due := if sched = true ∧ now + 1000 < d.rd64 R.PERF_SCHED_TIME 0 then d.rd64 R.PERF_SCHED_TIME 0 else now + 1000
    let q := SMap.get [] st.samples k
    (s.linked h →
      (v.toNat % 2 = 1 → on = false → ends (.statConfigWrite h 3 v) (fun t => t.dev.rd R.STAT_CTRL 0 = 1 ∧ fits t ∧ t.dev.stats.short = false))
      ∧ (v.toNat % 2 = 0 → on = true → ends (.statConfigWrite h 3 v) (fun t => t.dev.rd R.STAT_CTRL 0 = 0 ∧ t.dev.stats.next = none))
      ∧ (on = decide (v.toNat % 2 = 1) → ends (.statConfigWrite h 3 v) (fun t => t.dev.rd R.STAT_CTRL 0 = v.toNat % 2 ∧ t.dev.stats = st))
      ∧ ends (.statConfigWrite h 0 v) (fun t => t.dev.rd R.STAT_PERIOD_MS 0 = v.toNat % 65536 ∧ redo t)
      ∧ ends (.statConfigWrite h 1 v) (fun t => t.dev.rd64 R.STAT_ALIGN 0 = d.rd64 R.STAT_ALIGN 0 / 2 ^ 32 * 2 ^ 32 + v.toNat ∧ redo t)
      ∧ ends (.statConfigWrite h 2 v) (fun t => t.dev.rd64 R.STAT_ALIGN 0 = v.toNat * 2 ^ 32 + d.rd64 R.STAT_ALIGN 0 % 2 ^ 32 ∧ redo t)
      ∧ (∀ c ∈ [(Instr.perfFreeze h sched, 1), (.perfUnfreeze h sched, 2), (.snapshot h sched, 3)],
        (st.perf = none → exec c.1 s = .next (s.on (fun d => { d with stats := { d.stats with perf := some (c.2, due) } })))
        ∧ (st.perf.isSome = true → ends c.1 (fun t => t.dev.stats = { st with perf := some (c.2, due) }
          ∧ fld (t.dev.rd R.PERF_EVENTS 0) 1 1 = 1)))
      ∧ ((d.slc k).st = .run →
        (q = [] → ends (.pmsRead h k) (fun t => (t.dev.host h).readData = 0 ∧ t.dev.rd R.PMS_W1 k = 0 ∧ t.dev.rd R.PMS_W2 k = 0
          ∧ t.dev.rd R.PMS_W3 k = 0 ∧ t.dev.stats = st))
        ∧ (∀ x rest, q = x :: rest → x.ns < 2 ^ 32 → x.secs < 2 ^ 32 → ends (.pmsRead h k) (fun t => SMap.get [] t.dev.stats.samples k = rest
          ∧ fld (t.dev.host h).readData.toNat 31 1 = 1 ∧ fld (t.dev.host h).readData.toNat 24 5 = x.counter % 32
          ∧ fld (t.dev.host h).readData.toNat 16 8 = x.thread % 256 ∧ fld (t.dev.host h).readData.toNat 0 12 = x.event % 4096
          ∧ fld (t.dev.rd R.PMS_W1 k) 0 16 = x.pc % 65536 ∧ fld (t.dev.rd R.PMS_W1 k) 16 4 = x.epoch % 16
          ∧ fld (t.dev.rd R.PMS_W1 k) 20 1 = b2n x.inTrap ∧ t.dev.rd R.PMS_W2 k = x.ns ∧ t.dev.rd R.PMS_W3 k = x.secs))))
    ∧ (st.next = none → exec .statBoundary s = .next s)
    ∧ (∀ b, st.next = some b →
      (now < b → exec .statBoundary s = .next s)
      ∧ (b ≤ now → now < 2 ^ 64 → (∀ e ∈ d.tm.ports, e.1 < 512) → SMap.wf 0 d.regs.wides = true → ends .statBoundary (fun t => ∃ m, t.dev.rd64 R.STAT_LAST_TIME 0 = b + m * period s
        ∧ b + m * period s ≤ now ∧ now < b + (m + 1) * period s ∧ t.dev.stats.next = some (b + (m + 1) * period s)
        ∧ t.dev.rd64 R.STAT_SEQ 0 = (d.rd64 R.STAT_SEQ 0 + 1) % 2 ^ 64 ∧ fld (t.dev.rd R.STAT_EVENTS 0) 0 1 = 1
        ∧ fld (t.dev.rd R.STAT_STATUS 0) 1 1 = b2n st.short ∧ t.dev.stats.short = false
        ∧ (on = true → d.statGroup (17 + n.val / 32) = true → (d.slc (n.val / 64)).macRun = true →
          SMap.get 0 t.dev.regs.shadows (R.LP_LINK_DOWNS.key n) = SMap.get 0 d.regs.wides (R.LP_LINK_DOWNS.key n)
          ∧ t.dev.rd64 R.LP_LINK_DOWNS n = 0))))
    ∧ ((∀ x ∈ st.due, x.slice ≠ k.val) → exec (.pmcSample k) s = .next s)
    ∧ (∀ before x after, st.due = before ++ x :: after → (∀ y ∈ before, y.slice ≠ k.val) → x.slice = k.val →
      (256 ≤ q.length → ends (.pmcSample k) (fun t => t.dev.rd64 R.PMS_LOST k = (d.rd64 R.PMS_LOST k + 1) % 2 ^ 64
        ∧ t.dev.stats = { st with due := before ++ after }))
      ∧ (q.length < 256 → ends (.pmcSample k) (fun t => t.dev.stats.due = before ++ after ∧ SMap.get [] t.dev.stats.samples k = q ++
        [{ counter := x.counter, thread := x.thread, event := x.event, pc := x.pc, epoch := (d.thr k x.thread).epoch
           inTrap := (d.thr k x.thread).inTrap, ns := d.time.ns, secs := d.time.secs % 2 ^ 32 }] ∧ t.dev.regs = d.regs)))
    ∧ (st.perf = none → exec .perfAction s = .next s)
    ∧ (∀ a b, st.perf = some (a, b) →
      (now < b → exec .perfAction s = .next s)
      ∧ (b ≤ now → a = 1 ∨ a = 2 → ends .perfAction (fun t => t.dev.stats = { st with perf := none, frozen := decide (a = 1) }
        ∧ fld (t.dev.rd R.PERF_EVENTS 0) 0 1 = 1))
      ∧ (b ≤ now → b < 2 ^ 64 → a = 3 → ends .perfAction (fun t => t.dev.stats = { st with perf := none, snapSeq := st.snapSeq + 1 }
        ∧ fld (t.dev.rd R.PERF_EVENTS 0) 0 1 = 1 ∧ t.dev.rd64 R.PERF_SNAP_TIME 0 = b
        ∧ (∀ i : Fin 256, t.dev.rd64 R.PMC_SNAP i = d.rd64 R.PMC i) ∧ (∀ i : Fin 32, t.dev.rd64 R.FAB_PMC_SNAP i = d.rd64 R.FAB_PMC i))))

/-- The state after a power-on reset: STANDBY without a remembered exit, the AON island powered; RST_CAUSE POWER_ON from no source, both reset counts 0; the loader EMPTY and unclaimed; no image runs; the fuse log empty and the fuse block sound; every logical port and every thread DISABLED; no frame, copy or channel message; every 32-bit register but RST_CAUSE reads the reset value of its table and every 64-bit register 0 (where a table states no reset value that is 0, the model's choice, log 67); the register bank is in canonical form; no command waits. -/
def Obligations.ResetLeavesTheBlockDark : Prop :=
  let d := State.reset.dev
  State.reset.pending = [] ∧ d.fan.st = .standby ∧ d.fan.exitHeld = false ∧ d.fan.aonOn = true
  ∧ d.rd R.RST_CAUSE 0 = 1 + 256 * 7 ∧ d.rd64 R.RST_COLD_COUNT 0 = 0 ∧ d.rd64 R.RST_WARM_COUNT 0 = 0
  ∧ d.loader.st = .empty ∧ d.loader.held = false ∧ d.epochs.run = none ∧ d.fuses.log = [] ∧ d.fuses.sound
  ∧ (∀ n, (d.lp n).st = .disabled) ∧ (∀ k t, (d.thr k t).st = .disabled) ∧ (∀ k c, (d.chan k c).msgs = [])
  ∧ d.frames = [] ∧ d.copies = []
  ∧ (∀ (r : RegInfo) (i : Nat), r.key i ≠ R.RST_CAUSE.key 0 → r.resetAt i < 2 ^ 32 → d.rd r i = r.resetAt i)
  ∧ (∀ (r : RegInfo) (i : Nat), d.rd64 r i = 0)
  ∧ d.regs.wf = true

/-- For every list of commands and every state whose queue is that list followed by any rest: as many steps as the list is long answer a next state whose queue is the rest, and whose device is what the commands' own effects, in that order and each on an empty queue, make of it. No command of the table, on any operands and in any state, ends a run in a fault or a refusal, and none adds to the queue, takes from it or looks at it. The queue is the model's (log 1); that every command completes is the spec's, which gives each an effect. -/
def Obligations.RunsServeTheQueueInOrder : Prop :=
  ∀ (cs rest : List Instr) (s : State), s.pending = cs ++ rest →
    ∃ t, Host.Core.run Sys2Proof.core cs.length s = .next t ∧ t.pending = rest
      ∧ t.dev = cs.foldl (fun d c => match exec c { dev := d, pending := [] } with | .next u => u.dev | _ => d) s.dev

/-- For every state whose fuse block is sound and every step from it that answers a next state, whatever the command, the passing of time or a loss of power: the fuse block is sound again; FUSE_ARB has not fallen; every slot enrolled is enrolled and every slot revoked is revoked; the complete records of the change log are those before, in their order, with at most new ones behind them; and no kind of change has fewer steps used. The hypothesis, that BUSY and the record under way agree, holds at reset and is kept here. -/
def Obligations.FusesNeverGoBack : Prop :=
  ∀ (s t : State), s.dev.fuses.sound → step s = .next t →
    t.dev.fuses.sound
    ∧ fuseVal s.dev.fuses 3 ≤ fuseVal t.dev.fuses 3
    ∧ (∀ k, keyEnrolled s.dev.fuses k = true → keyEnrolled t.dev.fuses k = true)
    ∧ (∀ k, keyRevoked s.dev.fuses k = true → keyRevoked t.dev.fuses k = true)
    ∧ (s.dev.fuses.log.filter LogRecord.complete <+: t.dev.fuses.log.filter LogRecord.complete)
    ∧ (∀ kind, fuseUsed s.dev.fuses kind ≤ fuseUsed t.dev.fuses kind)
end

