-- ==== Sys2Proof/Laws/Access.lean ====
section
/-! SUPPORT. Register accesses of a host port: what a write or a read of a register whose domain runs comes to. -/
namespace Sys2Proof.Machine

/-- What a host port's access needs to know of element `i` of a register: its BAR0 offset, as host port `h` forms it, is a plain
register offset that names exactly that element, outside the staging aperture and outside the command sets. -/
abbrev RegInfo.plainAt (r : RegInfo) (h i : Nat) : Prop :=
  r.addr i % 0x10000000 % 4 = 0 ∧ inAperture (r.addr i % 0x10000000) = false ∧ deviceAddr h (r.addr i % 0x10000000) = some (r.addr i)
    ∧ resolve (r.addr i) = some (r, i, 0) ∧ setOf (r.addr i) = none

/-- An address outside the slices and the MAC domains leaves every idle timer alone. -/
theorem Dev.touch_eq (d : Dev) (a : Nat) (h1 : ¬ (0x1000000 ≤ a ∧ a < 0x1800000)) (h2 : ¬ (0x4000000 ≤ a ∧ a < 0x5000000)) :
    d.touch a = d := by
  simp [Dev.touch, h1, h2]

/-- An address of a slice breaks the idle rule of that slice. -/
theorem Dev.touch_slice (d : Dev) (a s : Nat) (h1 : 0x1000000 ≤ a ∧ a < 0x1800000) (hs : (a - 0x1000000) / 0x100000 = s) :
    d.touch a = d.wake s := by
  simp [Dev.touch, h1, hs]

/-- A wake request leaves warm reset alone. -/
theorem Dev.wake_warm (d : Dev) (s : Nat) : (d.wake s).fan.warmRunning = d.fan.warmRunning := by
  simp only [Dev.wake]; split <;> rfl

/-- A wake request leaves the controllers alone. -/
theorem Dev.wake_hbm (d : Dev) (s : Nat) : (d.wake s).hbm = d.hbm := by
  simp only [Dev.wake]; split <;> rfl

/-- A write of a host port whose link is up, outside a warm reset, to a register whose domain runs. -/
theorem Dev.hostReg_eq (d : Dev) (h i v : Nat) (r : RegInfo) (hp : r.plainAt h i) (up : (d.host h).up = true)
    (hs : d.stoppedAt (r.addr i) = none) (hw : d.fan.warmRunning = none) (hw' : (d.touch (r.addr i)).fan.warmRunning = none)
    (ho : (d.touch (r.addr i)).offlineAt (r.addr i) = false) :
    d.hostReg h r i v = ((d.touch (r.addr i)).regWrite (.host h) r i 0 (v % 2 ^ 32) 0).2 := by
  obtain ⟨h4, hap, hd, hr, hset⟩ := hp
  simp [Dev.hostReg, Dev.hostPut, Dev.hostAccess, up, Dev.waitsFor, Accessor.reach, Accessor.rights, hd, hs, Dev.accessNow, Dev.busWrite,
    hw, hap, aligned, h4, Dev.deviceWrite, hr, hw', ho, hset]

/-- The same for the device-global registers below the slices, the fabric and the memories, and for a host port's own ones. -/
theorem Dev.hostReg_global (d : Dev) (h i v : Nat) (r : RegInfo) (hp : r.plainAt h i) (up : (d.host h).up = true)
    (hw : d.fan.warmRunning = none) (ha : r.addr i < 0x1000000 ∨ 0x5000000 ≤ r.addr i) :
    d.hostReg h r i v = (d.regWrite (.host h) r i 0 (v % 2 ^ 32) 0).2 := by
  have ht : d.touch (r.addr i) = d := d.touch_eq _ (by omega) (by omega)
  have := d.hostReg_eq h i v r hp up (by
    have h1 : ¬ (0x1000000 ≤ r.addr i ∧ r.addr i < 0x1800000) := by omega
    have h2 : ¬ (0x2000000 ≤ r.addr i ∧ r.addr i < 0x2400000) := by omega
    have h3 : ¬ (0x3000000 ≤ r.addr i ∧ r.addr i < 0x3400000) := by omega
    simp [Dev.stoppedAt, h1, h2, h3]) hw (by rw [ht]; exact hw) (by
    rw [ht]
    have h3 : ¬ (0x3000000 ≤ r.addr i ∧ r.addr i < 0x3400000) := by omega
    simp [Dev.offlineAt, h3])
  rw [ht] at this
  exact this

/-- A write of a host port to a register of a slice that is RUN: the slice is touched, then the register takes the write. -/
theorem Dev.hostReg_slice (d : Dev) (h i v s : Nat) (r : RegInfo) (hp : r.plainAt h i) (up : (d.host h).up = true)
    (hw : d.fan.warmRunning = none) (ha : 0x1000000 ≤ r.addr i ∧ r.addr i < 0x1800000) (hi : (r.addr i - 0x1000000) / 0x100000 = s)
    (run : (d.slc s).st = .run) : d.hostReg h r i v = ((d.wake s).regWrite (.host h) r i 0 (v % 2 ^ 32) 0).2 := by
  have ht := d.touch_slice _ s ha hi
  have := d.hostReg_eq h i v r hp up (by simp [Dev.stoppedAt, ha, hi, run]) hw (by rw [ht, Dev.wake_warm]; exact hw) (by
    have h3 : ¬ (0x3000000 ≤ r.addr i ∧ r.addr i < 0x3400000) := by omega
    simp [Dev.offlineAt, h3])
  rw [ht] at this
  exact this

/-- A write of a host port to a register of the fabric while it is not asleep. -/
theorem Dev.hostReg_fabric (d : Dev) (h i v : Nat) (r : RegInfo) (hp : r.plainAt h i) (up : (d.host h).up = true)
    (hw : d.fan.warmRunning = none) (ha : 0x2000000 ≤ r.addr i ∧ r.addr i < 0x2400000) (run : d.fan.fabricAsleep = false) :
    d.hostReg h r i v = (d.regWrite (.host h) r i 0 (v % 2 ^ 32) 0).2 := by
  have ht : d.touch (r.addr i) = d := d.touch_eq _ (by omega) (by omega)
  have h1 : ¬ (0x1000000 ≤ r.addr i ∧ r.addr i < 0x1800000) := by omega
  have := d.hostReg_eq h i v r hp up (by simp [Dev.stoppedAt, ha, h1, run]) hw (by rw [ht]; exact hw) (by
    have h3 : ¬ (0x3000000 ≤ r.addr i ∧ r.addr i < 0x3400000) := by omega
    simp [Dev.offlineAt, h3])
  rw [ht] at this
  exact this

/-- A write of a host port to a register of a memory controller that is neither in SLEEP nor OFFLINE. -/
theorem Dev.hostReg_stack (d : Dev) (h i v k : Nat) (r : RegInfo) (hp : r.plainAt h i) (up : (d.host h).up = true)
    (hw : d.fan.warmRunning = none) (ha : 0x3000000 ≤ r.addr i ∧ r.addr i < 0x3400000) (hi : (r.addr i - 0x3000000) / 0x100000 = k)
    (run : (d.stk k).st ≠ .sleep) (on : (d.stk k).st ≠ .offline) :
    d.hostReg h r i v = (d.regWrite (.host h) r i 0 (v % 2 ^ 32) 0).2 := by
  have ht : d.touch (r.addr i) = d := d.touch_eq _ (by omega) (by omega)
  have h1 : ¬ (0x1000000 ≤ r.addr i ∧ r.addr i < 0x1800000) := by omega
  have h2 : ¬ (0x2000000 ≤ r.addr i ∧ r.addr i < 0x2400000) := by omega
  have := d.hostReg_eq h i v r hp up (by simp [Dev.stoppedAt, ha, h1, h2, hi, run]) hw (by rw [ht]; exact hw) (by
    rw [ht]; simp [Dev.offlineAt, hi, on])
  rw [ht] at this
  exact this

/-- A write of a host port to a register of a port or an optical engine whose MAC domain runs. -/
theorem Dev.hostReg_mac (d : Dev) (h i v s : Nat) (r : RegInfo) (hp : r.plainAt h i) (up : (d.host h).up = true)
    (hw : d.fan.warmRunning = none) (ha : 0x4000000 ≤ r.addr i ∧ r.addr i < 0x5000000) (hi : (r.addr i - 0x4000000) / 0x200000 = s)
    (run : (d.slc s).macRun = true) :
    d.hostReg h r i v
      = ((d.setSlc s { d.slc s with macRun := true, macIdleSince := d.now }).regWrite (.host h) r i 0 (v % 2 ^ 32) 0).2 := by
  have h1 : ¬ (0x1000000 ≤ r.addr i ∧ r.addr i < 0x1800000) := by omega
  have h2 : ¬ (0x2000000 ≤ r.addr i ∧ r.addr i < 0x2400000) := by omega
  have h3 : ¬ (0x3000000 ≤ r.addr i ∧ r.addr i < 0x3400000) := by omega
  have ht : d.touch (r.addr i) = d.setSlc s { d.slc s with macRun := true, macIdleSince := d.now } := by
    simp [Dev.touch, h1, ha, hi, run, Dev.modSlc]
  have := d.hostReg_eq h i v r hp up (by simp [Dev.stoppedAt, h1, h2, h3]) hw (by rw [ht]; exact hw) (by
    rw [ht]; simp [Dev.offlineAt, h3])
  rw [ht] at this
  exact this

/-! ## Reads -/

/-- What a read of element `i` of a register by host port `h` leaves: the effect of the read, and its data with the host port. -/
def Dev.readInto (d : Dev) (h : Nat) (r : RegInfo) (i : Nat) (upd : Option Nat) : Dev :=
  let x := d.regRead (.host h) r i 0 upd
  x.2.setHost h { x.2.host h with readData := BitVec.ofNat 64 x.1 }

/-- A read of a host port whose link is up, outside a warm reset, of a register whose domain runs. -/
theorem Dev.hostGet_eq (d : Dev) (h i : Nat) (r : RegInfo) (upd : Option Nat) (hp : r.plainAt h i) (up : (d.host h).up = true)
    (hs : d.stoppedAt (r.addr i) = none) (hw : d.fan.warmRunning = none) :
    d.hostGet h (r.addr i % 0x10000000) upd = (d.touch (r.addr i)).readInto h r i upd := by
  obtain ⟨h4, hap, hd, hr, hset⟩ := hp
  simp [Dev.hostGet, Dev.hostAccess, up, Dev.waitsFor, Accessor.reach, Accessor.rights, hd, hs, Dev.accessNow, Dev.busRead,
    hw, hap, aligned, h4, Dev.deviceRead, hr, Dev.readInto]

theorem Dev.hostGet_global (d : Dev) (h i : Nat) (r : RegInfo) (upd : Option Nat) (hp : r.plainAt h i) (up : (d.host h).up = true)
    (hw : d.fan.warmRunning = none) (ha : r.addr i < 0x1000000) : d.hostGet h (r.addr i) upd = d.readInto h r i upd := by
  have h1 : ¬ (0x1000000 ≤ r.addr i ∧ r.addr i < 0x1800000) := by omega
  have h2 : ¬ (0x2000000 ≤ r.addr i ∧ r.addr i < 0x2400000) := by omega
  have h3 : ¬ (0x3000000 ≤ r.addr i ∧ r.addr i < 0x3400000) := by omega
  have h5 : ¬ (0x4000000 ≤ r.addr i ∧ r.addr i < 0x5000000) := by omega
  have := d.hostGet_eq h i r upd hp up (by simp [Dev.stoppedAt, h1, h2, h3]) hw
  rwa [Nat.mod_eq_of_lt (by omega), d.touch_eq _ h1 h5] at this

theorem Dev.hostGet_slice (d : Dev) (h i s : Nat) (r : RegInfo) (upd : Option Nat) (hp : r.plainAt h i) (up : (d.host h).up = true)
    (hw : d.fan.warmRunning = none) (ha : 0x1000000 ≤ r.addr i ∧ r.addr i < 0x1800000) (hi : (r.addr i - 0x1000000) / 0x100000 = s)
    (run : (d.slc s).st = .run) : d.hostGet h (r.addr i) upd = (d.wake s).readInto h r i upd := by
  have := d.hostGet_eq h i r upd hp up (by simp [Dev.stoppedAt, ha, hi, run]) hw
  rwa [Nat.mod_eq_of_lt (by omega), d.touch_slice _ s ha hi] at this

theorem Dev.hostGet_mac (d : Dev) (h i s : Nat) (r : RegInfo) (upd : Option Nat) (hp : r.plainAt h i) (up : (d.host h).up = true)
    (hw : d.fan.warmRunning = none) (ha : 0x4000000 ≤ r.addr i ∧ r.addr i < 0x5000000) (hi : (r.addr i - 0x4000000) / 0x200000 = s)
    (run : (d.slc s).macRun = true) :
    d.hostGet h (r.addr i) upd = (d.setSlc s { d.slc s with macRun := true, macIdleSince := d.now }).readInto h r i upd := by
  have h1 : ¬ (0x1000000 ≤ r.addr i ∧ r.addr i < 0x1800000) := by omega
  have h2 : ¬ (0x2000000 ≤ r.addr i ∧ r.addr i < 0x2400000) := by omega
  have h3 : ¬ (0x3000000 ≤ r.addr i ∧ r.addr i < 0x3400000) := by omega
  have := d.hostGet_eq h i r upd hp up (by simp [Dev.stoppedAt, h1, h2, h3]) hw
  rw [Nat.mod_eq_of_lt (by omega)] at this
  simpa [Dev.touch, h1, ha, hi, run, Dev.modSlc] using this

end Sys2Proof.Machine
end

