-- ==== Sys2Proof/Laws/Resolve.lean ====
section
/-! SUPPORT. Which register an address names: a register whose elements all miss a range of addresses is passed over. -/
namespace Sys2Proof.Machine

/-- One index of `RegInfo.locate`. -/
def locStep (acc : Nat × Nat × Bool) (d : Nat × Nat × Nat) : Nat × Nat × Bool :=
  (acc.1 - acc.1 / d.2.1 * d.2.1, acc.2.1 + acc.1 / d.2.1 * d.2.2, acc.2.2 && decide (acc.1 / d.2.1 < d.1))

/-- Offsets `lo` to `hi` above a register's base meet none of its elements: while one quotient serves the whole range the next index is
looked at; a quotient out of bounds or a rest beyond the register's bytes is a miss. -/
def missDims (bytes : Nat) : List (Nat × Nat × Nat) → Nat → Nat → Bool
  | [], lo, _ => decide (bytes ≤ lo)
  | d :: ds, lo, hi =>
    decide (d.1 ≤ lo / d.2.1)
      || (decide (lo / d.2.1 = hi / d.2.1) && missDims bytes ds (lo - lo / d.2.1 * d.2.1) (hi - lo / d.2.1 * d.2.1))

/-- Addresses `lo` to `hi` name no element of `r`. -/
def RegInfo.misses (r : RegInfo) (lo hi : Nat) : Bool :=
  decide (hi < r.base) || (decide (r.base ≤ lo) && missDims r.bytes r.dims (lo - r.base) (hi - r.base))

theorem locFold_false (ds : List (Nat × Nat × Nat)) : ∀ x y, (ds.foldl locStep (x, y, false)).2.2 = false := by
  induction ds with
  | nil => intros; rfl
  | cons d ds ih => intro x y; exact ih _ _

theorem missDims_sound (bytes : Nat) (ds : List (Nat × Nat × Nat)) : ∀ lo hi x y b, missDims bytes ds lo hi = true → lo ≤ x → x ≤ hi →
    (ds.foldl locStep (x, y, b)).2.2 = false ∨ bytes ≤ (ds.foldl locStep (x, y, b)).1 := by
  induction ds with
  | nil =>
    intro lo hi x y b h hl hh
    simp only [missDims, decide_eq_true_eq] at h
    exact Or.inr (Nat.le_trans h hl)
  | cons d ds ih =>
    intro lo hi x y b h hl hh
    simp only [missDims, Bool.or_eq_true, decide_eq_true_eq, Bool.and_eq_true] at h
    have hdiv : lo / d.2.1 ≤ x / d.2.1 := Nat.div_le_div_right hl
    have step : (d :: ds).foldl locStep (x, y, b)
        = ds.foldl locStep (x - x / d.2.1 * d.2.1, y + x / d.2.1 * d.2.2, b && decide (x / d.2.1 < d.1)) := rfl
    rw [step]
    rcases h with h | ⟨h, h'⟩
    · have hf : decide (x / d.2.1 < d.1) = false := by simp; omega
      rw [hf, Bool.and_false]
      exact Or.inl (locFold_false _ _ _)
    · have hx : x / d.2.1 = lo / d.2.1 := Nat.le_antisymm (h ▸ Nat.div_le_div_right hh) hdiv
      rw [hx]
      exact ih _ _ _ _ _ h' (Nat.sub_le_sub_right hl _) (h ▸ Nat.sub_le_sub_right hh _)

theorem RegInfo.locate_eq (r : RegInfo) (a : Nat) : r.locate a =
    if a < r.base then none else
    if (r.dims.foldl locStep (a - r.base, r.ioff, true)).2.2 && decide ((r.dims.foldl locStep (a - r.base, r.ioff, true)).1 < r.bytes)
    then some ((r.dims.foldl locStep (a - r.base, r.ioff, true)).2.1, (r.dims.foldl locStep (a - r.base, r.ioff, true)).1) else none := rfl

theorem RegInfo.locate_miss (r : RegInfo) (lo hi a : Nat) (h : r.misses lo hi = true) (hl : lo ≤ a) (hh : a ≤ hi) : r.locate a = none := by
  simp only [RegInfo.misses, Bool.or_eq_true, decide_eq_true_eq, Bool.and_eq_true] at h
  rw [RegInfo.locate_eq]
  split
  · rfl
  · rcases h with h | ⟨h, h'⟩
    · omega
    · have := missDims_sound _ _ _ _ _ r.ioff true h' (Nat.sub_le_sub_right hl _) (Nat.sub_le_sub_right hh _)
      rw [if_neg]
      simp only [Bool.and_eq_true, decide_eq_true_eq]
      intro hc
      rcases this with h1 | h1
      · rw [h1] at hc; exact absurd hc.1 (by decide)
      · omega

/-- Only the registers that a range of addresses does not miss need be looked at. -/
theorem resolveIn_near (lo hi a : Nat) (hl : lo ≤ a) (hh : a ≤ hi) (t : List RegInfo) :
    resolveIn t a = resolveIn (t.filter (fun r => !r.misses lo hi)) a := by
  induction t with
  | nil => rfl
  | cons r t ih =>
    cases h : r.misses lo hi
    · simp only [List.filter, h, Bool.not_false, resolveIn, ih]
    · simp only [List.filter, h, Bool.not_true, resolveIn, r.locate_miss lo hi a h hl hh, ih]

end Sys2Proof.Machine
end

