-- ==== Sys2Proof/Laws/CmdRegs.lean ====
section
/-! SUPPORT. Where each register that a row of the table writes or reads lies: its address names exactly its element, for every host
port and every index. -/
set_option Elab.async false

namespace Sys2Proof.Machine

theorem deviceAddr_global (h a : Nat) (h1 : a < 0x200000 ∨ 0x300000 ≤ a) (h2 : a < 0x10000000) :
    deviceAddr h (a % 0x10000000) = some a := by
  rw [Nat.mod_eq_of_lt h2, deviceAddr, if_neg (by omega), if_pos h2]

/-- A register of the device-global, slice, fabric, memory or port ranges. -/
theorem plainAt_global (r : RegInfo) (h i : Nat) (h1 : r.addr i < 0x200000 ∨ 0x300000 ≤ r.addr i) (h2 : r.addr i < 0x8000000)
    (h4 : r.addr i % 4 = 0) (hr : resolve (r.addr i) = some (r, i, 0)) : r.plainAt h i := by
  have hm : r.addr i % 0x10000000 = r.addr i := Nat.mod_eq_of_lt (by omega)
  refine ⟨by rw [hm]; exact h4, ?_, deviceAddr_global h _ h1 (by omega), hr, ?_⟩
  · rw [hm]; simp [inAperture]; omega
  · exact if_pos (Or.inl h2)

/-! ## Registers of one element -/

theorem plain_IMG_OWNER (h : Nat) : R.IMG_OWNER.plainAt h 0 :=
  plainAt_global _ _ _ (by decide) (by decide) (by decide) (by decide +kernel)
theorem plain_IMG_CMD (h : Nat) : R.IMG_CMD.plainAt h 0 :=
  plainAt_global _ _ _ (by decide) (by decide) (by decide) (by decide +kernel)
theorem plain_VER_CMD (h : Nat) : R.VER_CMD.plainAt h 0 :=
  plainAt_global _ _ _ (by decide) (by decide) (by decide) (by decide +kernel)
theorem plain_FUSE_ARB (h : Nat) : R.FUSE_ARB.plainAt h 0 :=
  plainAt_global _ _ _ (by decide) (by decide) (by decide) (by decide +kernel)
theorem plain_FUSE_LANE_MAP (h : Nat) : R.FUSE_LANE_MAP.plainAt h 0 :=
  plainAt_global _ _ _ (by decide) (by decide) (by decide) (by decide +kernel)
theorem plain_FUSE_BOOT_POLICY (h : Nat) : R.FUSE_BOOT_POLICY.plainAt h 0 :=
  plainAt_global _ _ _ (by decide) (by decide) (by decide) (by decide +kernel)
theorem plain_FUSE_KEY_CMD (h : Nat) : R.FUSE_KEY_CMD.plainAt h 0 :=
  plainAt_global _ _ _ (by decide) (by decide) (by decide) (by decide +kernel)
theorem plain_RST_CMD (h : Nat) : R.RST_CMD.plainAt h 0 :=
  plainAt_global _ _ _ (by decide) (by decide) (by decide) (by decide +kernel)
theorem plain_FAN_CMD (h : Nat) : R.FAN_CMD.plainAt h 0 :=
  plainAt_global _ _ _ (by decide) (by decide) (by decide) (by decide +kernel)
theorem plain_FAN_HOLD (h : Nat) : R.FAN_HOLD.plainAt h 0 :=
  plainAt_global _ _ _ (by decide) (by decide) (by decide) (by decide +kernel)
theorem plain_TIME_CMD (h : Nat) : R.TIME_CMD.plainAt h 0 :=
  plainAt_global _ _ _ (by decide) (by decide) (by decide) (by decide +kernel)
theorem plain_STAT_CTRL (h : Nat) : R.STAT_CTRL.plainAt h 0 :=
  plainAt_global _ _ _ (by decide) (by decide) (by decide) (by decide +kernel)
theorem plain_STAT_PERIOD_MS (h : Nat) : R.STAT_PERIOD_MS.plainAt h 0 :=
  plainAt_global _ _ _ (by decide) (by decide) (by decide) (by decide +kernel)
theorem plain_STAT_ALIGN (h : Nat) : R.STAT_ALIGN.plainAt h 0 :=
  plainAt_global _ _ _ (by decide) (by decide) (by decide) (by decide +kernel)
theorem plain_ERR_INJ_CMD (h : Nat) : R.ERR_INJ_CMD.plainAt h 0 :=
  plainAt_global _ _ _ (by decide) (by decide) (by decide) (by decide +kernel)
theorem plain_ERR_SPARE_CMD (h : Nat) : R.ERR_SPARE_CMD.plainAt h 0 :=
  plainAt_global _ _ _ (by decide) (by decide) (by decide) (by decide +kernel)
theorem plain_PERF_CMD (h : Nat) : R.PERF_CMD.plainAt h 0 :=
  plainAt_global _ _ _ (by decide) (by decide) (by decide) (by decide +kernel)
theorem plain_ERR_LOG_W0 (h : Nat) : R.ERR_LOG_W0.plainAt h 0 :=
  plainAt_global _ _ _ (by decide) (by decide) (by decide) (by decide +kernel)
theorem plain_TIME_NOW_NS (h : Nat) : R.TIME_NOW_NS.plainAt h 0 :=
  plainAt_global _ _ _ (by decide) (by decide) (by decide) (by decide +kernel)
theorem plain_TIME_PPS_IN_NS (h : Nat) : R.TIME_PPS_IN_NS.plainAt h 0 :=
  plainAt_global _ _ _ (by decide) (by decide) (by decide) (by decide +kernel)

/-! ## Registers of few elements -/

theorem plain_AE_DBG_DATA_HI (h : Nat) (i : Fin 8) : R.AE_DBG_DATA_HI.plainAt h i := by
  refine plainAt_global _ _ _ ?_ ?_ ?_ ?_ <;> revert i <;> decide +kernel
theorem plain_AE_DBG_DATA_LO (h : Nat) (i : Fin 8) : R.AE_DBG_DATA_LO.plainAt h i := by
  refine plainAt_global _ _ _ ?_ ?_ ?_ ?_ <;> revert i <;> decide +kernel
theorem plain_PMS_W0 (h : Nat) (i : Fin 8) : R.PMS_W0.plainAt h i := by
  refine plainAt_global _ _ _ ?_ ?_ ?_ ?_ <;> revert i <;> decide +kernel
theorem plain_HBM_CMD (h : Nat) (i : Fin 4) : R.HBM_CMD.plainAt h i := by
  refine plainAt_global _ _ _ ?_ ?_ ?_ ?_ <;> revert i <;> decide +kernel
theorem plain_HBM_RETIRE_CMD (h : Nat) (i : Fin 4) : R.HBM_RETIRE_CMD.plainAt h i := by
  refine plainAt_global _ _ _ ?_ ?_ ?_ ?_ <;> revert i <;> decide +kernel
theorem plain_OE_LMAP_CMD (h : Nat) (i : Fin 16) : R.OE_LMAP_CMD.plainAt h i := by
  refine plainAt_global _ _ _ ?_ ?_ ?_ ?_ <;> revert i <;> decide +kernel
theorem plain_OE_FAILOVER_CMD (h : Nat) (i : Fin 16) : R.OE_FAILOVER_CMD.plainAt h i := by
  refine plainAt_global _ _ _ ?_ ?_ ?_ ?_ <;> revert i <;> decide +kernel

/-! ## Host-port-local registers -/

theorem plain_HPL_LEASE_CMD (h : Fin 4) : R.HPL_LEASE_CMD.plainAt h h := by
  revert h; decide +kernel
theorem plain_HPL_AML_KEY_CTRL (h : Fin 4) : R.HPL_AML_KEY_CTRL.plainAt h h := by
  revert h; decide +kernel
theorem plain_HPL_AML_OOB_CMD (h : Fin 4) : R.HPL_AML_OOB_CMD.plainAt h h := by
  revert h; decide +kernel
theorem near_rings (h : Fin 4) : regTable.filter (fun r => !r.misses (0x10202000 + h * 0x10000000) (0x10202000 + h * 0x10000000 + 0x2fff))
    = R.table_ring := by
  revert h; decide +kernel

theorem plain_ringConsReg (h : Fin 4) (r : Fin 11) : (ringConsReg r).plainAt h (ringAt h r) := by
  have hb : ∀ (h : Fin 4) (r : Fin 11), 0x10202000 + h * 0x10000000 ≤ (ringConsReg r).addr (ringAt h r)
      ∧ (ringConsReg r).addr (ringAt h r) ≤ 0x10202000 + h * 0x10000000 + 0x2fff := by decide +kernel
  have hn := near_rings h
  rw [RegInfo.plainAt, resolve, resolveIn_near _ _ _ (hb h r).1 (hb h r).2, hn]
  clear hn hb
  revert h r; decide +kernel

theorem plain_ringCtrlReg (h : Fin 4) (r : Fin 11) : (ringCtrlReg r).plainAt h (ringAt h r) := by
  have hb : ∀ (h : Fin 4) (r : Fin 11), 0x10202000 + h * 0x10000000 ≤ (ringCtrlReg r).addr (ringAt h r)
      ∧ (ringCtrlReg r).addr (ringAt h r) ≤ 0x10202000 + h * 0x10000000 + 0x2fff := by decide +kernel
  have hn := near_rings h
  rw [RegInfo.plainAt, resolve, resolveIn_near _ _ _ (hb h r).1 (hb h r).2, hn]
  clear hn hb
  revert h r; decide +kernel


/-! ## Large arrays: only the block's own table need be searched -/

theorem near_HOP_CMD (s : Fin 8) : regTable.filter (fun r => !r.misses (0x100c00c + s * 0x100000) (0x100c00c + s * 0x100000 + 1792)) = R.table_hop := by
  revert s; decide +kernel

theorem resolve_HOP_CMD (i : Fin 64) : resolve (R.HOP_CMD.addr i) = some (R.HOP_CMD, i.val, 0) := by
  have hb : ∀ i : Fin 64, 0x100c00c + (i.val / 8) * 0x100000 ≤ R.HOP_CMD.addr i ∧ R.HOP_CMD.addr i ≤ 0x100c00c + (i.val / 8) * 0x100000 + 1792 := by
    intro i; simp only [RegInfo.addr, R.HOP_CMD, List.foldl]; omega
  have hs : i.val / 8 < 8 := by omega
  have hn := near_HOP_CMD ⟨i.val / 8, hs⟩
  rw [resolve, resolveIn_near _ _ _ (hb i).1 (hb i).2, hn]
  clear hn hs hb
  revert i; decide +kernel

theorem plain_HOP_CMD (h : Nat) (i : Fin 64) : R.HOP_CMD.plainAt h i := by
  refine plainAt_global _ _ _ ?_ ?_ ?_ (resolve_HOP_CMD i) <;> (simp only [RegInfo.addr, R.HOP_CMD, List.foldl]; omega)

theorem near_AE_THR_CMD (s : Fin 8) : regTable.filter (fun r => !r.misses (0x1028008 + s * 0x100000) (0x1028008 + s * 0x100000 + 8160)) = R.table_aeThr := by
  revert s; decide +kernel

theorem resolve_AE_THR_CMD (i : Fin 2048) : resolve (R.AE_THR_CMD.addr i) = some (R.AE_THR_CMD, i.val, 0) := by
  have hb : ∀ i : Fin 2048, 0x1028008 + (i.val / 256) * 0x100000 ≤ R.AE_THR_CMD.addr i ∧ R.AE_THR_CMD.addr i ≤ 0x1028008 + (i.val / 256) * 0x100000 + 8160 := by
    intro i; simp only [RegInfo.addr, R.AE_THR_CMD, List.foldl]; omega
  have hs : i.val / 256 < 8 := by omega
  have hn := near_AE_THR_CMD ⟨i.val / 256, hs⟩
  rw [resolve, resolveIn_near _ _ _ (hb i).1 (hb i).2, hn]
  clear hn hs hb
  revert i; decide +kernel

theorem plain_AE_THR_CMD (h : Nat) (i : Fin 2048) : R.AE_THR_CMD.plainAt h i := by
  refine plainAt_global _ _ _ ?_ ?_ ?_ (resolve_AE_THR_CMD i) <;> (simp only [RegInfo.addr, R.AE_THR_CMD, List.foldl]; omega)

theorem near_SLU_CMD (s : Fin 1) : regTable.filter (fun r => !r.misses (0x2100008 + s * 0) (0x2100008 + s * 0 + 1046528)) = R.table_slu := by
  revert s; decide +kernel

theorem resolve_SLU_CMD (i : Fin 512) : resolve (R.SLU_CMD.addr i) = some (R.SLU_CMD, i.val, 0) := by
  have hb : ∀ i : Fin 512, 0x2100008 + (i.val / 512) * 0 ≤ R.SLU_CMD.addr i ∧ R.SLU_CMD.addr i ≤ 0x2100008 + (i.val / 512) * 0 + 1046528 := by
    intro i; simp only [RegInfo.addr, R.SLU_CMD, List.foldl]; omega
  have hs : i.val / 512 < 1 := by omega
  have hn := near_SLU_CMD ⟨i.val / 512, hs⟩
  rw [resolve, resolveIn_near _ _ _ (hb i).1 (hb i).2, hn]
  clear hn hs hb
  revert i; decide +kernel

theorem plain_SLU_CMD (h : Nat) (i : Fin 512) : R.SLU_CMD.plainAt h i := by
  refine plainAt_global _ _ _ ?_ ?_ ?_ (resolve_SLU_CMD i) <;> (simp only [RegInfo.addr, R.SLU_CMD, List.foldl]; omega)

theorem near_LP_TSFIFO_W0 (s : Fin 16) : regTable.filter (fun r => !r.misses (0x4011020 + s * 0x100000) (0x4011020 + s * 0x100000 + 203776)) = R.table_pp ++ R.table_lp := by
  revert s; decide +kernel

theorem resolve_LP_TSFIFO_W0 (i : Fin 512) : resolve (R.LP_TSFIFO_W0.addr i) = some (R.LP_TSFIFO_W0, i.val, 0) := by
  have hb : ∀ i : Fin 512, 0x4011020 + (i.val / 32) * 0x100000 ≤ R.LP_TSFIFO_W0.addr i ∧ R.LP_TSFIFO_W0.addr i ≤ 0x4011020 + (i.val / 32) * 0x100000 + 203776 := by
    intro i; simp only [RegInfo.addr, R.LP_TSFIFO_W0, List.foldl]; omega
  have hs : i.val / 32 < 16 := by omega
  have hn := near_LP_TSFIFO_W0 ⟨i.val / 32, hs⟩
  rw [resolve, resolveIn_near _ _ _ (hb i).1 (hb i).2, hn]
  clear hn hs hb
  revert i; decide +kernel

theorem plain_LP_TSFIFO_W0 (h : Nat) (i : Fin 512) : R.LP_TSFIFO_W0.plainAt h i := by
  refine plainAt_global _ _ _ ?_ ?_ ?_ (resolve_LP_TSFIFO_W0 i) <;> (simp only [RegInfo.addr, R.LP_TSFIFO_W0, List.foldl]; omega)


end Sys2Proof.Machine
end

