-- ==== Sys2Proof/Laws/Commands.lean ====
section
/-! SUPPORT. The command registers: what the write of each row's register by a linked host port comes to. -/
namespace Sys2Proof.Machine

/-- Host port `h` of a device is linked and no warm reset runs. -/
abbrev Dev.linked (d : Dev) (h : Nat) : Prop := (d.host h).up = true ∧ d.fan.warmRunning = none

theorem regWrite_HOP_CMD (d : Dev) (h i v : Nat) : (d.regWrite (.host h) R.HOP_CMD i 0 v 0).2 = d.hopCmd i v := rfl
theorem regWrite_AE_DBG_DATA_HI (d : Dev) (h i v : Nat) : (d.regWrite (.host h) R.AE_DBG_DATA_HI i 0 v 0).2 = d.dbgWrite i v := rfl
theorem regWrite_AE_THR_CMD (d : Dev) (h i v : Nat) : (d.regWrite (.host h) R.AE_THR_CMD i 0 v 0).2 = d.thrCmd (i / 256) (i % 256) v := rfl
theorem regWrite_SLU_CMD (d : Dev) (h i v : Nat) : (d.regWrite (.host h) R.SLU_CMD i 0 v 0).2 = d.sluCmd i v := rfl
theorem regWrite_HBM_CMD (d : Dev) (h i v : Nat) : (d.regWrite (.host h) R.HBM_CMD i 0 v 0).2 = d.hbmCmdWrite i v := rfl
theorem regWrite_HBM_RETIRE_CMD (d : Dev) (h i v : Nat) : (d.regWrite (.host h) R.HBM_RETIRE_CMD i 0 v 0).2 = d.retireWrite i v := rfl
theorem regWrite_OE_LMAP_CMD (d : Dev) (h i v : Nat) : (d.regWrite (.host h) R.OE_LMAP_CMD i 0 v 0).2 = d.lmapCmd i v := rfl
theorem regWrite_OE_FAILOVER_CMD (d : Dev) (h i v : Nat) : (d.regWrite (.host h) R.OE_FAILOVER_CMD i 0 v 0).2 = d.failoverCmd i v := rfl
theorem place_HOP_CMD : ∀ i : Fin 64, (0x1000000 ≤ R.HOP_CMD.addr i ∧ R.HOP_CMD.addr i < 0x1800000) ∧ (R.HOP_CMD.addr i - 0x1000000) / 0x100000 = i.val / 8 := by decide +kernel
theorem place_AE_DBG_DATA_HI : ∀ i : Fin 8, (0x1000000 ≤ R.AE_DBG_DATA_HI.addr i ∧ R.AE_DBG_DATA_HI.addr i < 0x1800000) ∧ (R.AE_DBG_DATA_HI.addr i - 0x1000000) / 0x100000 = i.val := by decide +kernel
theorem place_AE_DBG_DATA_LO : ∀ i : Fin 8, (0x1000000 ≤ R.AE_DBG_DATA_LO.addr i ∧ R.AE_DBG_DATA_LO.addr i < 0x1800000) ∧ (R.AE_DBG_DATA_LO.addr i - 0x1000000) / 0x100000 = i.val := by decide +kernel
theorem place_PMS_W0 : ∀ i : Fin 8, (0x1000000 ≤ R.PMS_W0.addr i ∧ R.PMS_W0.addr i < 0x1800000) ∧ (R.PMS_W0.addr i - 0x1000000) / 0x100000 = i.val := by decide +kernel
theorem place_HBM_CMD : ∀ i : Fin 4, (0x3000000 ≤ R.HBM_CMD.addr i ∧ R.HBM_CMD.addr i < 0x3400000) ∧ (R.HBM_CMD.addr i - 0x3000000) / 0x100000 = i.val := by decide +kernel
theorem place_HBM_RETIRE_CMD : ∀ i : Fin 4, (0x3000000 ≤ R.HBM_RETIRE_CMD.addr i ∧ R.HBM_RETIRE_CMD.addr i < 0x3400000) ∧ (R.HBM_RETIRE_CMD.addr i - 0x3000000) / 0x100000 = i.val := by decide +kernel
theorem place_OE_LMAP_CMD : ∀ i : Fin 16, (0x4000000 ≤ R.OE_LMAP_CMD.addr i ∧ R.OE_LMAP_CMD.addr i < 0x5000000) ∧ (R.OE_LMAP_CMD.addr i - 0x4000000) / 0x200000 = i.val / 2 := by decide +kernel
theorem place_OE_FAILOVER_CMD : ∀ i : Fin 16, (0x4000000 ≤ R.OE_FAILOVER_CMD.addr i ∧ R.OE_FAILOVER_CMD.addr i < 0x5000000) ∧ (R.OE_FAILOVER_CMD.addr i - 0x4000000) / 0x200000 = i.val / 2 := by decide +kernel
theorem place_LP_TSFIFO_W0 : ∀ i : Fin 512, (0x4000000 ≤ R.LP_TSFIFO_W0.addr i ∧ R.LP_TSFIFO_W0.addr i < 0x5000000) ∧ (R.LP_TSFIFO_W0.addr i - 0x4000000) / 0x200000 = i.val / 64 := by decide +kernel
theorem place_AE_THR_CMD : ∀ i : Fin 2048, (0x1000000 ≤ R.AE_THR_CMD.addr i ∧ R.AE_THR_CMD.addr i < 0x1800000) ∧ (R.AE_THR_CMD.addr i - 0x1000000) / 0x100000 = i.val / 256 := by decide +kernel
theorem place_SLU_CMD : ∀ i : Fin 512, (0x2000000 ≤ R.SLU_CMD.addr i ∧ R.SLU_CMD.addr i < 0x2400000) ∧ (R.SLU_CMD.addr i - 0x2000000) / 0x400000 = 0 := by decide +kernel

theorem Dev.hostReg_IMG_OWNER (d : Dev) (h v : Nat) (hl : d.linked h) : d.hostReg h R.IMG_OWNER 0 v = d.imgOwner h (v % 2 ^ 32) :=
  Dev.hostReg_global _ _ _ _ _ (plain_IMG_OWNER h) hl.1 hl.2 (Or.inl (by decide))

theorem Dev.hostReg_VER_CMD (d : Dev) (h v : Nat) (hl : d.linked h) : d.hostReg h R.VER_CMD 0 v = d.verCmd h (v % 2 ^ 32) :=
  Dev.hostReg_global _ _ _ _ _ (plain_VER_CMD h) hl.1 hl.2 (Or.inl (by decide))

theorem Dev.hostReg_FUSE_ARB (d : Dev) (h v : Nat) (hl : d.linked h) : d.hostReg h R.FUSE_ARB 0 v = d.fuseWrite 3 h (v % 2 ^ 32) :=
  Dev.hostReg_global _ _ _ _ _ (plain_FUSE_ARB h) hl.1 hl.2 (Or.inl (by decide))

theorem Dev.hostReg_FUSE_LANE_MAP (d : Dev) (h v : Nat) (hl : d.linked h) : d.hostReg h R.FUSE_LANE_MAP 0 v = d.fuseWrite 4 h (v % 2 ^ 32) :=
  Dev.hostReg_global _ _ _ _ _ (plain_FUSE_LANE_MAP h) hl.1 hl.2 (Or.inl (by decide))

theorem Dev.hostReg_FUSE_BOOT_POLICY (d : Dev) (h v : Nat) (hl : d.linked h) : d.hostReg h R.FUSE_BOOT_POLICY 0 v = d.fuseWrite 5 h (v % 2 ^ 32) :=
  Dev.hostReg_global _ _ _ _ _ (plain_FUSE_BOOT_POLICY h) hl.1 hl.2 (Or.inl (by decide))

theorem Dev.hostReg_FUSE_KEY_CMD (d : Dev) (h v : Nat) (hl : d.linked h) : d.hostReg h R.FUSE_KEY_CMD 0 v = d.fuseKeyCmd h (v % 2 ^ 32) :=
  Dev.hostReg_global _ _ _ _ _ (plain_FUSE_KEY_CMD h) hl.1 hl.2 (Or.inl (by decide))

theorem Dev.hostReg_FAN_HOLD (d : Dev) (h v : Nat) (hl : d.linked h) : d.hostReg h R.FAN_HOLD 0 v = d.fanHold (v % 2 ^ 32) :=
  Dev.hostReg_global _ _ _ _ _ (plain_FAN_HOLD h) hl.1 hl.2 (Or.inl (by decide))

theorem Dev.hostReg_TIME_CMD (d : Dev) (h v : Nat) (hl : d.linked h) : d.hostReg h R.TIME_CMD 0 v = d.timeCmd (v % 2 ^ 32) :=
  Dev.hostReg_global _ _ _ _ _ (plain_TIME_CMD h) hl.1 hl.2 (Or.inl (by decide))

theorem Dev.hostReg_STAT_CTRL (d : Dev) (h v : Nat) (hl : d.linked h) : d.hostReg h R.STAT_CTRL 0 v = d.statCtrl (v % 2 ^ 32) :=
  Dev.hostReg_global _ _ _ _ _ (plain_STAT_CTRL h) hl.1 hl.2 (Or.inl (by decide))

theorem Dev.hostReg_STAT_PERIOD_MS (d : Dev) (h v : Nat) (hl : d.linked h) : d.hostReg h R.STAT_PERIOD_MS 0 v = d.statPeriodWrite (fun d => d.wr R.STAT_PERIOD_MS 0 (v % 2 ^ 32 % 65536)) :=
  Dev.hostReg_global _ _ _ _ _ (plain_STAT_PERIOD_MS h) hl.1 hl.2 (Or.inl (by decide))

theorem Dev.hostReg_STAT_ALIGN (d : Dev) (h v : Nat) (hl : d.linked h) : d.hostReg h R.STAT_ALIGN 0 v = d.statPeriodWrite (fun d => d.wideWord R.STAT_ALIGN 0 0 (v % 2 ^ 32)) :=
  Dev.hostReg_global _ _ _ _ _ (plain_STAT_ALIGN h) hl.1 hl.2 (Or.inl (by decide))

theorem Dev.hostReg_ERR_INJ_CMD (d : Dev) (h v : Nat) (hl : d.linked h) : d.hostReg h R.ERR_INJ_CMD 0 v = d.injCmd (v % 2 ^ 32) :=
  Dev.hostReg_global _ _ _ _ _ (plain_ERR_INJ_CMD h) hl.1 hl.2 (Or.inl (by decide))

theorem Dev.hostReg_PERF_CMD (d : Dev) (h v : Nat) (hl : d.linked h) : d.hostReg h R.PERF_CMD 0 v = d.perfCmd (v % 2 ^ 32) :=
  Dev.hostReg_global _ _ _ _ _ (plain_PERF_CMD h) hl.1 hl.2 (Or.inl (by decide))

theorem Dev.hostReg_IMG_CMD (d : Dev) (h v : Nat) (hl : d.linked h) (ho : d.owns h = true) : d.hostReg h R.IMG_CMD 0 v = d.imgCmd (v % 2 ^ 32) := by
  rw [Dev.hostReg_global _ _ _ _ _ (plain_IMG_CMD h) hl.1 hl.2 (Or.inl (by decide))]
  show (d.ownerWrite (.host h) _).2 = _
  simp [Dev.ownerWrite, ho]

theorem Dev.hostReg_IMG_CMD_other (d : Dev) (h v : Nat) (hl : d.linked h) (ho : d.owns h = false) : d.hostReg h R.IMG_CMD 0 v = d.badAccess h := by
  rw [Dev.hostReg_global _ _ _ _ _ (plain_IMG_CMD h) hl.1 hl.2 (Or.inl (by decide))]
  show (d.ownerWrite (.host h) _).2 = _
  simp [Dev.ownerWrite, ho, Dev.deniedWrite, Dev.countBad, Accessor.rights]

theorem Dev.hostReg_ERR_SPARE_CMD (d : Dev) (h : Nat) (hl : d.linked h) : d.hostReg h R.ERR_SPARE_CMD 0 1 = d.spareGo :=
  Dev.hostReg_global _ _ _ _ _ (plain_ERR_SPARE_CMD h) hl.1 hl.2 (Or.inl (by decide))

/-- A keyed command of R558. -/
theorem Dev.hostReg_RST_CMD (d : Dev) (h k : Nat) (hl : d.linked h) (hk : k < 65536) :
    d.hostReg h R.RST_CMD 0 (0x5AFE0000 + k) = d.rstCmd h (0x5AFE0000 + k) := by
  rw [Dev.hostReg_global _ _ _ _ _ (plain_RST_CMD h) hl.1 hl.2 (Or.inl (by decide)), Nat.mod_eq_of_lt (by omega)]
  show (d.keyed (.host h) (0x5AFE0000 + k) _).2 = _
  have : keyOk (0x5AFE0000 + k) = true := by
    have hq : (0x5AFE0000 + k) / 2 ^ 16 % 2 ^ 16 = 0x5AFE := by omega
    simp only [keyOk, fld, hq]; rfl
  simp [Dev.keyed, this, Accessor.source]

theorem Dev.hostReg_FAN_CMD (d : Dev) (h k : Nat) (hl : d.linked h) (hk : k < 65536) :
    d.hostReg h R.FAN_CMD 0 (0x5AFE0000 + k) = d.fanCmd h (0x5AFE0000 + k) := by
  rw [Dev.hostReg_global _ _ _ _ _ (plain_FAN_CMD h) hl.1 hl.2 (Or.inl (by decide)), Nat.mod_eq_of_lt (by omega)]
  show (d.keyed (.host h) (0x5AFE0000 + k) _).2 = _
  have : keyOk (0x5AFE0000 + k) = true := by
    have hq : (0x5AFE0000 + k) / 2 ^ 16 % 2 ^ 16 = 0x5AFE := by omega
    simp only [keyOk, fld, hq]; rfl
  simp [Dev.keyed, this, Accessor.source]

theorem Dev.hostReg_HPL_LEASE_CMD (d : Dev) (h : Fin 4) (v : Nat) (hl : d.linked h) : d.hostReg h R.HPL_LEASE_CMD h v = d.leaseCmd h (v % 2 ^ 32) :=
  Dev.hostReg_global _ _ _ _ _ (plain_HPL_LEASE_CMD h) hl.1 hl.2 (Or.inr (by clear hl; revert h; decide +kernel))

theorem Dev.hostReg_HPL_AML_KEY_CTRL (d : Dev) (h : Fin 4) (v : Nat) (hl : d.linked h) : d.hostReg h R.HPL_AML_KEY_CTRL h v = d.keyCtrl h (v % 2 ^ 32) :=
  Dev.hostReg_global _ _ _ _ _ (plain_HPL_AML_KEY_CTRL h) hl.1 hl.2 (Or.inr (by clear hl; revert h; decide +kernel))

theorem Dev.hostReg_HPL_AML_OOB_CMD (d : Dev) (h : Fin 4) (v : Nat) (hl : d.linked h) : d.hostReg h R.HPL_AML_OOB_CMD h v = d.oobCmd h (v % 2 ^ 32) :=
  Dev.hostReg_global _ _ _ _ _ (plain_HPL_AML_OOB_CMD h) hl.1 hl.2 (Or.inr (by clear hl; revert h; decide +kernel))

theorem Dev.hostReg_ringConsReg (d : Dev) (h : Fin 4) (r : Fin 11) (v : Nat) (hl : d.linked h) :
    d.hostReg h (ringConsReg r) (ringAt h r) v = d.ringCons (ringAt h r) (v % 2 ^ 32) := by
  rw [Dev.hostReg_global _ _ _ _ _ (plain_ringConsReg h r) hl.1 hl.2 (Or.inr (by clear hl; revert h r; decide +kernel))]
  unfold ringConsReg ringBlock
  repeat' split
  all_goals rfl

theorem Dev.hostReg_ringCtrlReg (d : Dev) (h : Fin 4) (r : Fin 11) (v : Nat) (hl : d.linked h) :
    d.hostReg h (ringCtrlReg r) (ringAt h r) v = d.ringCtrl (ringAt h r) (v % 2 ^ 32) := by
  rw [Dev.hostReg_global _ _ _ _ _ (plain_ringCtrlReg h r) hl.1 hl.2 (Or.inr (by clear hl; revert h r; decide +kernel))]
  unfold ringCtrlReg ringBlock
  repeat' split
  all_goals rfl

theorem Dev.hostReg_HOP_CMD (d : Dev) (h v : Nat) (q : Fin 64) (hl : d.linked h) (run : (d.slc (q / 8)).st = .run) :
    d.hostReg h R.HOP_CMD q v = (d.wake (q / 8)).hopCmd q (v % 2 ^ 32) :=
  (Dev.hostReg_slice _ _ _ _ _ _ (plain_HOP_CMD h q) hl.1 hl.2 (place_HOP_CMD q).1 (place_HOP_CMD q).2 run).trans (regWrite_HOP_CMD _ _ _ _)

theorem Dev.hostReg_AE_DBG_DATA_HI (d : Dev) (h v : Nat) (s : Fin 8) (hl : d.linked h) (run : (d.slc s).st = .run) :
    d.hostReg h R.AE_DBG_DATA_HI s v = (d.wake s).dbgWrite s (v % 2 ^ 32) :=
  (Dev.hostReg_slice _ _ _ _ _ _ (plain_AE_DBG_DATA_HI h s) hl.1 hl.2 (place_AE_DBG_DATA_HI s).1 (place_AE_DBG_DATA_HI s).2 run).trans (regWrite_AE_DBG_DATA_HI _ _ _ _)

theorem Dev.hostReg_AE_THR_CMD (d : Dev) (h v : Nat) (s : Fin 8) (t : Fin 256) (hl : d.linked h) (run : (d.slc s).st = .run) :
    d.hostReg h R.AE_THR_CMD (s * 256 + t) v = (d.wake s).thrCmd s t (v % 2 ^ 32) := by
  have hp := plain_AE_THR_CMD h ⟨s.val * 256 + t.val, by omega⟩
  have := Dev.hostReg_slice d h _ v s _ hp hl.1 hl.2 (place_AE_THR_CMD ⟨s.val * 256 + t.val, by omega⟩).1
    ((place_AE_THR_CMD ⟨s.val * 256 + t.val, by omega⟩).2.trans (by simp only; omega)) run
  rw [this, regWrite_AE_THR_CMD]
  simp only
  rw [show (s.val * 256 + t.val) / 256 = s.val from by omega, show (s.val * 256 + t.val) % 256 = t.val from by omega]

theorem Dev.hostReg_SLU_CMD (d : Dev) (h v : Nat) (n : Fin 512) (hl : d.linked h) (run : d.fan.fabricAsleep = false) :
    d.hostReg h R.SLU_CMD n v = d.sluCmd n (v % 2 ^ 32) :=
  (Dev.hostReg_fabric _ _ _ _ _ (plain_SLU_CMD h n) hl.1 hl.2 (place_SLU_CMD n).1 run).trans (regWrite_SLU_CMD _ _ _ _)

theorem Dev.hostReg_HBM_CMD (d : Dev) (h v : Nat) (k : Fin 4) (hl : d.linked h) (run : (d.stk k).st ≠ .sleep) (on : (d.stk k).st ≠ .offline) :
    d.hostReg h R.HBM_CMD k v = d.hbmCmdWrite k (v % 2 ^ 32) :=
  (Dev.hostReg_stack _ _ _ _ _ _ (plain_HBM_CMD h k) hl.1 hl.2 (place_HBM_CMD k).1 (place_HBM_CMD k).2 run on).trans (regWrite_HBM_CMD _ _ _ _)

theorem Dev.hostReg_HBM_RETIRE_CMD (d : Dev) (h v : Nat) (k : Fin 4) (hl : d.linked h) (run : (d.stk k).st ≠ .sleep)
    (on : (d.stk k).st ≠ .offline) : d.hostReg h R.HBM_RETIRE_CMD k v = d.retireWrite k (v % 2 ^ 32) :=
  (Dev.hostReg_stack _ _ _ _ _ _ (plain_HBM_RETIRE_CMD h k) hl.1 hl.2 (place_HBM_RETIRE_CMD k).1 (place_HBM_RETIRE_CMD k).2 run on).trans (regWrite_HBM_RETIRE_CMD _ _ _ _)

/-- The device after an access has reached the MAC domain of slice `s`, which runs. -/
def Dev.macTouch (d : Dev) (s : Nat) : Dev := d.setSlc s { d.slc s with macRun := true, macIdleSince := d.now }

theorem Dev.hostReg_OE_LMAP_CMD (d : Dev) (h v : Nat) (k : Fin 16) (hl : d.linked h) (run : (d.slc (k / 2)).macRun = true) :
    d.hostReg h R.OE_LMAP_CMD k v = (d.macTouch (k / 2)).lmapCmd k (v % 2 ^ 32) :=
  (Dev.hostReg_mac _ _ _ _ _ _ (plain_OE_LMAP_CMD h k) hl.1 hl.2 (place_OE_LMAP_CMD k).1 (place_OE_LMAP_CMD k).2 run).trans (regWrite_OE_LMAP_CMD _ _ _ _)

theorem Dev.hostReg_OE_FAILOVER_CMD (d : Dev) (h v : Nat) (k : Fin 16) (hl : d.linked h) (run : (d.slc (k / 2)).macRun = true) :
    d.hostReg h R.OE_FAILOVER_CMD k v = (d.macTouch (k / 2)).failoverCmd k (v % 2 ^ 32) :=
  (Dev.hostReg_mac _ _ _ _ _ _ (plain_OE_FAILOVER_CMD h k) hl.1 hl.2 (place_OE_FAILOVER_CMD k).1 (place_OE_FAILOVER_CMD k).2 run).trans (regWrite_OE_FAILOVER_CMD _ _ _ _)

/-! ## Reads -/

/-- A read of a host port ends: the data `x.1` go to the host port of the device `x.2`. -/
def gotData (h : Nat) (x : Nat × Dev) : Dev := x.2.setHost h { x.2.host h with readData := BitVec.ofNat 64 x.1 }

theorem Dev.hostGet_ERR_LOG_W0 (d : Dev) (h : Nat) (hl : d.linked h) : d.hostGet h (R.ERR_LOG_W0.addr 0) none = gotData h d.errLogRead :=
  Dev.hostGet_global _ _ _ _ _ (plain_ERR_LOG_W0 h) hl.1 hl.2 (by decide)

theorem Dev.hostGet_TIME_NOW_NS (d : Dev) (h : Nat) (hl : d.linked h) : d.hostGet h (R.TIME_NOW_NS.addr 0) none = gotData h (d.readNow h) :=
  Dev.hostGet_global _ _ _ _ _ (plain_TIME_NOW_NS h) hl.1 hl.2 (by decide)

theorem Dev.hostGet_TIME_PPS_IN_NS (d : Dev) (h : Nat) (hl : d.linked h) :
    d.hostGet h (R.TIME_PPS_IN_NS.addr 0) none = gotData h (d.readPps h) :=
  Dev.hostGet_global _ _ _ _ _ (plain_TIME_PPS_IN_NS h) hl.1 hl.2 (by decide)

theorem Dev.hostGet_PMS_W0 (d : Dev) (h : Nat) (s : Fin 8) (hl : d.linked h) (run : (d.slc s).st = .run) :
    d.hostGet h (R.PMS_W0.addr s) none = gotData h ((d.wake s).pmsRead s) :=
  Dev.hostGet_slice _ _ _ _ _ _ (plain_PMS_W0 h s) hl.1 hl.2 (place_PMS_W0 s).1 (place_PMS_W0 s).2 run

theorem Dev.hostGet_AE_DBG_DATA_LO (d : Dev) (h : Nat) (s : Fin 8) (hl : d.linked h) (run : (d.slc s).st = .run) :
    d.hostGet h (R.AE_DBG_DATA_LO.addr s) none = gotData h ((d.wake s).dbgRead s) :=
  Dev.hostGet_slice _ _ _ _ _ _ (plain_AE_DBG_DATA_LO h s) hl.1 hl.2 (place_AE_DBG_DATA_LO s).1 (place_AE_DBG_DATA_LO s).2 run

theorem Dev.hostGet_LP_TSFIFO_W0 (d : Dev) (h : Nat) (n : Fin 512) (hl : d.linked h) (run : (d.slc (n / 64)).macRun = true) :
    d.hostGet h (R.LP_TSFIFO_W0.addr n) none = gotData h ((d.macTouch (n / 64)).tsFifoRead n) :=
  Dev.hostGet_mac _ _ _ _ _ _ (plain_LP_TSFIFO_W0 h n) hl.1 hl.2 (place_LP_TSFIFO_W0 n).1 (place_LP_TSFIFO_W0 n).2 run

end Sys2Proof.Machine
end

