-- ==== Sys2Proof/Laws/Store.lean ====
section
/-! SUPPORT. Sparse state: a read after a write, and that every operation keeps the canonical form. -/
namespace Sys2Proof.Machine

variable {α : Type}

/-! ## Reads -/

@[simp] theorem SMap.get_nil (d : α) (k : Nat) : SMap.get d [] k = d := rfl

theorem SMap.get_put_same (d : α) (m : SMap α) (k : Nat) (a : α) : SMap.get d (SMap.put m k a) k = a := by
  induction m with
  | nil => simp [SMap.put, SMap.get]
  | cons e m ih =>
    obtain ⟨j, b⟩ := e
    simp only [SMap.put]
    split
    · simp [SMap.get]
    · split
      · simp [SMap.get]
      · rename_i h1 h2; simp [SMap.get, h2, ih]

theorem SMap.get_put_ne (d : α) (m : SMap α) (k k' : Nat) (a : α) (h : k' ≠ k) :
    SMap.get d (SMap.put m k a) k' = SMap.get d m k' := by
  induction m with
  | nil => simp [SMap.put, SMap.get, Ne.symm h]
  | cons e m ih =>
    obtain ⟨j, b⟩ := e
    simp only [SMap.put]
    split
    · simp [SMap.get, Ne.symm h]
    · split
      · rename_i h1 h2; subst h2; simp [SMap.get, Ne.symm h]
      · simp only [SMap.get]; rw [ih]

/-- A key below every listed one is not listed. -/
theorem SMap.get_below [DecidableEq α] (d : α) (m : SMap α) : ∀ lo k, SMap.wfFrom d lo m = true → k < lo → SMap.get d m k = d := by
  induction m with
  | nil => intros; rfl
  | cons e m ih =>
    obtain ⟨j, b⟩ := e
    intro lo k hw hk
    simp only [SMap.wfFrom, Bool.and_eq_true, decide_eq_true_eq] at hw
    simp only [SMap.get]
    rw [if_neg (by omega)]
    exact ih (j + 1) k hw.2 (by omega)

theorem SMap.get_erase_ne [DecidableEq α] (d : α) (m : SMap α) (k k' : Nat) (h : k' ≠ k) :
    SMap.get d (SMap.erase m k) k' = SMap.get d m k' := by
  induction m with
  | nil => rfl
  | cons e m ih =>
    obtain ⟨j, b⟩ := e
    simp only [SMap.erase]
    split
    · rename_i hj; subst hj; rw [ih]; simp [SMap.get, Ne.symm h]
    · simp only [SMap.get]; rw [ih]

theorem SMap.get_erase_same (d : α) (m : SMap α) (k : Nat) : SMap.get d (SMap.erase m k) k = d := by
  induction m with
  | nil => rfl
  | cons e m ih =>
    obtain ⟨j, b⟩ := e
    simp only [SMap.erase]
    split
    · exact ih
    · rename_i hj; simp [SMap.get, hj, ih]

/-- A read after a write of the same key. -/
@[simp] theorem SMap.get_set_same [DecidableEq α] (d : α) (m : SMap α) (k : Nat) (a : α) :
    SMap.get d (SMap.set d m k a) k = a := by
  unfold SMap.set
  split
  · rename_i h; rw [h]; exact SMap.get_erase_same d m k
  · exact SMap.get_put_same d m k a

/-- A write leaves every other key alone. -/
theorem SMap.get_set_ne [DecidableEq α] (d : α) (m : SMap α) (k k' : Nat) (a : α) (h : k' ≠ k) :
    SMap.get d (SMap.set d m k a) k' = SMap.get d m k' := by
  unfold SMap.set
  split
  · exact SMap.get_erase_ne d m k k' h
  · exact SMap.get_put_ne d m k k' a h

/-! ## The canonical form -/

theorem SMap.wfFrom_mono [DecidableEq α] (d : α) (m : SMap α) : ∀ lo lo', lo' ≤ lo → SMap.wfFrom d lo m = true → SMap.wfFrom d lo' m = true := by
  cases m with
  | nil => intros; rfl
  | cons e m =>
    intro lo lo' hl hw
    simp only [SMap.wfFrom, Bool.and_eq_true, decide_eq_true_eq] at hw ⊢
    exact ⟨⟨by omega, hw.1.2⟩, hw.2⟩

theorem SMap.wfFrom_erase [DecidableEq α] (d : α) (k : Nat) (m : SMap α) :
    ∀ lo, SMap.wfFrom d lo m = true → SMap.wfFrom d lo (SMap.erase m k) = true := by
  induction m with
  | nil => intros; rfl
  | cons e m ih =>
    obtain ⟨j, b⟩ := e
    intro lo hw
    simp only [SMap.wfFrom, Bool.and_eq_true, decide_eq_true_eq] at hw
    simp only [SMap.erase]
    split
    · exact SMap.wfFrom_mono d _ (j + 1) lo (by omega) (ih _ hw.2)
    · simp only [SMap.wfFrom, Bool.and_eq_true, decide_eq_true_eq]; exact ⟨hw.1, ih _ hw.2⟩

theorem SMap.wfFrom_put [DecidableEq α] (d : α) (k : Nat) (a : α) (ha : a ≠ d) (m : SMap α) :
    ∀ lo, lo ≤ k → SMap.wfFrom d lo m = true → SMap.wfFrom d lo (SMap.put m k a) = true := by
  induction m with
  | nil => intro lo hl _; simp [SMap.put, SMap.wfFrom, hl, ha]
  | cons e m ih =>
    obtain ⟨j, b⟩ := e
    intro lo hl hw
    simp only [SMap.wfFrom, Bool.and_eq_true, decide_eq_true_eq] at hw
    simp only [SMap.put]
    split
    · simp only [SMap.wfFrom, Bool.and_eq_true, decide_eq_true_eq]; exact ⟨⟨hl, ha⟩, ⟨by omega, hw.1.2⟩, hw.2⟩
    · split
      · rename_i h1 h2; subst h2
        simp only [SMap.wfFrom, Bool.and_eq_true, decide_eq_true_eq]; exact ⟨⟨hl, ha⟩, hw.2⟩
      · simp only [SMap.wfFrom, Bool.and_eq_true, decide_eq_true_eq]; exact ⟨hw.1, ih _ (by omega) hw.2⟩

theorem SMap.wf_set [DecidableEq α] (d : α) (m : SMap α) (k : Nat) (a : α) (hw : SMap.wf d m = true) :
    SMap.wf d (SMap.set d m k a) = true := by
  unfold SMap.set
  split
  · exact SMap.wfFrom_erase d k m 0 hw
  · rename_i h; exact SMap.wfFrom_put d k a h m 0 (Nat.zero_le _) hw

theorem SMap.wf_modify [DecidableEq α] (d : α) (m : SMap α) (k : Nat) (f : α → α) (hw : SMap.wf d m = true) :
    SMap.wf d (SMap.modify d m k f) = true := SMap.wf_set d m k _ hw

theorem SMap.wfFrom_keep [DecidableEq α] (d : α) (p : Nat → α → Bool) (m : SMap α) :
    ∀ lo, SMap.wfFrom d lo m = true → SMap.wfFrom d lo (SMap.keep p m) = true := by
  induction m with
  | nil => intros; rfl
  | cons e m ih =>
    obtain ⟨j, b⟩ := e
    intro lo hw
    simp only [SMap.wfFrom, Bool.and_eq_true, decide_eq_true_eq] at hw
    have hm := ih _ hw.2
    simp only [SMap.keep, List.filter] at hm ⊢
    split
    · simp only [SMap.wfFrom, Bool.and_eq_true, decide_eq_true_eq]; exact ⟨hw.1, hm⟩
    · exact SMap.wfFrom_mono d _ (j + 1) lo (by omega) hm

theorem SMap.wf_keep [DecidableEq α] (d : α) (p : Nat → α → Bool) (m : SMap α) (hw : SMap.wf d m = true) :
    SMap.wf d (SMap.keep p m) = true := SMap.wfFrom_keep d p m 0 hw

theorem SMap.wfFrom_mapV [DecidableEq α] (d : α) (f : Nat → α → α) (m : SMap α) :
    ∀ lo, SMap.wfFrom d lo m = true → SMap.wfFrom d lo (SMap.mapV d f m) = true := by
  induction m with
  | nil => intros; rfl
  | cons e m ih =>
    obtain ⟨j, b⟩ := e
    intro lo hw
    simp only [SMap.wfFrom, Bool.and_eq_true, decide_eq_true_eq] at hw
    have hm := ih _ hw.2
    simp only [SMap.mapV, List.map, List.filter] at hm ⊢
    split
    · rename_i h; simp only [decide_eq_true_eq] at h
      simp only [SMap.wfFrom, Bool.and_eq_true, decide_eq_true_eq]; exact ⟨⟨hw.1.1, h⟩, hm⟩
    · exact SMap.wfFrom_mono d _ (j + 1) lo (by omega) hm

theorem SMap.wf_mapV [DecidableEq α] (d : α) (f : Nat → α → α) (m : SMap α) (hw : SMap.wf d m = true) :
    SMap.wf d (SMap.mapV d f m) = true := SMap.wfFrom_mapV d f m 0 hw

/-! ## Byte memories -/

theorem memGet_memSet_same (m : List Host.Cell) (a : Nat) (b : BitVec 8) : memGet (memSet m a b) a = b :=
  SMap.get_set_same 0 m a b

theorem memGet_memSet_ne (m : List Host.Cell) (a a' : Nat) (b : BitVec 8) (h : a' ≠ a) : memGet (memSet m a b) a' = memGet m a' :=
  SMap.get_set_ne 0 m a a' b h

theorem memSet_wf (m : List Host.Cell) (a : Nat) (b : BitVec 8) (hw : Memory.wf m = true) : Memory.wf (memSet m a b) = true :=
  SMap.wf_set 0 m a b hw

theorem memWrite_wf (bs : List (BitVec 8)) : ∀ (m : List Host.Cell) (a : Nat), Memory.wf m = true → Memory.wf (memWrite m a bs) = true := by
  induction bs with
  | nil => intro m a hw; exact hw
  | cons b bs ih => intro m a hw; exact ih _ _ (memSet_wf m a b hw)

/-- A write of several bytes leaves every other address alone. -/
theorem memGet_memWrite_out (bs : List (BitVec 8)) : ∀ (m : List Host.Cell) (a a' : Nat), a' < a ∨ a + bs.length ≤ a' →
    memGet (memWrite m a bs) a' = memGet m a' := by
  induction bs with
  | nil => intros; rfl
  | cons b bs ih =>
    intro m a a' h
    simp only [List.length_cons] at h
    simp only [memWrite]
    rw [ih _ _ _ (by omega), memGet_memSet_ne _ _ _ _ (by omega)]

/-- A read of the bytes just written gives them. -/
theorem memRead_memWrite (bs : List (BitVec 8)) : ∀ (m : List Host.Cell) (a : Nat),
    memRead (memWrite m a bs) a bs.length = bs := by
  induction bs with
  | nil => intros; rfl
  | cons b bs ih =>
    intro m a
    simp only [List.length_cons, memRead, memWrite]
    rw [ih, memGet_memWrite_out _ _ _ _ (Or.inl (by omega)), memGet_memSet_same]

end Sys2Proof.Machine
end

