-- ==== Sys2Proof/Laws/Ops.lean ====
section
/-! SUPPORT. The register operations: a read after a write, what a raised event bit leaves alone, and the canonical register bank. -/
namespace Sys2Proof.Machine

/-! ## 32-bit registers -/

theorem Dev.rd_wr_same (d : Dev) (r : RegInfo) (i v : Nat) (hv : v < 2 ^ 32) :
    (d.wr r i v).rd r i = v := by
  simp only [Dev.rd, Dev.wr]
  rw [SMap.get_set_same, BitVec.xor_assoc, BitVec.xor_self, BitVec.xor_zero, BitVec.toNat_ofNat, Nat.mod_eq_of_lt hv]

theorem Dev.rd_wr_ne (d : Dev) (r r' : RegInfo) (i i' v : Nat) (h : r'.key i' ≠ r.key i) : (d.wr r i v).rd r' i' = d.rd r' i' := by
  simp only [Dev.rd, Dev.wr]
  rw [SMap.get_set_ne _ _ _ _ _ h]

theorem Dev.rd64_wr64_same (d : Dev) (r : RegInfo) (i v : Nat) (hv : v < 2 ^ 64) :
    (d.wr64 r i v).rd64 r i = v := by
  simp only [Dev.rd64, Dev.wr64]
  rw [SMap.get_set_same, BitVec.toNat_ofNat, Nat.mod_eq_of_lt hv]

theorem Dev.rd64_wr64_ne (d : Dev) (r r' : RegInfo) (i i' v : Nat) (h : r'.key i' ≠ r.key i) :
    (d.wr64 r i v).rd64 r' i' = d.rd64 r' i' := by
  simp only [Dev.rd64, Dev.wr64]
  rw [SMap.get_set_ne _ _ _ _ _ h]

/-! ## A piece of state read after it is set -/

@[simp] theorem Dev.bank_setBank (d : Dev) (k : Nat) (x : ImgBank) : (d.setBank k x).bank k = x := by simp [Dev.bank, Dev.setBank]
theorem Dev.bank_setBank_ne (d : Dev) (k j : Nat) (x : ImgBank) (h : j ≠ k) : (d.setBank k x).bank j = d.bank j := SMap.get_set_ne _ _ _ _ _ h
@[simp] theorem Dev.lp_setLp (d : Dev) (k : Nat) (x : LPort) : (d.setLp k x).lp k = x := by simp [Dev.lp, Dev.setLp]
theorem Dev.lp_setLp_ne (d : Dev) (k j : Nat) (x : LPort) (h : j ≠ k) : (d.setLp k x).lp j = d.lp j := SMap.get_set_ne _ _ _ _ _ h
@[simp] theorem Dev.pp_setPp (d : Dev) (k : Nat) (x : PPort) : (d.setPp k x).pp k = x := by simp [Dev.pp, Dev.setPp]
theorem Dev.pp_setPp_ne (d : Dev) (k j : Nat) (x : PPort) (h : j ≠ k) : (d.setPp k x).pp j = d.pp j := SMap.get_set_ne _ _ _ _ _ h
@[simp] theorem Dev.eng_setEng (d : Dev) (k : Nat) (x : Engine) : (d.setEng k x).eng k = x := by simp [Dev.eng, Dev.setEng]
theorem Dev.eng_setEng_ne (d : Dev) (k j : Nat) (x : Engine) (h : j ≠ k) : (d.setEng k x).eng j = d.eng j := SMap.get_set_ne _ _ _ _ _ h
@[simp] theorem Dev.isa_setIsa (d : Dev) (k : Nat) (x : Isa) : (d.setIsa k x).isa k = x := by simp [Dev.isa, Dev.setIsa]
theorem Dev.isa_setIsa_ne (d : Dev) (k j : Nat) (x : Isa) (h : j ≠ k) : (d.setIsa k x).isa j = d.isa j := SMap.get_set_ne _ _ _ _ _ h
@[simp] theorem Dev.ring_setRing (d : Dev) (k : Nat) (x : RingState) : (d.setRing k x).ring k = x := by simp [Dev.ring, Dev.setRing]
theorem Dev.ring_setRing_ne (d : Dev) (k j : Nat) (x : RingState) (h : j ≠ k) : (d.setRing k x).ring j = d.ring j := SMap.get_set_ne _ _ _ _ _ h
@[simp] theorem Dev.snd_setSnd (d : Dev) (k : Nat) (x : Sender) : (d.setSnd k x).snd k = x := by simp [Dev.snd, Dev.setSnd]
theorem Dev.snd_setSnd_ne (d : Dev) (k j : Nat) (x : Sender) (h : j ≠ k) : (d.setSnd k x).snd j = d.snd j := SMap.get_set_ne _ _ _ _ _ h
@[simp] theorem Dev.rsq_setRsq (d : Dev) (k : Nat) (x : Rsq) : (d.setRsq k x).rsq k = x := by simp [Dev.rsq, Dev.setRsq]
theorem Dev.rsq_setRsq_ne (d : Dev) (k j : Nat) (x : Rsq) (h : j ≠ k) : (d.setRsq k x).rsq j = d.rsq j := SMap.get_set_ne _ _ _ _ _ h
@[simp] theorem Dev.hop_setHop (d : Dev) (k : Nat) (x : Hopper) : (d.setHop k x).hop k = x := by simp [Dev.hop, Dev.setHop]
theorem Dev.hop_setHop_ne (d : Dev) (k j : Nat) (x : Hopper) (h : j ≠ k) : (d.setHop k x).hop j = d.hop j := SMap.get_set_ne _ _ _ _ _ h
@[simp] theorem Dev.host_setHost (d : Dev) (k : Nat) (x : HostPort) : (d.setHost k x).host k = x := by simp [Dev.host, Dev.setHost]
theorem Dev.host_setHost_ne (d : Dev) (k j : Nat) (x : HostPort) (h : j ≠ k) : (d.setHost k x).host j = d.host j := SMap.get_set_ne _ _ _ _ _ h
@[simp] theorem Dev.slc_setSlc (d : Dev) (k : Nat) (x : SliceSt) : (d.setSlc k x).slc k = x := by simp [Dev.slc, Dev.setSlc]
theorem Dev.slc_setSlc_ne (d : Dev) (k j : Nat) (x : SliceSt) (h : j ≠ k) : (d.setSlc k x).slc j = d.slc j := SMap.get_set_ne _ _ _ _ _ h
@[simp] theorem Dev.frame_setFrame (d : Dev) (k : Nat) (x : Frame) : (d.setFrame k x).frame k = some x := by simp [Dev.frame, Dev.setFrame]
theorem Dev.frame_setFrame_ne (d : Dev) (k j : Nat) (x : Frame) (h : j ≠ k) : (d.setFrame k x).frame j = d.frame j :=
  SMap.get_set_ne none _ k j (some x) h
@[simp] theorem Dev.cpy_setCpy (d : Dev) (k : Nat) (x : Copy) : (d.setCpy k x).cpy k = some x := by simp [Dev.cpy, Dev.setCpy]
theorem Dev.cpy_setCpy_ne (d : Dev) (k j : Nat) (x : Copy) (h : j ≠ k) : (d.setCpy k x).cpy j = d.cpy j :=
  SMap.get_set_ne none _ k j (some x) h

/-! ## Folds -/

/-- What every step of a counted loop keeps, the loop keeps. -/
theorem forN_keep (P : Dev → Prop) (n : Nat) (f : Nat → Dev → Dev) (hf : ∀ k d, P d → P (f k d)) (d : Dev) (h : P d) : P (forN n f d) := by
  unfold forN
  generalize List.range n = l
  induction l generalizing d with
  | nil => exact h
  | cons k l ih => exact ih _ (hf k d h)

theorem foldl_keep {α : Type} (P : Dev → Prop) (f : Dev → α → Dev) (hf : ∀ d a, P d → P (f d a)) (l : List α) (d : Dev) (h : P d) :
    P (l.foldl f d) := by
  induction l generalizing d with
  | nil => exact h
  | cons k l ih => exact ih _ (hf d k h)

/-! ## Events -/

@[simp] theorem Dev.bump_words (d : Dev) (r : RegInfo) (i b : Nat) : (d.bump r i b).regs.words = d.regs.words := rfl
@[simp] theorem Dev.bump_wides (d : Dev) (r : RegInfo) (i b : Nat) : (d.bump r i b).regs.wides = d.regs.wides := rfl

theorem Dev.bumpAll_words (d : Dev) (r : RegInfo) (i m : Nat) : (d.bumpAll r i m).regs.words = d.regs.words :=
  forN_keep (fun x => x.regs.words = d.regs.words) 32 _ (by intro k x hx; split <;> simp [hx]) d rfl

theorem Dev.bumpAll_wides (d : Dev) (r : RegInfo) (i m : Nat) : (d.bumpAll r i m).regs.wides = d.regs.wides :=
  forN_keep (fun x => x.regs.wides = d.regs.wides) 32 _ (by intro k x hx; split <;> simp [hx]) d rfl

/-- Queueing a FLAG record touches the queue of records alone. -/
theorem Dev.queueFlag_frame (d : Dev) (h off b v : Nat) (c : Bool) : ∃ q, d.queueFlag h off b v c = { d with ringQ := q } := by
  unfold Dev.queueFlag
  simp only
  split
  all_goals exact ⟨_, rfl⟩

theorem Dev.postFlag_regs (d : Dev) (r : RegInfo) (i b v : Nat) (c : Bool) : (d.postFlag r i b v c).regs = d.regs := by
  unfold Dev.postFlag
  simp only
  split
  · rfl
  · refine forN_keep (fun x => x.regs = d.regs) 4 _ ?_ d rfl
    intro k x hx
    have hq := fun off => Dev.queueFlag_frame x k off b v c
    repeat' split
    all_goals first | exact hx | (obtain ⟨q, hq⟩ := hq _; rw [hq]; exact hx)

/-- Raising event bits writes that one word of the bank, and no other word and no wide register. -/
theorem Dev.raise_words (d : Dev) (r : RegInfo) (i m : Nat) :
    (d.raise r i m).regs.words = (d.wr r i (d.rd r i ||| m)).regs.words := by
  unfold Dev.raise
  simp only
  split
  · rw [Dev.bumpAll_words]
  · rw [Dev.postFlag_regs, Dev.bumpAll_words]

theorem Dev.raise_wides (d : Dev) (r : RegInfo) (i m : Nat) : (d.raise r i m).regs.wides = d.regs.wides := by
  unfold Dev.raise
  simp only
  split
  · rw [Dev.bumpAll_wides]; rfl
  · rw [Dev.postFlag_regs, Dev.bumpAll_wides]; rfl

/-- After bits are raised the register reads its old value with those bits set. -/
theorem Dev.rd_raise_same (d : Dev) (r : RegInfo) (i m : Nat) (hm : m < 2 ^ 32) :
    (d.raise r i m).rd r i = d.rd r i ||| m := by
  have hr : d.rd r i < 2 ^ 32 := by unfold Dev.rd; exact BitVec.isLt _
  have h := Dev.rd_wr_same d r i (d.rd r i ||| m) (Nat.or_lt_two_pow hr hm)
  simp only [Dev.rd, Dev.raise_words] at h ⊢
  exact h

theorem Dev.rd_raise_ne (d : Dev) (r r' : RegInfo) (i i' m : Nat) (h : r'.key i' ≠ r.key i) :
    (d.raise r i m).rd r' i' = d.rd r' i' := by
  have := Dev.rd_wr_ne d r r' i i' (d.rd r i ||| m) h
  simp only [Dev.rd, Dev.raise_words] at this ⊢
  exact this

@[simp] theorem Dev.rd64_raise (d : Dev) (r r' : RegInfo) (i i' m : Nat) : (d.raise r i m).rd64 r' i' = d.rd64 r' i' := by
  simp only [Dev.rd64, Dev.raise_wides]

/-- Everything else that raising bits touches: companion counts and queued FLAG records. -/
theorem Dev.raise_frame (d : Dev) (r : RegInfo) (i m : Nat) :
    ∃ regs q, d.raise r i m = { d with regs := regs, ringQ := q } := by
  have key : ∀ x : Dev, (∃ regs q, x = { d with regs := regs, ringQ := q }) → ∀ a b c e (g : Bool),
      ∃ regs q, x.postFlag a b c e g = { d with regs := regs, ringQ := q } := by
    intro x hx a b c e g
    unfold Dev.postFlag
    simp only
    split
    · exact hx
    · refine forN_keep (fun y => ∃ regs q, y = { d with regs := regs, ringQ := q }) 4 _ ?_ x hx
      intro k y ⟨rg, q, hy⟩
      subst hy
      repeat' split
      all_goals first
        | exact ⟨rg, _, rfl⟩
        | (obtain ⟨q', hq⟩ := Dev.queueFlag_frame { d with regs := rg, ringQ := q } k _ c e g; exact ⟨rg, q', hq⟩)
  have hb : ∃ regs q, (d.wr r i (d.rd r i ||| m)).bumpAll r i m = { d with regs := regs, ringQ := q } := by
    refine forN_keep (fun y => ∃ regs q, y = { d with regs := regs, ringQ := q }) 32 _ ?_ _ ⟨_, _, rfl⟩
    intro k y ⟨rg, q, hy⟩
    split
    · subst hy; exact ⟨_, _, rfl⟩
    · exact ⟨rg, q, hy⟩
  unfold Dev.raise
  simp only
  split
  · exact hb
  · exact key _ hb _ _ _ _ _

/-! ## Counters -/

theorem Dev.rd64_inc_same (d : Dev) (r : RegInfo) (i n : Nat) (hv : d.rd64 r i + n < 2 ^ 64) :
    (d.inc r i n).rd64 r i = d.rd64 r i + n := by
  have := Dev.rd64_wr64_same d r i (d.rd64 r i + n) hv
  simpa [Dev.inc] using this

end Sys2Proof.Machine
end

