-- ==== Sys2Proof/Laws/State.lean ====
section
/-! SUPPORT. What each update of one part of the device leaves: every other part, field by field. -/
namespace Sys2Proof.Machine

/-! ## The queue -/

@[simp] theorem State.on_dev (s : State) (f : Dev → Dev) : (s.on f).dev = f s.dev := rfl
@[simp] theorem State.on_pending (s : State) (f : Dev → Dev) : (s.on f).pending = s.pending := rfl
@[simp] theorem State.on_id (s : State) : s.on (fun d => d) = s := rfl
@[simp] theorem State.on_on (s : State) (f g : Dev → Dev) : (s.on f).on g = s.on (fun d => g (f d)) := rfl

/-! ## `Dev.wr` changes `regs` -/

@[simp] theorem Dev.wr_now (d : Dev) (r : RegInfo) (i v : Nat) : (d.wr r i v).now = d.now := rfl
@[simp] theorem Dev.wr_freeCount (d : Dev) (r : RegInfo) (i v : Nat) : (d.wr r i v).freeCount = d.freeCount := rfl
@[simp] theorem Dev.wr_time (d : Dev) (r : RegInfo) (i v : Nat) : (d.wr r i v).time = d.time := rfl
@[simp] theorem Dev.wr_hosts (d : Dev) (r : RegInfo) (i v : Nat) : (d.wr r i v).hosts = d.hosts := rfl
@[simp] theorem Dev.wr_rings (d : Dev) (r : RegInfo) (i v : Nat) : (d.wr r i v).rings = d.rings := rfl
@[simp] theorem Dev.wr_ringQ (d : Dev) (r : RegInfo) (i v : Nat) : (d.wr r i v).ringQ = d.ringQ := rfl
@[simp] theorem Dev.wr_leases (d : Dev) (r : RegInfo) (i v : Nat) : (d.wr r i v).leases = d.leases := rfl
@[simp] theorem Dev.wr_bridge (d : Dev) (r : RegInfo) (i v : Nat) : (d.wr r i v).bridge = d.bridge := rfl
@[simp] theorem Dev.wr_fan (d : Dev) (r : RegInfo) (i v : Nat) : (d.wr r i v).fan = d.fan := rfl
@[simp] theorem Dev.wr_slices (d : Dev) (r : RegInfo) (i v : Nat) : (d.wr r i v).slices = d.slices := rfl
@[simp] theorem Dev.wr_loader (d : Dev) (r : RegInfo) (i v : Nat) : (d.wr r i v).loader = d.loader := rfl
@[simp] theorem Dev.wr_banks (d : Dev) (r : RegInfo) (i v : Nat) : (d.wr r i v).banks = d.banks := rfl
@[simp] theorem Dev.wr_epochs (d : Dev) (r : RegInfo) (i v : Nat) : (d.wr r i v).epochs = d.epochs := rfl
@[simp] theorem Dev.wr_vers (d : Dev) (r : RegInfo) (i v : Nat) : (d.wr r i v).vers = d.vers := rfl
@[simp] theorem Dev.wr_fuses (d : Dev) (r : RegInfo) (i v : Nat) : (d.wr r i v).fuses = d.fuses := rfl
@[simp] theorem Dev.wr_errs (d : Dev) (r : RegInfo) (i v : Nat) : (d.wr r i v).errs = d.errs := rfl
@[simp] theorem Dev.wr_stats (d : Dev) (r : RegInfo) (i v : Nat) : (d.wr r i v).stats = d.stats := rfl
@[simp] theorem Dev.wr_lports (d : Dev) (r : RegInfo) (i v : Nat) : (d.wr r i v).lports = d.lports := rfl
@[simp] theorem Dev.wr_pports (d : Dev) (r : RegInfo) (i v : Nat) : (d.wr r i v).pports = d.pports := rfl
@[simp] theorem Dev.wr_engines (d : Dev) (r : RegInfo) (i v : Nat) : (d.wr r i v).engines = d.engines := rfl
@[simp] theorem Dev.wr_frames (d : Dev) (r : RegInfo) (i v : Nat) : (d.wr r i v).frames = d.frames := rfl
@[simp] theorem Dev.wr_nextFid (d : Dev) (r : RegInfo) (i v : Nat) : (d.wr r i v).nextFid = d.nextFid := rfl
@[simp] theorem Dev.wr_arrivals (d : Dev) (r : RegInfo) (i v : Nat) : (d.wr r i v).arrivals = d.arrivals := rfl
@[simp] theorem Dev.wr_grants (d : Dev) (r : RegInfo) (i v : Nat) : (d.wr r i v).grants = d.grants := rfl
@[simp] theorem Dev.wr_copies (d : Dev) (r : RegInfo) (i v : Nat) : (d.wr r i v).copies = d.copies := rfl
@[simp] theorem Dev.wr_nextCid (d : Dev) (r : RegInfo) (i v : Nat) : (d.wr r i v).nextCid = d.nextCid := rfl
@[simp] theorem Dev.wr_pfcRx (d : Dev) (r : RegInfo) (i v : Nat) : (d.wr r i v).pfcRx = d.pfcRx := rfl
@[simp] theorem Dev.wr_hoppers (d : Dev) (r : RegInfo) (i v : Nat) : (d.wr r i v).hoppers = d.hoppers := rfl
@[simp] theorem Dev.wr_isas (d : Dev) (r : RegInfo) (i v : Nat) : (d.wr r i v).isas = d.isas := rfl
@[simp] theorem Dev.wr_tbl (d : Dev) (r : RegInfo) (i v : Nat) : (d.wr r i v).tbl = d.tbl := rfl
@[simp] theorem Dev.wr_amlQ (d : Dev) (r : RegInfo) (i v : Nat) : (d.wr r i v).amlQ = d.amlQ := rfl
@[simp] theorem Dev.wr_aml (d : Dev) (r : RegInfo) (i v : Nat) : (d.wr r i v).aml = d.aml := rfl
@[simp] theorem Dev.wr_cmdqs (d : Dev) (r : RegInfo) (i v : Nat) : (d.wr r i v).cmdqs = d.cmdqs := rfl
@[simp] theorem Dev.wr_stageFrames (d : Dev) (r : RegInfo) (i v : Nat) : (d.wr r i v).stageFrames = d.stageFrames := rfl
@[simp] theorem Dev.wr_stageBytes (d : Dev) (r : RegInfo) (i v : Nat) : (d.wr r i v).stageBytes = d.stageBytes := rfl
@[simp] theorem Dev.wr_stageRegs (d : Dev) (r : RegInfo) (i v : Nat) : (d.wr r i v).stageRegs = d.stageRegs := rfl
@[simp] theorem Dev.wr_lists (d : Dev) (r : RegInfo) (i v : Nat) : (d.wr r i v).lists = d.lists := rfl
@[simp] theorem Dev.wr_members (d : Dev) (r : RegInfo) (i v : Nat) : (d.wr r i v).members = d.members := rfl
@[simp] theorem Dev.wr_links (d : Dev) (r : RegInfo) (i v : Nat) : (d.wr r i v).links = d.links := rfl
@[simp] theorem Dev.wr_linkErrs (d : Dev) (r : RegInfo) (i v : Nat) : (d.wr r i v).linkErrs = d.linkErrs := rfl
@[simp] theorem Dev.wr_senders (d : Dev) (r : RegInfo) (i v : Nat) : (d.wr r i v).senders = d.senders := rfl
@[simp] theorem Dev.wr_rsqs (d : Dev) (r : RegInfo) (i v : Nat) : (d.wr r i v).rsqs = d.rsqs := rfl
@[simp] theorem Dev.wr_admitQ (d : Dev) (r : RegInfo) (i v : Nat) : (d.wr r i v).admitQ = d.admitQ := rfl
@[simp] theorem Dev.wr_buf (d : Dev) (r : RegInfo) (i v : Nat) : (d.wr r i v).buf = d.buf := rfl
@[simp] theorem Dev.wr_tm (d : Dev) (r : RegInfo) (i v : Nat) : (d.wr r i v).tm = d.tm := rfl
@[simp] theorem Dev.wr_hbm (d : Dev) (r : RegInfo) (i v : Nat) : (d.wr r i v).hbm = d.hbm := rfl
@[simp] theorem Dev.wr_spill (d : Dev) (r : RegInfo) (i v : Nat) : (d.wr r i v).spill = d.spill := rfl
@[simp] theorem Dev.wr_wire (d : Dev) (r : RegInfo) (i v : Nat) : (d.wr r i v).wire = d.wire := rfl
@[simp] theorem Dev.wr_ae (d : Dev) (r : RegInfo) (i v : Nat) : (d.wr r i v).ae = d.ae := rfl

/-! ## `Dev.wr64` changes `regs` -/

@[simp] theorem Dev.wr64_now (d : Dev) (r : RegInfo) (i v : Nat) : (d.wr64 r i v).now = d.now := rfl
@[simp] theorem Dev.wr64_freeCount (d : Dev) (r : RegInfo) (i v : Nat) : (d.wr64 r i v).freeCount = d.freeCount := rfl
@[simp] theorem Dev.wr64_time (d : Dev) (r : RegInfo) (i v : Nat) : (d.wr64 r i v).time = d.time := rfl
@[simp] theorem Dev.wr64_hosts (d : Dev) (r : RegInfo) (i v : Nat) : (d.wr64 r i v).hosts = d.hosts := rfl
@[simp] theorem Dev.wr64_rings (d : Dev) (r : RegInfo) (i v : Nat) : (d.wr64 r i v).rings = d.rings := rfl
@[simp] theorem Dev.wr64_ringQ (d : Dev) (r : RegInfo) (i v : Nat) : (d.wr64 r i v).ringQ = d.ringQ := rfl
@[simp] theorem Dev.wr64_leases (d : Dev) (r : RegInfo) (i v : Nat) : (d.wr64 r i v).leases = d.leases := rfl
@[simp] theorem Dev.wr64_bridge (d : Dev) (r : RegInfo) (i v : Nat) : (d.wr64 r i v).bridge = d.bridge := rfl
@[simp] theorem Dev.wr64_fan (d : Dev) (r : RegInfo) (i v : Nat) : (d.wr64 r i v).fan = d.fan := rfl
@[simp] theorem Dev.wr64_slices (d : Dev) (r : RegInfo) (i v : Nat) : (d.wr64 r i v).slices = d.slices := rfl
@[simp] theorem Dev.wr64_loader (d : Dev) (r : RegInfo) (i v : Nat) : (d.wr64 r i v).loader = d.loader := rfl
@[simp] theorem Dev.wr64_banks (d : Dev) (r : RegInfo) (i v : Nat) : (d.wr64 r i v).banks = d.banks := rfl
@[simp] theorem Dev.wr64_epochs (d : Dev) (r : RegInfo) (i v : Nat) : (d.wr64 r i v).epochs = d.epochs := rfl
@[simp] theorem Dev.wr64_vers (d : Dev) (r : RegInfo) (i v : Nat) : (d.wr64 r i v).vers = d.vers := rfl
@[simp] theorem Dev.wr64_fuses (d : Dev) (r : RegInfo) (i v : Nat) : (d.wr64 r i v).fuses = d.fuses := rfl
@[simp] theorem Dev.wr64_errs (d : Dev) (r : RegInfo) (i v : Nat) : (d.wr64 r i v).errs = d.errs := rfl
@[simp] theorem Dev.wr64_stats (d : Dev) (r : RegInfo) (i v : Nat) : (d.wr64 r i v).stats = d.stats := rfl
@[simp] theorem Dev.wr64_lports (d : Dev) (r : RegInfo) (i v : Nat) : (d.wr64 r i v).lports = d.lports := rfl
@[simp] theorem Dev.wr64_pports (d : Dev) (r : RegInfo) (i v : Nat) : (d.wr64 r i v).pports = d.pports := rfl
@[simp] theorem Dev.wr64_engines (d : Dev) (r : RegInfo) (i v : Nat) : (d.wr64 r i v).engines = d.engines := rfl
@[simp] theorem Dev.wr64_frames (d : Dev) (r : RegInfo) (i v : Nat) : (d.wr64 r i v).frames = d.frames := rfl
@[simp] theorem Dev.wr64_nextFid (d : Dev) (r : RegInfo) (i v : Nat) : (d.wr64 r i v).nextFid = d.nextFid := rfl
@[simp] theorem Dev.wr64_arrivals (d : Dev) (r : RegInfo) (i v : Nat) : (d.wr64 r i v).arrivals = d.arrivals := rfl
@[simp] theorem Dev.wr64_grants (d : Dev) (r : RegInfo) (i v : Nat) : (d.wr64 r i v).grants = d.grants := rfl
@[simp] theorem Dev.wr64_copies (d : Dev) (r : RegInfo) (i v : Nat) : (d.wr64 r i v).copies = d.copies := rfl
@[simp] theorem Dev.wr64_nextCid (d : Dev) (r : RegInfo) (i v : Nat) : (d.wr64 r i v).nextCid = d.nextCid := rfl
@[simp] theorem Dev.wr64_pfcRx (d : Dev) (r : RegInfo) (i v : Nat) : (d.wr64 r i v).pfcRx = d.pfcRx := rfl
@[simp] theorem Dev.wr64_hoppers (d : Dev) (r : RegInfo) (i v : Nat) : (d.wr64 r i v).hoppers = d.hoppers := rfl
@[simp] theorem Dev.wr64_isas (d : Dev) (r : RegInfo) (i v : Nat) : (d.wr64 r i v).isas = d.isas := rfl
@[simp] theorem Dev.wr64_tbl (d : Dev) (r : RegInfo) (i v : Nat) : (d.wr64 r i v).tbl = d.tbl := rfl
@[simp] theorem Dev.wr64_amlQ (d : Dev) (r : RegInfo) (i v : Nat) : (d.wr64 r i v).amlQ = d.amlQ := rfl
@[simp] theorem Dev.wr64_aml (d : Dev) (r : RegInfo) (i v : Nat) : (d.wr64 r i v).aml = d.aml := rfl
@[simp] theorem Dev.wr64_cmdqs (d : Dev) (r : RegInfo) (i v : Nat) : (d.wr64 r i v).cmdqs = d.cmdqs := rfl
@[simp] theorem Dev.wr64_stageFrames (d : Dev) (r : RegInfo) (i v : Nat) : (d.wr64 r i v).stageFrames = d.stageFrames := rfl
@[simp] theorem Dev.wr64_stageBytes (d : Dev) (r : RegInfo) (i v : Nat) : (d.wr64 r i v).stageBytes = d.stageBytes := rfl
@[simp] theorem Dev.wr64_stageRegs (d : Dev) (r : RegInfo) (i v : Nat) : (d.wr64 r i v).stageRegs = d.stageRegs := rfl
@[simp] theorem Dev.wr64_lists (d : Dev) (r : RegInfo) (i v : Nat) : (d.wr64 r i v).lists = d.lists := rfl
@[simp] theorem Dev.wr64_members (d : Dev) (r : RegInfo) (i v : Nat) : (d.wr64 r i v).members = d.members := rfl
@[simp] theorem Dev.wr64_links (d : Dev) (r : RegInfo) (i v : Nat) : (d.wr64 r i v).links = d.links := rfl
@[simp] theorem Dev.wr64_linkErrs (d : Dev) (r : RegInfo) (i v : Nat) : (d.wr64 r i v).linkErrs = d.linkErrs := rfl
@[simp] theorem Dev.wr64_senders (d : Dev) (r : RegInfo) (i v : Nat) : (d.wr64 r i v).senders = d.senders := rfl
@[simp] theorem Dev.wr64_rsqs (d : Dev) (r : RegInfo) (i v : Nat) : (d.wr64 r i v).rsqs = d.rsqs := rfl
@[simp] theorem Dev.wr64_admitQ (d : Dev) (r : RegInfo) (i v : Nat) : (d.wr64 r i v).admitQ = d.admitQ := rfl
@[simp] theorem Dev.wr64_buf (d : Dev) (r : RegInfo) (i v : Nat) : (d.wr64 r i v).buf = d.buf := rfl
@[simp] theorem Dev.wr64_tm (d : Dev) (r : RegInfo) (i v : Nat) : (d.wr64 r i v).tm = d.tm := rfl
@[simp] theorem Dev.wr64_hbm (d : Dev) (r : RegInfo) (i v : Nat) : (d.wr64 r i v).hbm = d.hbm := rfl
@[simp] theorem Dev.wr64_spill (d : Dev) (r : RegInfo) (i v : Nat) : (d.wr64 r i v).spill = d.spill := rfl
@[simp] theorem Dev.wr64_wire (d : Dev) (r : RegInfo) (i v : Nat) : (d.wr64 r i v).wire = d.wire := rfl
@[simp] theorem Dev.wr64_ae (d : Dev) (r : RegInfo) (i v : Nat) : (d.wr64 r i v).ae = d.ae := rfl

/-! ## `Dev.inc` changes `regs` -/

@[simp] theorem Dev.inc_now (d : Dev) (r : RegInfo) (i n : Nat) : (d.inc r i n).now = d.now := rfl
@[simp] theorem Dev.inc_freeCount (d : Dev) (r : RegInfo) (i n : Nat) : (d.inc r i n).freeCount = d.freeCount := rfl
@[simp] theorem Dev.inc_time (d : Dev) (r : RegInfo) (i n : Nat) : (d.inc r i n).time = d.time := rfl
@[simp] theorem Dev.inc_hosts (d : Dev) (r : RegInfo) (i n : Nat) : (d.inc r i n).hosts = d.hosts := rfl
@[simp] theorem Dev.inc_rings (d : Dev) (r : RegInfo) (i n : Nat) : (d.inc r i n).rings = d.rings := rfl
@[simp] theorem Dev.inc_ringQ (d : Dev) (r : RegInfo) (i n : Nat) : (d.inc r i n).ringQ = d.ringQ := rfl
@[simp] theorem Dev.inc_leases (d : Dev) (r : RegInfo) (i n : Nat) : (d.inc r i n).leases = d.leases := rfl
@[simp] theorem Dev.inc_bridge (d : Dev) (r : RegInfo) (i n : Nat) : (d.inc r i n).bridge = d.bridge := rfl
@[simp] theorem Dev.inc_fan (d : Dev) (r : RegInfo) (i n : Nat) : (d.inc r i n).fan = d.fan := rfl
@[simp] theorem Dev.inc_slices (d : Dev) (r : RegInfo) (i n : Nat) : (d.inc r i n).slices = d.slices := rfl
@[simp] theorem Dev.inc_loader (d : Dev) (r : RegInfo) (i n : Nat) : (d.inc r i n).loader = d.loader := rfl
@[simp] theorem Dev.inc_banks (d : Dev) (r : RegInfo) (i n : Nat) : (d.inc r i n).banks = d.banks := rfl
@[simp] theorem Dev.inc_epochs (d : Dev) (r : RegInfo) (i n : Nat) : (d.inc r i n).epochs = d.epochs := rfl
@[simp] theorem Dev.inc_vers (d : Dev) (r : RegInfo) (i n : Nat) : (d.inc r i n).vers = d.vers := rfl
@[simp] theorem Dev.inc_fuses (d : Dev) (r : RegInfo) (i n : Nat) : (d.inc r i n).fuses = d.fuses := rfl
@[simp] theorem Dev.inc_errs (d : Dev) (r : RegInfo) (i n : Nat) : (d.inc r i n).errs = d.errs := rfl
@[simp] theorem Dev.inc_stats (d : Dev) (r : RegInfo) (i n : Nat) : (d.inc r i n).stats = d.stats := rfl
@[simp] theorem Dev.inc_lports (d : Dev) (r : RegInfo) (i n : Nat) : (d.inc r i n).lports = d.lports := rfl
@[simp] theorem Dev.inc_pports (d : Dev) (r : RegInfo) (i n : Nat) : (d.inc r i n).pports = d.pports := rfl
@[simp] theorem Dev.inc_engines (d : Dev) (r : RegInfo) (i n : Nat) : (d.inc r i n).engines = d.engines := rfl
@[simp] theorem Dev.inc_frames (d : Dev) (r : RegInfo) (i n : Nat) : (d.inc r i n).frames = d.frames := rfl
@[simp] theorem Dev.inc_nextFid (d : Dev) (r : RegInfo) (i n : Nat) : (d.inc r i n).nextFid = d.nextFid := rfl
@[simp] theorem Dev.inc_arrivals (d : Dev) (r : RegInfo) (i n : Nat) : (d.inc r i n).arrivals = d.arrivals := rfl
@[simp] theorem Dev.inc_grants (d : Dev) (r : RegInfo) (i n : Nat) : (d.inc r i n).grants = d.grants := rfl
@[simp] theorem Dev.inc_copies (d : Dev) (r : RegInfo) (i n : Nat) : (d.inc r i n).copies = d.copies := rfl
@[simp] theorem Dev.inc_nextCid (d : Dev) (r : RegInfo) (i n : Nat) : (d.inc r i n).nextCid = d.nextCid := rfl
@[simp] theorem Dev.inc_pfcRx (d : Dev) (r : RegInfo) (i n : Nat) : (d.inc r i n).pfcRx = d.pfcRx := rfl
@[simp] theorem Dev.inc_hoppers (d : Dev) (r : RegInfo) (i n : Nat) : (d.inc r i n).hoppers = d.hoppers := rfl
@[simp] theorem Dev.inc_isas (d : Dev) (r : RegInfo) (i n : Nat) : (d.inc r i n).isas = d.isas := rfl
@[simp] theorem Dev.inc_tbl (d : Dev) (r : RegInfo) (i n : Nat) : (d.inc r i n).tbl = d.tbl := rfl
@[simp] theorem Dev.inc_amlQ (d : Dev) (r : RegInfo) (i n : Nat) : (d.inc r i n).amlQ = d.amlQ := rfl
@[simp] theorem Dev.inc_aml (d : Dev) (r : RegInfo) (i n : Nat) : (d.inc r i n).aml = d.aml := rfl
@[simp] theorem Dev.inc_cmdqs (d : Dev) (r : RegInfo) (i n : Nat) : (d.inc r i n).cmdqs = d.cmdqs := rfl
@[simp] theorem Dev.inc_stageFrames (d : Dev) (r : RegInfo) (i n : Nat) : (d.inc r i n).stageFrames = d.stageFrames := rfl
@[simp] theorem Dev.inc_stageBytes (d : Dev) (r : RegInfo) (i n : Nat) : (d.inc r i n).stageBytes = d.stageBytes := rfl
@[simp] theorem Dev.inc_stageRegs (d : Dev) (r : RegInfo) (i n : Nat) : (d.inc r i n).stageRegs = d.stageRegs := rfl
@[simp] theorem Dev.inc_lists (d : Dev) (r : RegInfo) (i n : Nat) : (d.inc r i n).lists = d.lists := rfl
@[simp] theorem Dev.inc_members (d : Dev) (r : RegInfo) (i n : Nat) : (d.inc r i n).members = d.members := rfl
@[simp] theorem Dev.inc_links (d : Dev) (r : RegInfo) (i n : Nat) : (d.inc r i n).links = d.links := rfl
@[simp] theorem Dev.inc_linkErrs (d : Dev) (r : RegInfo) (i n : Nat) : (d.inc r i n).linkErrs = d.linkErrs := rfl
@[simp] theorem Dev.inc_senders (d : Dev) (r : RegInfo) (i n : Nat) : (d.inc r i n).senders = d.senders := rfl
@[simp] theorem Dev.inc_rsqs (d : Dev) (r : RegInfo) (i n : Nat) : (d.inc r i n).rsqs = d.rsqs := rfl
@[simp] theorem Dev.inc_admitQ (d : Dev) (r : RegInfo) (i n : Nat) : (d.inc r i n).admitQ = d.admitQ := rfl
@[simp] theorem Dev.inc_buf (d : Dev) (r : RegInfo) (i n : Nat) : (d.inc r i n).buf = d.buf := rfl
@[simp] theorem Dev.inc_tm (d : Dev) (r : RegInfo) (i n : Nat) : (d.inc r i n).tm = d.tm := rfl
@[simp] theorem Dev.inc_hbm (d : Dev) (r : RegInfo) (i n : Nat) : (d.inc r i n).hbm = d.hbm := rfl
@[simp] theorem Dev.inc_spill (d : Dev) (r : RegInfo) (i n : Nat) : (d.inc r i n).spill = d.spill := rfl
@[simp] theorem Dev.inc_wire (d : Dev) (r : RegInfo) (i n : Nat) : (d.inc r i n).wire = d.wire := rfl
@[simp] theorem Dev.inc_ae (d : Dev) (r : RegInfo) (i n : Nat) : (d.inc r i n).ae = d.ae := rfl

/-! ## `Dev.setFld` changes `regs` -/

@[simp] theorem Dev.setFld_now (d : Dev) (r : RegInfo) (i lo w v : Nat) : (d.setFld r i lo w v).now = d.now := rfl
@[simp] theorem Dev.setFld_freeCount (d : Dev) (r : RegInfo) (i lo w v : Nat) : (d.setFld r i lo w v).freeCount = d.freeCount := rfl
@[simp] theorem Dev.setFld_time (d : Dev) (r : RegInfo) (i lo w v : Nat) : (d.setFld r i lo w v).time = d.time := rfl
@[simp] theorem Dev.setFld_hosts (d : Dev) (r : RegInfo) (i lo w v : Nat) : (d.setFld r i lo w v).hosts = d.hosts := rfl
@[simp] theorem Dev.setFld_rings (d : Dev) (r : RegInfo) (i lo w v : Nat) : (d.setFld r i lo w v).rings = d.rings := rfl
@[simp] theorem Dev.setFld_ringQ (d : Dev) (r : RegInfo) (i lo w v : Nat) : (d.setFld r i lo w v).ringQ = d.ringQ := rfl
@[simp] theorem Dev.setFld_leases (d : Dev) (r : RegInfo) (i lo w v : Nat) : (d.setFld r i lo w v).leases = d.leases := rfl
@[simp] theorem Dev.setFld_bridge (d : Dev) (r : RegInfo) (i lo w v : Nat) : (d.setFld r i lo w v).bridge = d.bridge := rfl
@[simp] theorem Dev.setFld_fan (d : Dev) (r : RegInfo) (i lo w v : Nat) : (d.setFld r i lo w v).fan = d.fan := rfl
@[simp] theorem Dev.setFld_slices (d : Dev) (r : RegInfo) (i lo w v : Nat) : (d.setFld r i lo w v).slices = d.slices := rfl
@[simp] theorem Dev.setFld_loader (d : Dev) (r : RegInfo) (i lo w v : Nat) : (d.setFld r i lo w v).loader = d.loader := rfl
@[simp] theorem Dev.setFld_banks (d : Dev) (r : RegInfo) (i lo w v : Nat) : (d.setFld r i lo w v).banks = d.banks := rfl
@[simp] theorem Dev.setFld_epochs (d : Dev) (r : RegInfo) (i lo w v : Nat) : (d.setFld r i lo w v).epochs = d.epochs := rfl
@[simp] theorem Dev.setFld_vers (d : Dev) (r : RegInfo) (i lo w v : Nat) : (d.setFld r i lo w v).vers = d.vers := rfl
@[simp] theorem Dev.setFld_fuses (d : Dev) (r : RegInfo) (i lo w v : Nat) : (d.setFld r i lo w v).fuses = d.fuses := rfl
@[simp] theorem Dev.setFld_errs (d : Dev) (r : RegInfo) (i lo w v : Nat) : (d.setFld r i lo w v).errs = d.errs := rfl
@[simp] theorem Dev.setFld_stats (d : Dev) (r : RegInfo) (i lo w v : Nat) : (d.setFld r i lo w v).stats = d.stats := rfl
@[simp] theorem Dev.setFld_lports (d : Dev) (r : RegInfo) (i lo w v : Nat) : (d.setFld r i lo w v).lports = d.lports := rfl
@[simp] theorem Dev.setFld_pports (d : Dev) (r : RegInfo) (i lo w v : Nat) : (d.setFld r i lo w v).pports = d.pports := rfl
@[simp] theorem Dev.setFld_engines (d : Dev) (r : RegInfo) (i lo w v : Nat) : (d.setFld r i lo w v).engines = d.engines := rfl
@[simp] theorem Dev.setFld_frames (d : Dev) (r : RegInfo) (i lo w v : Nat) : (d.setFld r i lo w v).frames = d.frames := rfl
@[simp] theorem Dev.setFld_nextFid (d : Dev) (r : RegInfo) (i lo w v : Nat) : (d.setFld r i lo w v).nextFid = d.nextFid := rfl
@[simp] theorem Dev.setFld_arrivals (d : Dev) (r : RegInfo) (i lo w v : Nat) : (d.setFld r i lo w v).arrivals = d.arrivals := rfl
@[simp] theorem Dev.setFld_grants (d : Dev) (r : RegInfo) (i lo w v : Nat) : (d.setFld r i lo w v).grants = d.grants := rfl
@[simp] theorem Dev.setFld_copies (d : Dev) (r : RegInfo) (i lo w v : Nat) : (d.setFld r i lo w v).copies = d.copies := rfl
@[simp] theorem Dev.setFld_nextCid (d : Dev) (r : RegInfo) (i lo w v : Nat) : (d.setFld r i lo w v).nextCid = d.nextCid := rfl
@[simp] theorem Dev.setFld_pfcRx (d : Dev) (r : RegInfo) (i lo w v : Nat) : (d.setFld r i lo w v).pfcRx = d.pfcRx := rfl
@[simp] theorem Dev.setFld_hoppers (d : Dev) (r : RegInfo) (i lo w v : Nat) : (d.setFld r i lo w v).hoppers = d.hoppers := rfl
@[simp] theorem Dev.setFld_isas (d : Dev) (r : RegInfo) (i lo w v : Nat) : (d.setFld r i lo w v).isas = d.isas := rfl
@[simp] theorem Dev.setFld_tbl (d : Dev) (r : RegInfo) (i lo w v : Nat) : (d.setFld r i lo w v).tbl = d.tbl := rfl
@[simp] theorem Dev.setFld_amlQ (d : Dev) (r : RegInfo) (i lo w v : Nat) : (d.setFld r i lo w v).amlQ = d.amlQ := rfl
@[simp] theorem Dev.setFld_aml (d : Dev) (r : RegInfo) (i lo w v : Nat) : (d.setFld r i lo w v).aml = d.aml := rfl
@[simp] theorem Dev.setFld_cmdqs (d : Dev) (r : RegInfo) (i lo w v : Nat) : (d.setFld r i lo w v).cmdqs = d.cmdqs := rfl
@[simp] theorem Dev.setFld_stageFrames (d : Dev) (r : RegInfo) (i lo w v : Nat) : (d.setFld r i lo w v).stageFrames = d.stageFrames := rfl
@[simp] theorem Dev.setFld_stageBytes (d : Dev) (r : RegInfo) (i lo w v : Nat) : (d.setFld r i lo w v).stageBytes = d.stageBytes := rfl
@[simp] theorem Dev.setFld_stageRegs (d : Dev) (r : RegInfo) (i lo w v : Nat) : (d.setFld r i lo w v).stageRegs = d.stageRegs := rfl
@[simp] theorem Dev.setFld_lists (d : Dev) (r : RegInfo) (i lo w v : Nat) : (d.setFld r i lo w v).lists = d.lists := rfl
@[simp] theorem Dev.setFld_members (d : Dev) (r : RegInfo) (i lo w v : Nat) : (d.setFld r i lo w v).members = d.members := rfl
@[simp] theorem Dev.setFld_links (d : Dev) (r : RegInfo) (i lo w v : Nat) : (d.setFld r i lo w v).links = d.links := rfl
@[simp] theorem Dev.setFld_linkErrs (d : Dev) (r : RegInfo) (i lo w v : Nat) : (d.setFld r i lo w v).linkErrs = d.linkErrs := rfl
@[simp] theorem Dev.setFld_senders (d : Dev) (r : RegInfo) (i lo w v : Nat) : (d.setFld r i lo w v).senders = d.senders := rfl
@[simp] theorem Dev.setFld_rsqs (d : Dev) (r : RegInfo) (i lo w v : Nat) : (d.setFld r i lo w v).rsqs = d.rsqs := rfl
@[simp] theorem Dev.setFld_admitQ (d : Dev) (r : RegInfo) (i lo w v : Nat) : (d.setFld r i lo w v).admitQ = d.admitQ := rfl
@[simp] theorem Dev.setFld_buf (d : Dev) (r : RegInfo) (i lo w v : Nat) : (d.setFld r i lo w v).buf = d.buf := rfl
@[simp] theorem Dev.setFld_tm (d : Dev) (r : RegInfo) (i lo w v : Nat) : (d.setFld r i lo w v).tm = d.tm := rfl
@[simp] theorem Dev.setFld_hbm (d : Dev) (r : RegInfo) (i lo w v : Nat) : (d.setFld r i lo w v).hbm = d.hbm := rfl
@[simp] theorem Dev.setFld_spill (d : Dev) (r : RegInfo) (i lo w v : Nat) : (d.setFld r i lo w v).spill = d.spill := rfl
@[simp] theorem Dev.setFld_wire (d : Dev) (r : RegInfo) (i lo w v : Nat) : (d.setFld r i lo w v).wire = d.wire := rfl
@[simp] theorem Dev.setFld_ae (d : Dev) (r : RegInfo) (i lo w v : Nat) : (d.setFld r i lo w v).ae = d.ae := rfl

/-! ## `Dev.post` changes `ringQ` -/

@[simp] theorem Dev.post_now (d : Dev) (h ring typ aux : Nat) (payload : List Byte) : (d.post h ring typ aux payload).now = d.now := rfl
@[simp] theorem Dev.post_freeCount (d : Dev) (h ring typ aux : Nat) (payload : List Byte) : (d.post h ring typ aux payload).freeCount = d.freeCount := rfl
@[simp] theorem Dev.post_regs (d : Dev) (h ring typ aux : Nat) (payload : List Byte) : (d.post h ring typ aux payload).regs = d.regs := rfl
@[simp] theorem Dev.post_time (d : Dev) (h ring typ aux : Nat) (payload : List Byte) : (d.post h ring typ aux payload).time = d.time := rfl
@[simp] theorem Dev.post_hosts (d : Dev) (h ring typ aux : Nat) (payload : List Byte) : (d.post h ring typ aux payload).hosts = d.hosts := rfl
@[simp] theorem Dev.post_rings (d : Dev) (h ring typ aux : Nat) (payload : List Byte) : (d.post h ring typ aux payload).rings = d.rings := rfl
@[simp] theorem Dev.post_leases (d : Dev) (h ring typ aux : Nat) (payload : List Byte) : (d.post h ring typ aux payload).leases = d.leases := rfl
@[simp] theorem Dev.post_bridge (d : Dev) (h ring typ aux : Nat) (payload : List Byte) : (d.post h ring typ aux payload).bridge = d.bridge := rfl
@[simp] theorem Dev.post_fan (d : Dev) (h ring typ aux : Nat) (payload : List Byte) : (d.post h ring typ aux payload).fan = d.fan := rfl
@[simp] theorem Dev.post_slices (d : Dev) (h ring typ aux : Nat) (payload : List Byte) : (d.post h ring typ aux payload).slices = d.slices := rfl
@[simp] theorem Dev.post_loader (d : Dev) (h ring typ aux : Nat) (payload : List Byte) : (d.post h ring typ aux payload).loader = d.loader := rfl
@[simp] theorem Dev.post_banks (d : Dev) (h ring typ aux : Nat) (payload : List Byte) : (d.post h ring typ aux payload).banks = d.banks := rfl
@[simp] theorem Dev.post_epochs (d : Dev) (h ring typ aux : Nat) (payload : List Byte) : (d.post h ring typ aux payload).epochs = d.epochs := rfl
@[simp] theorem Dev.post_vers (d : Dev) (h ring typ aux : Nat) (payload : List Byte) : (d.post h ring typ aux payload).vers = d.vers := rfl
@[simp] theorem Dev.post_fuses (d : Dev) (h ring typ aux : Nat) (payload : List Byte) : (d.post h ring typ aux payload).fuses = d.fuses := rfl
@[simp] theorem Dev.post_errs (d : Dev) (h ring typ aux : Nat) (payload : List Byte) : (d.post h ring typ aux payload).errs = d.errs := rfl
@[simp] theorem Dev.post_stats (d : Dev) (h ring typ aux : Nat) (payload : List Byte) : (d.post h ring typ aux payload).stats = d.stats := rfl
@[simp] theorem Dev.post_lports (d : Dev) (h ring typ aux : Nat) (payload : List Byte) : (d.post h ring typ aux payload).lports = d.lports := rfl
@[simp] theorem Dev.post_pports (d : Dev) (h ring typ aux : Nat) (payload : List Byte) : (d.post h ring typ aux payload).pports = d.pports := rfl
@[simp] theorem Dev.post_engines (d : Dev) (h ring typ aux : Nat) (payload : List Byte) : (d.post h ring typ aux payload).engines = d.engines := rfl
@[simp] theorem Dev.post_frames (d : Dev) (h ring typ aux : Nat) (payload : List Byte) : (d.post h ring typ aux payload).frames = d.frames := rfl
@[simp] theorem Dev.post_nextFid (d : Dev) (h ring typ aux : Nat) (payload : List Byte) : (d.post h ring typ aux payload).nextFid = d.nextFid := rfl
@[simp] theorem Dev.post_arrivals (d : Dev) (h ring typ aux : Nat) (payload : List Byte) : (d.post h ring typ aux payload).arrivals = d.arrivals := rfl
@[simp] theorem Dev.post_grants (d : Dev) (h ring typ aux : Nat) (payload : List Byte) : (d.post h ring typ aux payload).grants = d.grants := rfl
@[simp] theorem Dev.post_copies (d : Dev) (h ring typ aux : Nat) (payload : List Byte) : (d.post h ring typ aux payload).copies = d.copies := rfl
@[simp] theorem Dev.post_nextCid (d : Dev) (h ring typ aux : Nat) (payload : List Byte) : (d.post h ring typ aux payload).nextCid = d.nextCid := rfl
@[simp] theorem Dev.post_pfcRx (d : Dev) (h ring typ aux : Nat) (payload : List Byte) : (d.post h ring typ aux payload).pfcRx = d.pfcRx := rfl
@[simp] theorem Dev.post_hoppers (d : Dev) (h ring typ aux : Nat) (payload : List Byte) : (d.post h ring typ aux payload).hoppers = d.hoppers := rfl
@[simp] theorem Dev.post_isas (d : Dev) (h ring typ aux : Nat) (payload : List Byte) : (d.post h ring typ aux payload).isas = d.isas := rfl
@[simp] theorem Dev.post_tbl (d : Dev) (h ring typ aux : Nat) (payload : List Byte) : (d.post h ring typ aux payload).tbl = d.tbl := rfl
@[simp] theorem Dev.post_amlQ (d : Dev) (h ring typ aux : Nat) (payload : List Byte) : (d.post h ring typ aux payload).amlQ = d.amlQ := rfl
@[simp] theorem Dev.post_aml (d : Dev) (h ring typ aux : Nat) (payload : List Byte) : (d.post h ring typ aux payload).aml = d.aml := rfl
@[simp] theorem Dev.post_cmdqs (d : Dev) (h ring typ aux : Nat) (payload : List Byte) : (d.post h ring typ aux payload).cmdqs = d.cmdqs := rfl
@[simp] theorem Dev.post_stageFrames (d : Dev) (h ring typ aux : Nat) (payload : List Byte) : (d.post h ring typ aux payload).stageFrames = d.stageFrames := rfl
@[simp] theorem Dev.post_stageBytes (d : Dev) (h ring typ aux : Nat) (payload : List Byte) : (d.post h ring typ aux payload).stageBytes = d.stageBytes := rfl
@[simp] theorem Dev.post_stageRegs (d : Dev) (h ring typ aux : Nat) (payload : List Byte) : (d.post h ring typ aux payload).stageRegs = d.stageRegs := rfl
@[simp] theorem Dev.post_lists (d : Dev) (h ring typ aux : Nat) (payload : List Byte) : (d.post h ring typ aux payload).lists = d.lists := rfl
@[simp] theorem Dev.post_members (d : Dev) (h ring typ aux : Nat) (payload : List Byte) : (d.post h ring typ aux payload).members = d.members := rfl
@[simp] theorem Dev.post_links (d : Dev) (h ring typ aux : Nat) (payload : List Byte) : (d.post h ring typ aux payload).links = d.links := rfl
@[simp] theorem Dev.post_linkErrs (d : Dev) (h ring typ aux : Nat) (payload : List Byte) : (d.post h ring typ aux payload).linkErrs = d.linkErrs := rfl
@[simp] theorem Dev.post_senders (d : Dev) (h ring typ aux : Nat) (payload : List Byte) : (d.post h ring typ aux payload).senders = d.senders := rfl
@[simp] theorem Dev.post_rsqs (d : Dev) (h ring typ aux : Nat) (payload : List Byte) : (d.post h ring typ aux payload).rsqs = d.rsqs := rfl
@[simp] theorem Dev.post_admitQ (d : Dev) (h ring typ aux : Nat) (payload : List Byte) : (d.post h ring typ aux payload).admitQ = d.admitQ := rfl
@[simp] theorem Dev.post_buf (d : Dev) (h ring typ aux : Nat) (payload : List Byte) : (d.post h ring typ aux payload).buf = d.buf := rfl
@[simp] theorem Dev.post_tm (d : Dev) (h ring typ aux : Nat) (payload : List Byte) : (d.post h ring typ aux payload).tm = d.tm := rfl
@[simp] theorem Dev.post_hbm (d : Dev) (h ring typ aux : Nat) (payload : List Byte) : (d.post h ring typ aux payload).hbm = d.hbm := rfl
@[simp] theorem Dev.post_spill (d : Dev) (h ring typ aux : Nat) (payload : List Byte) : (d.post h ring typ aux payload).spill = d.spill := rfl
@[simp] theorem Dev.post_wire (d : Dev) (h ring typ aux : Nat) (payload : List Byte) : (d.post h ring typ aux payload).wire = d.wire := rfl
@[simp] theorem Dev.post_ae (d : Dev) (h ring typ aux : Nat) (payload : List Byte) : (d.post h ring typ aux payload).ae = d.ae := rfl

/-! ## `Dev.bump` changes `regs` -/

@[simp] theorem Dev.bump_now (d : Dev) (r : RegInfo) (i bit : Nat) : (d.bump r i bit).now = d.now := rfl
@[simp] theorem Dev.bump_freeCount (d : Dev) (r : RegInfo) (i bit : Nat) : (d.bump r i bit).freeCount = d.freeCount := rfl
@[simp] theorem Dev.bump_time (d : Dev) (r : RegInfo) (i bit : Nat) : (d.bump r i bit).time = d.time := rfl
@[simp] theorem Dev.bump_hosts (d : Dev) (r : RegInfo) (i bit : Nat) : (d.bump r i bit).hosts = d.hosts := rfl
@[simp] theorem Dev.bump_rings (d : Dev) (r : RegInfo) (i bit : Nat) : (d.bump r i bit).rings = d.rings := rfl
@[simp] theorem Dev.bump_ringQ (d : Dev) (r : RegInfo) (i bit : Nat) : (d.bump r i bit).ringQ = d.ringQ := rfl
@[simp] theorem Dev.bump_leases (d : Dev) (r : RegInfo) (i bit : Nat) : (d.bump r i bit).leases = d.leases := rfl
@[simp] theorem Dev.bump_bridge (d : Dev) (r : RegInfo) (i bit : Nat) : (d.bump r i bit).bridge = d.bridge := rfl
@[simp] theorem Dev.bump_fan (d : Dev) (r : RegInfo) (i bit : Nat) : (d.bump r i bit).fan = d.fan := rfl
@[simp] theorem Dev.bump_slices (d : Dev) (r : RegInfo) (i bit : Nat) : (d.bump r i bit).slices = d.slices := rfl
@[simp] theorem Dev.bump_loader (d : Dev) (r : RegInfo) (i bit : Nat) : (d.bump r i bit).loader = d.loader := rfl
@[simp] theorem Dev.bump_banks (d : Dev) (r : RegInfo) (i bit : Nat) : (d.bump r i bit).banks = d.banks := rfl
@[simp] theorem Dev.bump_epochs (d : Dev) (r : RegInfo) (i bit : Nat) : (d.bump r i bit).epochs = d.epochs := rfl
@[simp] theorem Dev.bump_vers (d : Dev) (r : RegInfo) (i bit : Nat) : (d.bump r i bit).vers = d.vers := rfl
@[simp] theorem Dev.bump_fuses (d : Dev) (r : RegInfo) (i bit : Nat) : (d.bump r i bit).fuses = d.fuses := rfl
@[simp] theorem Dev.bump_errs (d : Dev) (r : RegInfo) (i bit : Nat) : (d.bump r i bit).errs = d.errs := rfl
@[simp] theorem Dev.bump_stats (d : Dev) (r : RegInfo) (i bit : Nat) : (d.bump r i bit).stats = d.stats := rfl
@[simp] theorem Dev.bump_lports (d : Dev) (r : RegInfo) (i bit : Nat) : (d.bump r i bit).lports = d.lports := rfl
@[simp] theorem Dev.bump_pports (d : Dev) (r : RegInfo) (i bit : Nat) : (d.bump r i bit).pports = d.pports := rfl
@[simp] theorem Dev.bump_engines (d : Dev) (r : RegInfo) (i bit : Nat) : (d.bump r i bit).engines = d.engines := rfl
@[simp] theorem Dev.bump_frames (d : Dev) (r : RegInfo) (i bit : Nat) : (d.bump r i bit).frames = d.frames := rfl
@[simp] theorem Dev.bump_nextFid (d : Dev) (r : RegInfo) (i bit : Nat) : (d.bump r i bit).nextFid = d.nextFid := rfl
@[simp] theorem Dev.bump_arrivals (d : Dev) (r : RegInfo) (i bit : Nat) : (d.bump r i bit).arrivals = d.arrivals := rfl
@[simp] theorem Dev.bump_grants (d : Dev) (r : RegInfo) (i bit : Nat) : (d.bump r i bit).grants = d.grants := rfl
@[simp] theorem Dev.bump_copies (d : Dev) (r : RegInfo) (i bit : Nat) : (d.bump r i bit).copies = d.copies := rfl
@[simp] theorem Dev.bump_nextCid (d : Dev) (r : RegInfo) (i bit : Nat) : (d.bump r i bit).nextCid = d.nextCid := rfl
@[simp] theorem Dev.bump_pfcRx (d : Dev) (r : RegInfo) (i bit : Nat) : (d.bump r i bit).pfcRx = d.pfcRx := rfl
@[simp] theorem Dev.bump_hoppers (d : Dev) (r : RegInfo) (i bit : Nat) : (d.bump r i bit).hoppers = d.hoppers := rfl
@[simp] theorem Dev.bump_isas (d : Dev) (r : RegInfo) (i bit : Nat) : (d.bump r i bit).isas = d.isas := rfl
@[simp] theorem Dev.bump_tbl (d : Dev) (r : RegInfo) (i bit : Nat) : (d.bump r i bit).tbl = d.tbl := rfl
@[simp] theorem Dev.bump_amlQ (d : Dev) (r : RegInfo) (i bit : Nat) : (d.bump r i bit).amlQ = d.amlQ := rfl
@[simp] theorem Dev.bump_aml (d : Dev) (r : RegInfo) (i bit : Nat) : (d.bump r i bit).aml = d.aml := rfl
@[simp] theorem Dev.bump_cmdqs (d : Dev) (r : RegInfo) (i bit : Nat) : (d.bump r i bit).cmdqs = d.cmdqs := rfl
@[simp] theorem Dev.bump_stageFrames (d : Dev) (r : RegInfo) (i bit : Nat) : (d.bump r i bit).stageFrames = d.stageFrames := rfl
@[simp] theorem Dev.bump_stageBytes (d : Dev) (r : RegInfo) (i bit : Nat) : (d.bump r i bit).stageBytes = d.stageBytes := rfl
@[simp] theorem Dev.bump_stageRegs (d : Dev) (r : RegInfo) (i bit : Nat) : (d.bump r i bit).stageRegs = d.stageRegs := rfl
@[simp] theorem Dev.bump_lists (d : Dev) (r : RegInfo) (i bit : Nat) : (d.bump r i bit).lists = d.lists := rfl
@[simp] theorem Dev.bump_members (d : Dev) (r : RegInfo) (i bit : Nat) : (d.bump r i bit).members = d.members := rfl
@[simp] theorem Dev.bump_links (d : Dev) (r : RegInfo) (i bit : Nat) : (d.bump r i bit).links = d.links := rfl
@[simp] theorem Dev.bump_linkErrs (d : Dev) (r : RegInfo) (i bit : Nat) : (d.bump r i bit).linkErrs = d.linkErrs := rfl
@[simp] theorem Dev.bump_senders (d : Dev) (r : RegInfo) (i bit : Nat) : (d.bump r i bit).senders = d.senders := rfl
@[simp] theorem Dev.bump_rsqs (d : Dev) (r : RegInfo) (i bit : Nat) : (d.bump r i bit).rsqs = d.rsqs := rfl
@[simp] theorem Dev.bump_admitQ (d : Dev) (r : RegInfo) (i bit : Nat) : (d.bump r i bit).admitQ = d.admitQ := rfl
@[simp] theorem Dev.bump_buf (d : Dev) (r : RegInfo) (i bit : Nat) : (d.bump r i bit).buf = d.buf := rfl
@[simp] theorem Dev.bump_tm (d : Dev) (r : RegInfo) (i bit : Nat) : (d.bump r i bit).tm = d.tm := rfl
@[simp] theorem Dev.bump_hbm (d : Dev) (r : RegInfo) (i bit : Nat) : (d.bump r i bit).hbm = d.hbm := rfl
@[simp] theorem Dev.bump_spill (d : Dev) (r : RegInfo) (i bit : Nat) : (d.bump r i bit).spill = d.spill := rfl
@[simp] theorem Dev.bump_wire (d : Dev) (r : RegInfo) (i bit : Nat) : (d.bump r i bit).wire = d.wire := rfl
@[simp] theorem Dev.bump_ae (d : Dev) (r : RegInfo) (i bit : Nat) : (d.bump r i bit).ae = d.ae := rfl

/-! ## `Dev.ld` changes `loader` -/

@[simp] theorem Dev.ld_now (d : Dev) (f : Loader → Loader) : (d.ld f).now = d.now := rfl
@[simp] theorem Dev.ld_freeCount (d : Dev) (f : Loader → Loader) : (d.ld f).freeCount = d.freeCount := rfl
@[simp] theorem Dev.ld_regs (d : Dev) (f : Loader → Loader) : (d.ld f).regs = d.regs := rfl
@[simp] theorem Dev.ld_time (d : Dev) (f : Loader → Loader) : (d.ld f).time = d.time := rfl
@[simp] theorem Dev.ld_hosts (d : Dev) (f : Loader → Loader) : (d.ld f).hosts = d.hosts := rfl
@[simp] theorem Dev.ld_rings (d : Dev) (f : Loader → Loader) : (d.ld f).rings = d.rings := rfl
@[simp] theorem Dev.ld_ringQ (d : Dev) (f : Loader → Loader) : (d.ld f).ringQ = d.ringQ := rfl
@[simp] theorem Dev.ld_leases (d : Dev) (f : Loader → Loader) : (d.ld f).leases = d.leases := rfl
@[simp] theorem Dev.ld_bridge (d : Dev) (f : Loader → Loader) : (d.ld f).bridge = d.bridge := rfl
@[simp] theorem Dev.ld_fan (d : Dev) (f : Loader → Loader) : (d.ld f).fan = d.fan := rfl
@[simp] theorem Dev.ld_slices (d : Dev) (f : Loader → Loader) : (d.ld f).slices = d.slices := rfl
@[simp] theorem Dev.ld_banks (d : Dev) (f : Loader → Loader) : (d.ld f).banks = d.banks := rfl
@[simp] theorem Dev.ld_epochs (d : Dev) (f : Loader → Loader) : (d.ld f).epochs = d.epochs := rfl
@[simp] theorem Dev.ld_vers (d : Dev) (f : Loader → Loader) : (d.ld f).vers = d.vers := rfl
@[simp] theorem Dev.ld_fuses (d : Dev) (f : Loader → Loader) : (d.ld f).fuses = d.fuses := rfl
@[simp] theorem Dev.ld_errs (d : Dev) (f : Loader → Loader) : (d.ld f).errs = d.errs := rfl
@[simp] theorem Dev.ld_stats (d : Dev) (f : Loader → Loader) : (d.ld f).stats = d.stats := rfl
@[simp] theorem Dev.ld_lports (d : Dev) (f : Loader → Loader) : (d.ld f).lports = d.lports := rfl
@[simp] theorem Dev.ld_pports (d : Dev) (f : Loader → Loader) : (d.ld f).pports = d.pports := rfl
@[simp] theorem Dev.ld_engines (d : Dev) (f : Loader → Loader) : (d.ld f).engines = d.engines := rfl
@[simp] theorem Dev.ld_frames (d : Dev) (f : Loader → Loader) : (d.ld f).frames = d.frames := rfl
@[simp] theorem Dev.ld_nextFid (d : Dev) (f : Loader → Loader) : (d.ld f).nextFid = d.nextFid := rfl
@[simp] theorem Dev.ld_arrivals (d : Dev) (f : Loader → Loader) : (d.ld f).arrivals = d.arrivals := rfl
@[simp] theorem Dev.ld_grants (d : Dev) (f : Loader → Loader) : (d.ld f).grants = d.grants := rfl
@[simp] theorem Dev.ld_copies (d : Dev) (f : Loader → Loader) : (d.ld f).copies = d.copies := rfl
@[simp] theorem Dev.ld_nextCid (d : Dev) (f : Loader → Loader) : (d.ld f).nextCid = d.nextCid := rfl
@[simp] theorem Dev.ld_pfcRx (d : Dev) (f : Loader → Loader) : (d.ld f).pfcRx = d.pfcRx := rfl
@[simp] theorem Dev.ld_hoppers (d : Dev) (f : Loader → Loader) : (d.ld f).hoppers = d.hoppers := rfl
@[simp] theorem Dev.ld_isas (d : Dev) (f : Loader → Loader) : (d.ld f).isas = d.isas := rfl
@[simp] theorem Dev.ld_tbl (d : Dev) (f : Loader → Loader) : (d.ld f).tbl = d.tbl := rfl
@[simp] theorem Dev.ld_amlQ (d : Dev) (f : Loader → Loader) : (d.ld f).amlQ = d.amlQ := rfl
@[simp] theorem Dev.ld_aml (d : Dev) (f : Loader → Loader) : (d.ld f).aml = d.aml := rfl
@[simp] theorem Dev.ld_cmdqs (d : Dev) (f : Loader → Loader) : (d.ld f).cmdqs = d.cmdqs := rfl
@[simp] theorem Dev.ld_stageFrames (d : Dev) (f : Loader → Loader) : (d.ld f).stageFrames = d.stageFrames := rfl
@[simp] theorem Dev.ld_stageBytes (d : Dev) (f : Loader → Loader) : (d.ld f).stageBytes = d.stageBytes := rfl
@[simp] theorem Dev.ld_stageRegs (d : Dev) (f : Loader → Loader) : (d.ld f).stageRegs = d.stageRegs := rfl
@[simp] theorem Dev.ld_lists (d : Dev) (f : Loader → Loader) : (d.ld f).lists = d.lists := rfl
@[simp] theorem Dev.ld_members (d : Dev) (f : Loader → Loader) : (d.ld f).members = d.members := rfl
@[simp] theorem Dev.ld_links (d : Dev) (f : Loader → Loader) : (d.ld f).links = d.links := rfl
@[simp] theorem Dev.ld_linkErrs (d : Dev) (f : Loader → Loader) : (d.ld f).linkErrs = d.linkErrs := rfl
@[simp] theorem Dev.ld_senders (d : Dev) (f : Loader → Loader) : (d.ld f).senders = d.senders := rfl
@[simp] theorem Dev.ld_rsqs (d : Dev) (f : Loader → Loader) : (d.ld f).rsqs = d.rsqs := rfl
@[simp] theorem Dev.ld_admitQ (d : Dev) (f : Loader → Loader) : (d.ld f).admitQ = d.admitQ := rfl
@[simp] theorem Dev.ld_buf (d : Dev) (f : Loader → Loader) : (d.ld f).buf = d.buf := rfl
@[simp] theorem Dev.ld_tm (d : Dev) (f : Loader → Loader) : (d.ld f).tm = d.tm := rfl
@[simp] theorem Dev.ld_hbm (d : Dev) (f : Loader → Loader) : (d.ld f).hbm = d.hbm := rfl
@[simp] theorem Dev.ld_spill (d : Dev) (f : Loader → Loader) : (d.ld f).spill = d.spill := rfl
@[simp] theorem Dev.ld_wire (d : Dev) (f : Loader → Loader) : (d.ld f).wire = d.wire := rfl
@[simp] theorem Dev.ld_ae (d : Dev) (f : Loader → Loader) : (d.ld f).ae = d.ae := rfl

/-! ## `Dev.setHost` changes `hosts` -/

@[simp] theorem Dev.setHost_now (d : Dev) (h : Nat) (p : HostPort) : (d.setHost h p).now = d.now := rfl
@[simp] theorem Dev.setHost_freeCount (d : Dev) (h : Nat) (p : HostPort) : (d.setHost h p).freeCount = d.freeCount := rfl
@[simp] theorem Dev.setHost_regs (d : Dev) (h : Nat) (p : HostPort) : (d.setHost h p).regs = d.regs := rfl
@[simp] theorem Dev.setHost_time (d : Dev) (h : Nat) (p : HostPort) : (d.setHost h p).time = d.time := rfl
@[simp] theorem Dev.setHost_rings (d : Dev) (h : Nat) (p : HostPort) : (d.setHost h p).rings = d.rings := rfl
@[simp] theorem Dev.setHost_ringQ (d : Dev) (h : Nat) (p : HostPort) : (d.setHost h p).ringQ = d.ringQ := rfl
@[simp] theorem Dev.setHost_leases (d : Dev) (h : Nat) (p : HostPort) : (d.setHost h p).leases = d.leases := rfl
@[simp] theorem Dev.setHost_bridge (d : Dev) (h : Nat) (p : HostPort) : (d.setHost h p).bridge = d.bridge := rfl
@[simp] theorem Dev.setHost_fan (d : Dev) (h : Nat) (p : HostPort) : (d.setHost h p).fan = d.fan := rfl
@[simp] theorem Dev.setHost_slices (d : Dev) (h : Nat) (p : HostPort) : (d.setHost h p).slices = d.slices := rfl
@[simp] theorem Dev.setHost_loader (d : Dev) (h : Nat) (p : HostPort) : (d.setHost h p).loader = d.loader := rfl
@[simp] theorem Dev.setHost_banks (d : Dev) (h : Nat) (p : HostPort) : (d.setHost h p).banks = d.banks := rfl
@[simp] theorem Dev.setHost_epochs (d : Dev) (h : Nat) (p : HostPort) : (d.setHost h p).epochs = d.epochs := rfl
@[simp] theorem Dev.setHost_vers (d : Dev) (h : Nat) (p : HostPort) : (d.setHost h p).vers = d.vers := rfl
@[simp] theorem Dev.setHost_fuses (d : Dev) (h : Nat) (p : HostPort) : (d.setHost h p).fuses = d.fuses := rfl
@[simp] theorem Dev.setHost_errs (d : Dev) (h : Nat) (p : HostPort) : (d.setHost h p).errs = d.errs := rfl
@[simp] theorem Dev.setHost_stats (d : Dev) (h : Nat) (p : HostPort) : (d.setHost h p).stats = d.stats := rfl
@[simp] theorem Dev.setHost_lports (d : Dev) (h : Nat) (p : HostPort) : (d.setHost h p).lports = d.lports := rfl
@[simp] theorem Dev.setHost_pports (d : Dev) (h : Nat) (p : HostPort) : (d.setHost h p).pports = d.pports := rfl
@[simp] theorem Dev.setHost_engines (d : Dev) (h : Nat) (p : HostPort) : (d.setHost h p).engines = d.engines := rfl
@[simp] theorem Dev.setHost_frames (d : Dev) (h : Nat) (p : HostPort) : (d.setHost h p).frames = d.frames := rfl
@[simp] theorem Dev.setHost_nextFid (d : Dev) (h : Nat) (p : HostPort) : (d.setHost h p).nextFid = d.nextFid := rfl
@[simp] theorem Dev.setHost_arrivals (d : Dev) (h : Nat) (p : HostPort) : (d.setHost h p).arrivals = d.arrivals := rfl
@[simp] theorem Dev.setHost_grants (d : Dev) (h : Nat) (p : HostPort) : (d.setHost h p).grants = d.grants := rfl
@[simp] theorem Dev.setHost_copies (d : Dev) (h : Nat) (p : HostPort) : (d.setHost h p).copies = d.copies := rfl
@[simp] theorem Dev.setHost_nextCid (d : Dev) (h : Nat) (p : HostPort) : (d.setHost h p).nextCid = d.nextCid := rfl
@[simp] theorem Dev.setHost_pfcRx (d : Dev) (h : Nat) (p : HostPort) : (d.setHost h p).pfcRx = d.pfcRx := rfl
@[simp] theorem Dev.setHost_hoppers (d : Dev) (h : Nat) (p : HostPort) : (d.setHost h p).hoppers = d.hoppers := rfl
@[simp] theorem Dev.setHost_isas (d : Dev) (h : Nat) (p : HostPort) : (d.setHost h p).isas = d.isas := rfl
@[simp] theorem Dev.setHost_tbl (d : Dev) (h : Nat) (p : HostPort) : (d.setHost h p).tbl = d.tbl := rfl
@[simp] theorem Dev.setHost_amlQ (d : Dev) (h : Nat) (p : HostPort) : (d.setHost h p).amlQ = d.amlQ := rfl
@[simp] theorem Dev.setHost_aml (d : Dev) (h : Nat) (p : HostPort) : (d.setHost h p).aml = d.aml := rfl
@[simp] theorem Dev.setHost_cmdqs (d : Dev) (h : Nat) (p : HostPort) : (d.setHost h p).cmdqs = d.cmdqs := rfl
@[simp] theorem Dev.setHost_stageFrames (d : Dev) (h : Nat) (p : HostPort) : (d.setHost h p).stageFrames = d.stageFrames := rfl
@[simp] theorem Dev.setHost_stageBytes (d : Dev) (h : Nat) (p : HostPort) : (d.setHost h p).stageBytes = d.stageBytes := rfl
@[simp] theorem Dev.setHost_stageRegs (d : Dev) (h : Nat) (p : HostPort) : (d.setHost h p).stageRegs = d.stageRegs := rfl
@[simp] theorem Dev.setHost_lists (d : Dev) (h : Nat) (p : HostPort) : (d.setHost h p).lists = d.lists := rfl
@[simp] theorem Dev.setHost_members (d : Dev) (h : Nat) (p : HostPort) : (d.setHost h p).members = d.members := rfl
@[simp] theorem Dev.setHost_links (d : Dev) (h : Nat) (p : HostPort) : (d.setHost h p).links = d.links := rfl
@[simp] theorem Dev.setHost_linkErrs (d : Dev) (h : Nat) (p : HostPort) : (d.setHost h p).linkErrs = d.linkErrs := rfl
@[simp] theorem Dev.setHost_senders (d : Dev) (h : Nat) (p : HostPort) : (d.setHost h p).senders = d.senders := rfl
@[simp] theorem Dev.setHost_rsqs (d : Dev) (h : Nat) (p : HostPort) : (d.setHost h p).rsqs = d.rsqs := rfl
@[simp] theorem Dev.setHost_admitQ (d : Dev) (h : Nat) (p : HostPort) : (d.setHost h p).admitQ = d.admitQ := rfl
@[simp] theorem Dev.setHost_buf (d : Dev) (h : Nat) (p : HostPort) : (d.setHost h p).buf = d.buf := rfl
@[simp] theorem Dev.setHost_tm (d : Dev) (h : Nat) (p : HostPort) : (d.setHost h p).tm = d.tm := rfl
@[simp] theorem Dev.setHost_hbm (d : Dev) (h : Nat) (p : HostPort) : (d.setHost h p).hbm = d.hbm := rfl
@[simp] theorem Dev.setHost_spill (d : Dev) (h : Nat) (p : HostPort) : (d.setHost h p).spill = d.spill := rfl
@[simp] theorem Dev.setHost_wire (d : Dev) (h : Nat) (p : HostPort) : (d.setHost h p).wire = d.wire := rfl
@[simp] theorem Dev.setHost_ae (d : Dev) (h : Nat) (p : HostPort) : (d.setHost h p).ae = d.ae := rfl

/-! ## `Dev.setSlc` changes `slices` -/

@[simp] theorem Dev.setSlc_now (d : Dev) (s : Nat) (x : SliceSt) : (d.setSlc s x).now = d.now := rfl
@[simp] theorem Dev.setSlc_freeCount (d : Dev) (s : Nat) (x : SliceSt) : (d.setSlc s x).freeCount = d.freeCount := rfl
@[simp] theorem Dev.setSlc_regs (d : Dev) (s : Nat) (x : SliceSt) : (d.setSlc s x).regs = d.regs := rfl
@[simp] theorem Dev.setSlc_time (d : Dev) (s : Nat) (x : SliceSt) : (d.setSlc s x).time = d.time := rfl
@[simp] theorem Dev.setSlc_hosts (d : Dev) (s : Nat) (x : SliceSt) : (d.setSlc s x).hosts = d.hosts := rfl
@[simp] theorem Dev.setSlc_rings (d : Dev) (s : Nat) (x : SliceSt) : (d.setSlc s x).rings = d.rings := rfl
@[simp] theorem Dev.setSlc_ringQ (d : Dev) (s : Nat) (x : SliceSt) : (d.setSlc s x).ringQ = d.ringQ := rfl
@[simp] theorem Dev.setSlc_leases (d : Dev) (s : Nat) (x : SliceSt) : (d.setSlc s x).leases = d.leases := rfl
@[simp] theorem Dev.setSlc_bridge (d : Dev) (s : Nat) (x : SliceSt) : (d.setSlc s x).bridge = d.bridge := rfl
@[simp] theorem Dev.setSlc_fan (d : Dev) (s : Nat) (x : SliceSt) : (d.setSlc s x).fan = d.fan := rfl
@[simp] theorem Dev.setSlc_loader (d : Dev) (s : Nat) (x : SliceSt) : (d.setSlc s x).loader = d.loader := rfl
@[simp] theorem Dev.setSlc_banks (d : Dev) (s : Nat) (x : SliceSt) : (d.setSlc s x).banks = d.banks := rfl
@[simp] theorem Dev.setSlc_epochs (d : Dev) (s : Nat) (x : SliceSt) : (d.setSlc s x).epochs = d.epochs := rfl
@[simp] theorem Dev.setSlc_vers (d : Dev) (s : Nat) (x : SliceSt) : (d.setSlc s x).vers = d.vers := rfl
@[simp] theorem Dev.setSlc_fuses (d : Dev) (s : Nat) (x : SliceSt) : (d.setSlc s x).fuses = d.fuses := rfl
@[simp] theorem Dev.setSlc_errs (d : Dev) (s : Nat) (x : SliceSt) : (d.setSlc s x).errs = d.errs := rfl
@[simp] theorem Dev.setSlc_stats (d : Dev) (s : Nat) (x : SliceSt) : (d.setSlc s x).stats = d.stats := rfl
@[simp] theorem Dev.setSlc_lports (d : Dev) (s : Nat) (x : SliceSt) : (d.setSlc s x).lports = d.lports := rfl
@[simp] theorem Dev.setSlc_pports (d : Dev) (s : Nat) (x : SliceSt) : (d.setSlc s x).pports = d.pports := rfl
@[simp] theorem Dev.setSlc_engines (d : Dev) (s : Nat) (x : SliceSt) : (d.setSlc s x).engines = d.engines := rfl
@[simp] theorem Dev.setSlc_frames (d : Dev) (s : Nat) (x : SliceSt) : (d.setSlc s x).frames = d.frames := rfl
@[simp] theorem Dev.setSlc_nextFid (d : Dev) (s : Nat) (x : SliceSt) : (d.setSlc s x).nextFid = d.nextFid := rfl
@[simp] theorem Dev.setSlc_arrivals (d : Dev) (s : Nat) (x : SliceSt) : (d.setSlc s x).arrivals = d.arrivals := rfl
@[simp] theorem Dev.setSlc_grants (d : Dev) (s : Nat) (x : SliceSt) : (d.setSlc s x).grants = d.grants := rfl
@[simp] theorem Dev.setSlc_copies (d : Dev) (s : Nat) (x : SliceSt) : (d.setSlc s x).copies = d.copies := rfl
@[simp] theorem Dev.setSlc_nextCid (d : Dev) (s : Nat) (x : SliceSt) : (d.setSlc s x).nextCid = d.nextCid := rfl
@[simp] theorem Dev.setSlc_pfcRx (d : Dev) (s : Nat) (x : SliceSt) : (d.setSlc s x).pfcRx = d.pfcRx := rfl
@[simp] theorem Dev.setSlc_hoppers (d : Dev) (s : Nat) (x : SliceSt) : (d.setSlc s x).hoppers = d.hoppers := rfl
@[simp] theorem Dev.setSlc_isas (d : Dev) (s : Nat) (x : SliceSt) : (d.setSlc s x).isas = d.isas := rfl
@[simp] theorem Dev.setSlc_tbl (d : Dev) (s : Nat) (x : SliceSt) : (d.setSlc s x).tbl = d.tbl := rfl
@[simp] theorem Dev.setSlc_amlQ (d : Dev) (s : Nat) (x : SliceSt) : (d.setSlc s x).amlQ = d.amlQ := rfl
@[simp] theorem Dev.setSlc_aml (d : Dev) (s : Nat) (x : SliceSt) : (d.setSlc s x).aml = d.aml := rfl
@[simp] theorem Dev.setSlc_cmdqs (d : Dev) (s : Nat) (x : SliceSt) : (d.setSlc s x).cmdqs = d.cmdqs := rfl
@[simp] theorem Dev.setSlc_stageFrames (d : Dev) (s : Nat) (x : SliceSt) : (d.setSlc s x).stageFrames = d.stageFrames := rfl
@[simp] theorem Dev.setSlc_stageBytes (d : Dev) (s : Nat) (x : SliceSt) : (d.setSlc s x).stageBytes = d.stageBytes := rfl
@[simp] theorem Dev.setSlc_stageRegs (d : Dev) (s : Nat) (x : SliceSt) : (d.setSlc s x).stageRegs = d.stageRegs := rfl
@[simp] theorem Dev.setSlc_lists (d : Dev) (s : Nat) (x : SliceSt) : (d.setSlc s x).lists = d.lists := rfl
@[simp] theorem Dev.setSlc_members (d : Dev) (s : Nat) (x : SliceSt) : (d.setSlc s x).members = d.members := rfl
@[simp] theorem Dev.setSlc_links (d : Dev) (s : Nat) (x : SliceSt) : (d.setSlc s x).links = d.links := rfl
@[simp] theorem Dev.setSlc_linkErrs (d : Dev) (s : Nat) (x : SliceSt) : (d.setSlc s x).linkErrs = d.linkErrs := rfl
@[simp] theorem Dev.setSlc_senders (d : Dev) (s : Nat) (x : SliceSt) : (d.setSlc s x).senders = d.senders := rfl
@[simp] theorem Dev.setSlc_rsqs (d : Dev) (s : Nat) (x : SliceSt) : (d.setSlc s x).rsqs = d.rsqs := rfl
@[simp] theorem Dev.setSlc_admitQ (d : Dev) (s : Nat) (x : SliceSt) : (d.setSlc s x).admitQ = d.admitQ := rfl
@[simp] theorem Dev.setSlc_buf (d : Dev) (s : Nat) (x : SliceSt) : (d.setSlc s x).buf = d.buf := rfl
@[simp] theorem Dev.setSlc_tm (d : Dev) (s : Nat) (x : SliceSt) : (d.setSlc s x).tm = d.tm := rfl
@[simp] theorem Dev.setSlc_hbm (d : Dev) (s : Nat) (x : SliceSt) : (d.setSlc s x).hbm = d.hbm := rfl
@[simp] theorem Dev.setSlc_spill (d : Dev) (s : Nat) (x : SliceSt) : (d.setSlc s x).spill = d.spill := rfl
@[simp] theorem Dev.setSlc_wire (d : Dev) (s : Nat) (x : SliceSt) : (d.setSlc s x).wire = d.wire := rfl
@[simp] theorem Dev.setSlc_ae (d : Dev) (s : Nat) (x : SliceSt) : (d.setSlc s x).ae = d.ae := rfl

/-! ## `Dev.modSlc` changes `slices` -/

@[simp] theorem Dev.modSlc_now (d : Dev) (s : Nat) (f : SliceSt → SliceSt) : (d.modSlc s f).now = d.now := rfl
@[simp] theorem Dev.modSlc_freeCount (d : Dev) (s : Nat) (f : SliceSt → SliceSt) : (d.modSlc s f).freeCount = d.freeCount := rfl
@[simp] theorem Dev.modSlc_regs (d : Dev) (s : Nat) (f : SliceSt → SliceSt) : (d.modSlc s f).regs = d.regs := rfl
@[simp] theorem Dev.modSlc_time (d : Dev) (s : Nat) (f : SliceSt → SliceSt) : (d.modSlc s f).time = d.time := rfl
@[simp] theorem Dev.modSlc_hosts (d : Dev) (s : Nat) (f : SliceSt → SliceSt) : (d.modSlc s f).hosts = d.hosts := rfl
@[simp] theorem Dev.modSlc_rings (d : Dev) (s : Nat) (f : SliceSt → SliceSt) : (d.modSlc s f).rings = d.rings := rfl
@[simp] theorem Dev.modSlc_ringQ (d : Dev) (s : Nat) (f : SliceSt → SliceSt) : (d.modSlc s f).ringQ = d.ringQ := rfl
@[simp] theorem Dev.modSlc_leases (d : Dev) (s : Nat) (f : SliceSt → SliceSt) : (d.modSlc s f).leases = d.leases := rfl
@[simp] theorem Dev.modSlc_bridge (d : Dev) (s : Nat) (f : SliceSt → SliceSt) : (d.modSlc s f).bridge = d.bridge := rfl
@[simp] theorem Dev.modSlc_fan (d : Dev) (s : Nat) (f : SliceSt → SliceSt) : (d.modSlc s f).fan = d.fan := rfl
@[simp] theorem Dev.modSlc_loader (d : Dev) (s : Nat) (f : SliceSt → SliceSt) : (d.modSlc s f).loader = d.loader := rfl
@[simp] theorem Dev.modSlc_banks (d : Dev) (s : Nat) (f : SliceSt → SliceSt) : (d.modSlc s f).banks = d.banks := rfl
@[simp] theorem Dev.modSlc_epochs (d : Dev) (s : Nat) (f : SliceSt → SliceSt) : (d.modSlc s f).epochs = d.epochs := rfl
@[simp] theorem Dev.modSlc_vers (d : Dev) (s : Nat) (f : SliceSt → SliceSt) : (d.modSlc s f).vers = d.vers := rfl
@[simp] theorem Dev.modSlc_fuses (d : Dev) (s : Nat) (f : SliceSt → SliceSt) : (d.modSlc s f).fuses = d.fuses := rfl
@[simp] theorem Dev.modSlc_errs (d : Dev) (s : Nat) (f : SliceSt → SliceSt) : (d.modSlc s f).errs = d.errs := rfl
@[simp] theorem Dev.modSlc_stats (d : Dev) (s : Nat) (f : SliceSt → SliceSt) : (d.modSlc s f).stats = d.stats := rfl
@[simp] theorem Dev.modSlc_lports (d : Dev) (s : Nat) (f : SliceSt → SliceSt) : (d.modSlc s f).lports = d.lports := rfl
@[simp] theorem Dev.modSlc_pports (d : Dev) (s : Nat) (f : SliceSt → SliceSt) : (d.modSlc s f).pports = d.pports := rfl
@[simp] theorem Dev.modSlc_engines (d : Dev) (s : Nat) (f : SliceSt → SliceSt) : (d.modSlc s f).engines = d.engines := rfl
@[simp] theorem Dev.modSlc_frames (d : Dev) (s : Nat) (f : SliceSt → SliceSt) : (d.modSlc s f).frames = d.frames := rfl
@[simp] theorem Dev.modSlc_nextFid (d : Dev) (s : Nat) (f : SliceSt → SliceSt) : (d.modSlc s f).nextFid = d.nextFid := rfl
@[simp] theorem Dev.modSlc_arrivals (d : Dev) (s : Nat) (f : SliceSt → SliceSt) : (d.modSlc s f).arrivals = d.arrivals := rfl
@[simp] theorem Dev.modSlc_grants (d : Dev) (s : Nat) (f : SliceSt → SliceSt) : (d.modSlc s f).grants = d.grants := rfl
@[simp] theorem Dev.modSlc_copies (d : Dev) (s : Nat) (f : SliceSt → SliceSt) : (d.modSlc s f).copies = d.copies := rfl
@[simp] theorem Dev.modSlc_nextCid (d : Dev) (s : Nat) (f : SliceSt → SliceSt) : (d.modSlc s f).nextCid = d.nextCid := rfl
@[simp] theorem Dev.modSlc_pfcRx (d : Dev) (s : Nat) (f : SliceSt → SliceSt) : (d.modSlc s f).pfcRx = d.pfcRx := rfl
@[simp] theorem Dev.modSlc_hoppers (d : Dev) (s : Nat) (f : SliceSt → SliceSt) : (d.modSlc s f).hoppers = d.hoppers := rfl
@[simp] theorem Dev.modSlc_isas (d : Dev) (s : Nat) (f : SliceSt → SliceSt) : (d.modSlc s f).isas = d.isas := rfl
@[simp] theorem Dev.modSlc_tbl (d : Dev) (s : Nat) (f : SliceSt → SliceSt) : (d.modSlc s f).tbl = d.tbl := rfl
@[simp] theorem Dev.modSlc_amlQ (d : Dev) (s : Nat) (f : SliceSt → SliceSt) : (d.modSlc s f).amlQ = d.amlQ := rfl
@[simp] theorem Dev.modSlc_aml (d : Dev) (s : Nat) (f : SliceSt → SliceSt) : (d.modSlc s f).aml = d.aml := rfl
@[simp] theorem Dev.modSlc_cmdqs (d : Dev) (s : Nat) (f : SliceSt → SliceSt) : (d.modSlc s f).cmdqs = d.cmdqs := rfl
@[simp] theorem Dev.modSlc_stageFrames (d : Dev) (s : Nat) (f : SliceSt → SliceSt) : (d.modSlc s f).stageFrames = d.stageFrames := rfl
@[simp] theorem Dev.modSlc_stageBytes (d : Dev) (s : Nat) (f : SliceSt → SliceSt) : (d.modSlc s f).stageBytes = d.stageBytes := rfl
@[simp] theorem Dev.modSlc_stageRegs (d : Dev) (s : Nat) (f : SliceSt → SliceSt) : (d.modSlc s f).stageRegs = d.stageRegs := rfl
@[simp] theorem Dev.modSlc_lists (d : Dev) (s : Nat) (f : SliceSt → SliceSt) : (d.modSlc s f).lists = d.lists := rfl
@[simp] theorem Dev.modSlc_members (d : Dev) (s : Nat) (f : SliceSt → SliceSt) : (d.modSlc s f).members = d.members := rfl
@[simp] theorem Dev.modSlc_links (d : Dev) (s : Nat) (f : SliceSt → SliceSt) : (d.modSlc s f).links = d.links := rfl
@[simp] theorem Dev.modSlc_linkErrs (d : Dev) (s : Nat) (f : SliceSt → SliceSt) : (d.modSlc s f).linkErrs = d.linkErrs := rfl
@[simp] theorem Dev.modSlc_senders (d : Dev) (s : Nat) (f : SliceSt → SliceSt) : (d.modSlc s f).senders = d.senders := rfl
@[simp] theorem Dev.modSlc_rsqs (d : Dev) (s : Nat) (f : SliceSt → SliceSt) : (d.modSlc s f).rsqs = d.rsqs := rfl
@[simp] theorem Dev.modSlc_admitQ (d : Dev) (s : Nat) (f : SliceSt → SliceSt) : (d.modSlc s f).admitQ = d.admitQ := rfl
@[simp] theorem Dev.modSlc_buf (d : Dev) (s : Nat) (f : SliceSt → SliceSt) : (d.modSlc s f).buf = d.buf := rfl
@[simp] theorem Dev.modSlc_tm (d : Dev) (s : Nat) (f : SliceSt → SliceSt) : (d.modSlc s f).tm = d.tm := rfl
@[simp] theorem Dev.modSlc_hbm (d : Dev) (s : Nat) (f : SliceSt → SliceSt) : (d.modSlc s f).hbm = d.hbm := rfl
@[simp] theorem Dev.modSlc_spill (d : Dev) (s : Nat) (f : SliceSt → SliceSt) : (d.modSlc s f).spill = d.spill := rfl
@[simp] theorem Dev.modSlc_wire (d : Dev) (s : Nat) (f : SliceSt → SliceSt) : (d.modSlc s f).wire = d.wire := rfl
@[simp] theorem Dev.modSlc_ae (d : Dev) (s : Nat) (f : SliceSt → SliceSt) : (d.modSlc s f).ae = d.ae := rfl

/-! ## `Dev.setBank` changes `banks` -/

@[simp] theorem Dev.setBank_now (d : Dev) (b : Nat) (x : ImgBank) : (d.setBank b x).now = d.now := rfl
@[simp] theorem Dev.setBank_freeCount (d : Dev) (b : Nat) (x : ImgBank) : (d.setBank b x).freeCount = d.freeCount := rfl
@[simp] theorem Dev.setBank_regs (d : Dev) (b : Nat) (x : ImgBank) : (d.setBank b x).regs = d.regs := rfl
@[simp] theorem Dev.setBank_time (d : Dev) (b : Nat) (x : ImgBank) : (d.setBank b x).time = d.time := rfl
@[simp] theorem Dev.setBank_hosts (d : Dev) (b : Nat) (x : ImgBank) : (d.setBank b x).hosts = d.hosts := rfl
@[simp] theorem Dev.setBank_rings (d : Dev) (b : Nat) (x : ImgBank) : (d.setBank b x).rings = d.rings := rfl
@[simp] theorem Dev.setBank_ringQ (d : Dev) (b : Nat) (x : ImgBank) : (d.setBank b x).ringQ = d.ringQ := rfl
@[simp] theorem Dev.setBank_leases (d : Dev) (b : Nat) (x : ImgBank) : (d.setBank b x).leases = d.leases := rfl
@[simp] theorem Dev.setBank_bridge (d : Dev) (b : Nat) (x : ImgBank) : (d.setBank b x).bridge = d.bridge := rfl
@[simp] theorem Dev.setBank_fan (d : Dev) (b : Nat) (x : ImgBank) : (d.setBank b x).fan = d.fan := rfl
@[simp] theorem Dev.setBank_slices (d : Dev) (b : Nat) (x : ImgBank) : (d.setBank b x).slices = d.slices := rfl
@[simp] theorem Dev.setBank_loader (d : Dev) (b : Nat) (x : ImgBank) : (d.setBank b x).loader = d.loader := rfl
@[simp] theorem Dev.setBank_epochs (d : Dev) (b : Nat) (x : ImgBank) : (d.setBank b x).epochs = d.epochs := rfl
@[simp] theorem Dev.setBank_vers (d : Dev) (b : Nat) (x : ImgBank) : (d.setBank b x).vers = d.vers := rfl
@[simp] theorem Dev.setBank_fuses (d : Dev) (b : Nat) (x : ImgBank) : (d.setBank b x).fuses = d.fuses := rfl
@[simp] theorem Dev.setBank_errs (d : Dev) (b : Nat) (x : ImgBank) : (d.setBank b x).errs = d.errs := rfl
@[simp] theorem Dev.setBank_stats (d : Dev) (b : Nat) (x : ImgBank) : (d.setBank b x).stats = d.stats := rfl
@[simp] theorem Dev.setBank_lports (d : Dev) (b : Nat) (x : ImgBank) : (d.setBank b x).lports = d.lports := rfl
@[simp] theorem Dev.setBank_pports (d : Dev) (b : Nat) (x : ImgBank) : (d.setBank b x).pports = d.pports := rfl
@[simp] theorem Dev.setBank_engines (d : Dev) (b : Nat) (x : ImgBank) : (d.setBank b x).engines = d.engines := rfl
@[simp] theorem Dev.setBank_frames (d : Dev) (b : Nat) (x : ImgBank) : (d.setBank b x).frames = d.frames := rfl
@[simp] theorem Dev.setBank_nextFid (d : Dev) (b : Nat) (x : ImgBank) : (d.setBank b x).nextFid = d.nextFid := rfl
@[simp] theorem Dev.setBank_arrivals (d : Dev) (b : Nat) (x : ImgBank) : (d.setBank b x).arrivals = d.arrivals := rfl
@[simp] theorem Dev.setBank_grants (d : Dev) (b : Nat) (x : ImgBank) : (d.setBank b x).grants = d.grants := rfl
@[simp] theorem Dev.setBank_copies (d : Dev) (b : Nat) (x : ImgBank) : (d.setBank b x).copies = d.copies := rfl
@[simp] theorem Dev.setBank_nextCid (d : Dev) (b : Nat) (x : ImgBank) : (d.setBank b x).nextCid = d.nextCid := rfl
@[simp] theorem Dev.setBank_pfcRx (d : Dev) (b : Nat) (x : ImgBank) : (d.setBank b x).pfcRx = d.pfcRx := rfl
@[simp] theorem Dev.setBank_hoppers (d : Dev) (b : Nat) (x : ImgBank) : (d.setBank b x).hoppers = d.hoppers := rfl
@[simp] theorem Dev.setBank_isas (d : Dev) (b : Nat) (x : ImgBank) : (d.setBank b x).isas = d.isas := rfl
@[simp] theorem Dev.setBank_tbl (d : Dev) (b : Nat) (x : ImgBank) : (d.setBank b x).tbl = d.tbl := rfl
@[simp] theorem Dev.setBank_amlQ (d : Dev) (b : Nat) (x : ImgBank) : (d.setBank b x).amlQ = d.amlQ := rfl
@[simp] theorem Dev.setBank_aml (d : Dev) (b : Nat) (x : ImgBank) : (d.setBank b x).aml = d.aml := rfl
@[simp] theorem Dev.setBank_cmdqs (d : Dev) (b : Nat) (x : ImgBank) : (d.setBank b x).cmdqs = d.cmdqs := rfl
@[simp] theorem Dev.setBank_stageFrames (d : Dev) (b : Nat) (x : ImgBank) : (d.setBank b x).stageFrames = d.stageFrames := rfl
@[simp] theorem Dev.setBank_stageBytes (d : Dev) (b : Nat) (x : ImgBank) : (d.setBank b x).stageBytes = d.stageBytes := rfl
@[simp] theorem Dev.setBank_stageRegs (d : Dev) (b : Nat) (x : ImgBank) : (d.setBank b x).stageRegs = d.stageRegs := rfl
@[simp] theorem Dev.setBank_lists (d : Dev) (b : Nat) (x : ImgBank) : (d.setBank b x).lists = d.lists := rfl
@[simp] theorem Dev.setBank_members (d : Dev) (b : Nat) (x : ImgBank) : (d.setBank b x).members = d.members := rfl
@[simp] theorem Dev.setBank_links (d : Dev) (b : Nat) (x : ImgBank) : (d.setBank b x).links = d.links := rfl
@[simp] theorem Dev.setBank_linkErrs (d : Dev) (b : Nat) (x : ImgBank) : (d.setBank b x).linkErrs = d.linkErrs := rfl
@[simp] theorem Dev.setBank_senders (d : Dev) (b : Nat) (x : ImgBank) : (d.setBank b x).senders = d.senders := rfl
@[simp] theorem Dev.setBank_rsqs (d : Dev) (b : Nat) (x : ImgBank) : (d.setBank b x).rsqs = d.rsqs := rfl
@[simp] theorem Dev.setBank_admitQ (d : Dev) (b : Nat) (x : ImgBank) : (d.setBank b x).admitQ = d.admitQ := rfl
@[simp] theorem Dev.setBank_buf (d : Dev) (b : Nat) (x : ImgBank) : (d.setBank b x).buf = d.buf := rfl
@[simp] theorem Dev.setBank_tm (d : Dev) (b : Nat) (x : ImgBank) : (d.setBank b x).tm = d.tm := rfl
@[simp] theorem Dev.setBank_hbm (d : Dev) (b : Nat) (x : ImgBank) : (d.setBank b x).hbm = d.hbm := rfl
@[simp] theorem Dev.setBank_spill (d : Dev) (b : Nat) (x : ImgBank) : (d.setBank b x).spill = d.spill := rfl
@[simp] theorem Dev.setBank_wire (d : Dev) (b : Nat) (x : ImgBank) : (d.setBank b x).wire = d.wire := rfl
@[simp] theorem Dev.setBank_ae (d : Dev) (b : Nat) (x : ImgBank) : (d.setBank b x).ae = d.ae := rfl

/-! ## `Dev.setLp` changes `lports` -/

@[simp] theorem Dev.setLp_now (d : Dev) (p : Nat) (x : LPort) : (d.setLp p x).now = d.now := rfl
@[simp] theorem Dev.setLp_freeCount (d : Dev) (p : Nat) (x : LPort) : (d.setLp p x).freeCount = d.freeCount := rfl
@[simp] theorem Dev.setLp_regs (d : Dev) (p : Nat) (x : LPort) : (d.setLp p x).regs = d.regs := rfl
@[simp] theorem Dev.setLp_time (d : Dev) (p : Nat) (x : LPort) : (d.setLp p x).time = d.time := rfl
@[simp] theorem Dev.setLp_hosts (d : Dev) (p : Nat) (x : LPort) : (d.setLp p x).hosts = d.hosts := rfl
@[simp] theorem Dev.setLp_rings (d : Dev) (p : Nat) (x : LPort) : (d.setLp p x).rings = d.rings := rfl
@[simp] theorem Dev.setLp_ringQ (d : Dev) (p : Nat) (x : LPort) : (d.setLp p x).ringQ = d.ringQ := rfl
@[simp] theorem Dev.setLp_leases (d : Dev) (p : Nat) (x : LPort) : (d.setLp p x).leases = d.leases := rfl
@[simp] theorem Dev.setLp_bridge (d : Dev) (p : Nat) (x : LPort) : (d.setLp p x).bridge = d.bridge := rfl
@[simp] theorem Dev.setLp_fan (d : Dev) (p : Nat) (x : LPort) : (d.setLp p x).fan = d.fan := rfl
@[simp] theorem Dev.setLp_slices (d : Dev) (p : Nat) (x : LPort) : (d.setLp p x).slices = d.slices := rfl
@[simp] theorem Dev.setLp_loader (d : Dev) (p : Nat) (x : LPort) : (d.setLp p x).loader = d.loader := rfl
@[simp] theorem Dev.setLp_banks (d : Dev) (p : Nat) (x : LPort) : (d.setLp p x).banks = d.banks := rfl
@[simp] theorem Dev.setLp_epochs (d : Dev) (p : Nat) (x : LPort) : (d.setLp p x).epochs = d.epochs := rfl
@[simp] theorem Dev.setLp_vers (d : Dev) (p : Nat) (x : LPort) : (d.setLp p x).vers = d.vers := rfl
@[simp] theorem Dev.setLp_fuses (d : Dev) (p : Nat) (x : LPort) : (d.setLp p x).fuses = d.fuses := rfl
@[simp] theorem Dev.setLp_errs (d : Dev) (p : Nat) (x : LPort) : (d.setLp p x).errs = d.errs := rfl
@[simp] theorem Dev.setLp_stats (d : Dev) (p : Nat) (x : LPort) : (d.setLp p x).stats = d.stats := rfl
@[simp] theorem Dev.setLp_pports (d : Dev) (p : Nat) (x : LPort) : (d.setLp p x).pports = d.pports := rfl
@[simp] theorem Dev.setLp_engines (d : Dev) (p : Nat) (x : LPort) : (d.setLp p x).engines = d.engines := rfl
@[simp] theorem Dev.setLp_frames (d : Dev) (p : Nat) (x : LPort) : (d.setLp p x).frames = d.frames := rfl
@[simp] theorem Dev.setLp_nextFid (d : Dev) (p : Nat) (x : LPort) : (d.setLp p x).nextFid = d.nextFid := rfl
@[simp] theorem Dev.setLp_arrivals (d : Dev) (p : Nat) (x : LPort) : (d.setLp p x).arrivals = d.arrivals := rfl
@[simp] theorem Dev.setLp_grants (d : Dev) (p : Nat) (x : LPort) : (d.setLp p x).grants = d.grants := rfl
@[simp] theorem Dev.setLp_copies (d : Dev) (p : Nat) (x : LPort) : (d.setLp p x).copies = d.copies := rfl
@[simp] theorem Dev.setLp_nextCid (d : Dev) (p : Nat) (x : LPort) : (d.setLp p x).nextCid = d.nextCid := rfl
@[simp] theorem Dev.setLp_pfcRx (d : Dev) (p : Nat) (x : LPort) : (d.setLp p x).pfcRx = d.pfcRx := rfl
@[simp] theorem Dev.setLp_hoppers (d : Dev) (p : Nat) (x : LPort) : (d.setLp p x).hoppers = d.hoppers := rfl
@[simp] theorem Dev.setLp_isas (d : Dev) (p : Nat) (x : LPort) : (d.setLp p x).isas = d.isas := rfl
@[simp] theorem Dev.setLp_tbl (d : Dev) (p : Nat) (x : LPort) : (d.setLp p x).tbl = d.tbl := rfl
@[simp] theorem Dev.setLp_amlQ (d : Dev) (p : Nat) (x : LPort) : (d.setLp p x).amlQ = d.amlQ := rfl
@[simp] theorem Dev.setLp_aml (d : Dev) (p : Nat) (x : LPort) : (d.setLp p x).aml = d.aml := rfl
@[simp] theorem Dev.setLp_cmdqs (d : Dev) (p : Nat) (x : LPort) : (d.setLp p x).cmdqs = d.cmdqs := rfl
@[simp] theorem Dev.setLp_stageFrames (d : Dev) (p : Nat) (x : LPort) : (d.setLp p x).stageFrames = d.stageFrames := rfl
@[simp] theorem Dev.setLp_stageBytes (d : Dev) (p : Nat) (x : LPort) : (d.setLp p x).stageBytes = d.stageBytes := rfl
@[simp] theorem Dev.setLp_stageRegs (d : Dev) (p : Nat) (x : LPort) : (d.setLp p x).stageRegs = d.stageRegs := rfl
@[simp] theorem Dev.setLp_lists (d : Dev) (p : Nat) (x : LPort) : (d.setLp p x).lists = d.lists := rfl
@[simp] theorem Dev.setLp_members (d : Dev) (p : Nat) (x : LPort) : (d.setLp p x).members = d.members := rfl
@[simp] theorem Dev.setLp_links (d : Dev) (p : Nat) (x : LPort) : (d.setLp p x).links = d.links := rfl
@[simp] theorem Dev.setLp_linkErrs (d : Dev) (p : Nat) (x : LPort) : (d.setLp p x).linkErrs = d.linkErrs := rfl
@[simp] theorem Dev.setLp_senders (d : Dev) (p : Nat) (x : LPort) : (d.setLp p x).senders = d.senders := rfl
@[simp] theorem Dev.setLp_rsqs (d : Dev) (p : Nat) (x : LPort) : (d.setLp p x).rsqs = d.rsqs := rfl
@[simp] theorem Dev.setLp_admitQ (d : Dev) (p : Nat) (x : LPort) : (d.setLp p x).admitQ = d.admitQ := rfl
@[simp] theorem Dev.setLp_buf (d : Dev) (p : Nat) (x : LPort) : (d.setLp p x).buf = d.buf := rfl
@[simp] theorem Dev.setLp_tm (d : Dev) (p : Nat) (x : LPort) : (d.setLp p x).tm = d.tm := rfl
@[simp] theorem Dev.setLp_hbm (d : Dev) (p : Nat) (x : LPort) : (d.setLp p x).hbm = d.hbm := rfl
@[simp] theorem Dev.setLp_spill (d : Dev) (p : Nat) (x : LPort) : (d.setLp p x).spill = d.spill := rfl
@[simp] theorem Dev.setLp_wire (d : Dev) (p : Nat) (x : LPort) : (d.setLp p x).wire = d.wire := rfl
@[simp] theorem Dev.setLp_ae (d : Dev) (p : Nat) (x : LPort) : (d.setLp p x).ae = d.ae := rfl

/-! ## `Dev.setPp` changes `pports` -/

@[simp] theorem Dev.setPp_now (d : Dev) (p : Nat) (x : PPort) : (d.setPp p x).now = d.now := rfl
@[simp] theorem Dev.setPp_freeCount (d : Dev) (p : Nat) (x : PPort) : (d.setPp p x).freeCount = d.freeCount := rfl
@[simp] theorem Dev.setPp_regs (d : Dev) (p : Nat) (x : PPort) : (d.setPp p x).regs = d.regs := rfl
@[simp] theorem Dev.setPp_time (d : Dev) (p : Nat) (x : PPort) : (d.setPp p x).time = d.time := rfl
@[simp] theorem Dev.setPp_hosts (d : Dev) (p : Nat) (x : PPort) : (d.setPp p x).hosts = d.hosts := rfl
@[simp] theorem Dev.setPp_rings (d : Dev) (p : Nat) (x : PPort) : (d.setPp p x).rings = d.rings := rfl
@[simp] theorem Dev.setPp_ringQ (d : Dev) (p : Nat) (x : PPort) : (d.setPp p x).ringQ = d.ringQ := rfl
@[simp] theorem Dev.setPp_leases (d : Dev) (p : Nat) (x : PPort) : (d.setPp p x).leases = d.leases := rfl
@[simp] theorem Dev.setPp_bridge (d : Dev) (p : Nat) (x : PPort) : (d.setPp p x).bridge = d.bridge := rfl
@[simp] theorem Dev.setPp_fan (d : Dev) (p : Nat) (x : PPort) : (d.setPp p x).fan = d.fan := rfl
@[simp] theorem Dev.setPp_slices (d : Dev) (p : Nat) (x : PPort) : (d.setPp p x).slices = d.slices := rfl
@[simp] theorem Dev.setPp_loader (d : Dev) (p : Nat) (x : PPort) : (d.setPp p x).loader = d.loader := rfl
@[simp] theorem Dev.setPp_banks (d : Dev) (p : Nat) (x : PPort) : (d.setPp p x).banks = d.banks := rfl
@[simp] theorem Dev.setPp_epochs (d : Dev) (p : Nat) (x : PPort) : (d.setPp p x).epochs = d.epochs := rfl
@[simp] theorem Dev.setPp_vers (d : Dev) (p : Nat) (x : PPort) : (d.setPp p x).vers = d.vers := rfl
@[simp] theorem Dev.setPp_fuses (d : Dev) (p : Nat) (x : PPort) : (d.setPp p x).fuses = d.fuses := rfl
@[simp] theorem Dev.setPp_errs (d : Dev) (p : Nat) (x : PPort) : (d.setPp p x).errs = d.errs := rfl
@[simp] theorem Dev.setPp_stats (d : Dev) (p : Nat) (x : PPort) : (d.setPp p x).stats = d.stats := rfl
@[simp] theorem Dev.setPp_lports (d : Dev) (p : Nat) (x : PPort) : (d.setPp p x).lports = d.lports := rfl
@[simp] theorem Dev.setPp_engines (d : Dev) (p : Nat) (x : PPort) : (d.setPp p x).engines = d.engines := rfl
@[simp] theorem Dev.setPp_frames (d : Dev) (p : Nat) (x : PPort) : (d.setPp p x).frames = d.frames := rfl
@[simp] theorem Dev.setPp_nextFid (d : Dev) (p : Nat) (x : PPort) : (d.setPp p x).nextFid = d.nextFid := rfl
@[simp] theorem Dev.setPp_arrivals (d : Dev) (p : Nat) (x : PPort) : (d.setPp p x).arrivals = d.arrivals := rfl
@[simp] theorem Dev.setPp_grants (d : Dev) (p : Nat) (x : PPort) : (d.setPp p x).grants = d.grants := rfl
@[simp] theorem Dev.setPp_copies (d : Dev) (p : Nat) (x : PPort) : (d.setPp p x).copies = d.copies := rfl
@[simp] theorem Dev.setPp_nextCid (d : Dev) (p : Nat) (x : PPort) : (d.setPp p x).nextCid = d.nextCid := rfl
@[simp] theorem Dev.setPp_pfcRx (d : Dev) (p : Nat) (x : PPort) : (d.setPp p x).pfcRx = d.pfcRx := rfl
@[simp] theorem Dev.setPp_hoppers (d : Dev) (p : Nat) (x : PPort) : (d.setPp p x).hoppers = d.hoppers := rfl
@[simp] theorem Dev.setPp_isas (d : Dev) (p : Nat) (x : PPort) : (d.setPp p x).isas = d.isas := rfl
@[simp] theorem Dev.setPp_tbl (d : Dev) (p : Nat) (x : PPort) : (d.setPp p x).tbl = d.tbl := rfl
@[simp] theorem Dev.setPp_amlQ (d : Dev) (p : Nat) (x : PPort) : (d.setPp p x).amlQ = d.amlQ := rfl
@[simp] theorem Dev.setPp_aml (d : Dev) (p : Nat) (x : PPort) : (d.setPp p x).aml = d.aml := rfl
@[simp] theorem Dev.setPp_cmdqs (d : Dev) (p : Nat) (x : PPort) : (d.setPp p x).cmdqs = d.cmdqs := rfl
@[simp] theorem Dev.setPp_stageFrames (d : Dev) (p : Nat) (x : PPort) : (d.setPp p x).stageFrames = d.stageFrames := rfl
@[simp] theorem Dev.setPp_stageBytes (d : Dev) (p : Nat) (x : PPort) : (d.setPp p x).stageBytes = d.stageBytes := rfl
@[simp] theorem Dev.setPp_stageRegs (d : Dev) (p : Nat) (x : PPort) : (d.setPp p x).stageRegs = d.stageRegs := rfl
@[simp] theorem Dev.setPp_lists (d : Dev) (p : Nat) (x : PPort) : (d.setPp p x).lists = d.lists := rfl
@[simp] theorem Dev.setPp_members (d : Dev) (p : Nat) (x : PPort) : (d.setPp p x).members = d.members := rfl
@[simp] theorem Dev.setPp_links (d : Dev) (p : Nat) (x : PPort) : (d.setPp p x).links = d.links := rfl
@[simp] theorem Dev.setPp_linkErrs (d : Dev) (p : Nat) (x : PPort) : (d.setPp p x).linkErrs = d.linkErrs := rfl
@[simp] theorem Dev.setPp_senders (d : Dev) (p : Nat) (x : PPort) : (d.setPp p x).senders = d.senders := rfl
@[simp] theorem Dev.setPp_rsqs (d : Dev) (p : Nat) (x : PPort) : (d.setPp p x).rsqs = d.rsqs := rfl
@[simp] theorem Dev.setPp_admitQ (d : Dev) (p : Nat) (x : PPort) : (d.setPp p x).admitQ = d.admitQ := rfl
@[simp] theorem Dev.setPp_buf (d : Dev) (p : Nat) (x : PPort) : (d.setPp p x).buf = d.buf := rfl
@[simp] theorem Dev.setPp_tm (d : Dev) (p : Nat) (x : PPort) : (d.setPp p x).tm = d.tm := rfl
@[simp] theorem Dev.setPp_hbm (d : Dev) (p : Nat) (x : PPort) : (d.setPp p x).hbm = d.hbm := rfl
@[simp] theorem Dev.setPp_spill (d : Dev) (p : Nat) (x : PPort) : (d.setPp p x).spill = d.spill := rfl
@[simp] theorem Dev.setPp_wire (d : Dev) (p : Nat) (x : PPort) : (d.setPp p x).wire = d.wire := rfl
@[simp] theorem Dev.setPp_ae (d : Dev) (p : Nat) (x : PPort) : (d.setPp p x).ae = d.ae := rfl

/-! ## `Dev.setEng` changes `engines` -/

@[simp] theorem Dev.setEng_now (d : Dev) (k : Nat) (x : Engine) : (d.setEng k x).now = d.now := rfl
@[simp] theorem Dev.setEng_freeCount (d : Dev) (k : Nat) (x : Engine) : (d.setEng k x).freeCount = d.freeCount := rfl
@[simp] theorem Dev.setEng_regs (d : Dev) (k : Nat) (x : Engine) : (d.setEng k x).regs = d.regs := rfl
@[simp] theorem Dev.setEng_time (d : Dev) (k : Nat) (x : Engine) : (d.setEng k x).time = d.time := rfl
@[simp] theorem Dev.setEng_hosts (d : Dev) (k : Nat) (x : Engine) : (d.setEng k x).hosts = d.hosts := rfl
@[simp] theorem Dev.setEng_rings (d : Dev) (k : Nat) (x : Engine) : (d.setEng k x).rings = d.rings := rfl
@[simp] theorem Dev.setEng_ringQ (d : Dev) (k : Nat) (x : Engine) : (d.setEng k x).ringQ = d.ringQ := rfl
@[simp] theorem Dev.setEng_leases (d : Dev) (k : Nat) (x : Engine) : (d.setEng k x).leases = d.leases := rfl
@[simp] theorem Dev.setEng_bridge (d : Dev) (k : Nat) (x : Engine) : (d.setEng k x).bridge = d.bridge := rfl
@[simp] theorem Dev.setEng_fan (d : Dev) (k : Nat) (x : Engine) : (d.setEng k x).fan = d.fan := rfl
@[simp] theorem Dev.setEng_slices (d : Dev) (k : Nat) (x : Engine) : (d.setEng k x).slices = d.slices := rfl
@[simp] theorem Dev.setEng_loader (d : Dev) (k : Nat) (x : Engine) : (d.setEng k x).loader = d.loader := rfl
@[simp] theorem Dev.setEng_banks (d : Dev) (k : Nat) (x : Engine) : (d.setEng k x).banks = d.banks := rfl
@[simp] theorem Dev.setEng_epochs (d : Dev) (k : Nat) (x : Engine) : (d.setEng k x).epochs = d.epochs := rfl
@[simp] theorem Dev.setEng_vers (d : Dev) (k : Nat) (x : Engine) : (d.setEng k x).vers = d.vers := rfl
@[simp] theorem Dev.setEng_fuses (d : Dev) (k : Nat) (x : Engine) : (d.setEng k x).fuses = d.fuses := rfl
@[simp] theorem Dev.setEng_errs (d : Dev) (k : Nat) (x : Engine) : (d.setEng k x).errs = d.errs := rfl
@[simp] theorem Dev.setEng_stats (d : Dev) (k : Nat) (x : Engine) : (d.setEng k x).stats = d.stats := rfl
@[simp] theorem Dev.setEng_lports (d : Dev) (k : Nat) (x : Engine) : (d.setEng k x).lports = d.lports := rfl
@[simp] theorem Dev.setEng_pports (d : Dev) (k : Nat) (x : Engine) : (d.setEng k x).pports = d.pports := rfl
@[simp] theorem Dev.setEng_frames (d : Dev) (k : Nat) (x : Engine) : (d.setEng k x).frames = d.frames := rfl
@[simp] theorem Dev.setEng_nextFid (d : Dev) (k : Nat) (x : Engine) : (d.setEng k x).nextFid = d.nextFid := rfl
@[simp] theorem Dev.setEng_arrivals (d : Dev) (k : Nat) (x : Engine) : (d.setEng k x).arrivals = d.arrivals := rfl
@[simp] theorem Dev.setEng_grants (d : Dev) (k : Nat) (x : Engine) : (d.setEng k x).grants = d.grants := rfl
@[simp] theorem Dev.setEng_copies (d : Dev) (k : Nat) (x : Engine) : (d.setEng k x).copies = d.copies := rfl
@[simp] theorem Dev.setEng_nextCid (d : Dev) (k : Nat) (x : Engine) : (d.setEng k x).nextCid = d.nextCid := rfl
@[simp] theorem Dev.setEng_pfcRx (d : Dev) (k : Nat) (x : Engine) : (d.setEng k x).pfcRx = d.pfcRx := rfl
@[simp] theorem Dev.setEng_hoppers (d : Dev) (k : Nat) (x : Engine) : (d.setEng k x).hoppers = d.hoppers := rfl
@[simp] theorem Dev.setEng_isas (d : Dev) (k : Nat) (x : Engine) : (d.setEng k x).isas = d.isas := rfl
@[simp] theorem Dev.setEng_tbl (d : Dev) (k : Nat) (x : Engine) : (d.setEng k x).tbl = d.tbl := rfl
@[simp] theorem Dev.setEng_amlQ (d : Dev) (k : Nat) (x : Engine) : (d.setEng k x).amlQ = d.amlQ := rfl
@[simp] theorem Dev.setEng_aml (d : Dev) (k : Nat) (x : Engine) : (d.setEng k x).aml = d.aml := rfl
@[simp] theorem Dev.setEng_cmdqs (d : Dev) (k : Nat) (x : Engine) : (d.setEng k x).cmdqs = d.cmdqs := rfl
@[simp] theorem Dev.setEng_stageFrames (d : Dev) (k : Nat) (x : Engine) : (d.setEng k x).stageFrames = d.stageFrames := rfl
@[simp] theorem Dev.setEng_stageBytes (d : Dev) (k : Nat) (x : Engine) : (d.setEng k x).stageBytes = d.stageBytes := rfl
@[simp] theorem Dev.setEng_stageRegs (d : Dev) (k : Nat) (x : Engine) : (d.setEng k x).stageRegs = d.stageRegs := rfl
@[simp] theorem Dev.setEng_lists (d : Dev) (k : Nat) (x : Engine) : (d.setEng k x).lists = d.lists := rfl
@[simp] theorem Dev.setEng_members (d : Dev) (k : Nat) (x : Engine) : (d.setEng k x).members = d.members := rfl
@[simp] theorem Dev.setEng_links (d : Dev) (k : Nat) (x : Engine) : (d.setEng k x).links = d.links := rfl
@[simp] theorem Dev.setEng_linkErrs (d : Dev) (k : Nat) (x : Engine) : (d.setEng k x).linkErrs = d.linkErrs := rfl
@[simp] theorem Dev.setEng_senders (d : Dev) (k : Nat) (x : Engine) : (d.setEng k x).senders = d.senders := rfl
@[simp] theorem Dev.setEng_rsqs (d : Dev) (k : Nat) (x : Engine) : (d.setEng k x).rsqs = d.rsqs := rfl
@[simp] theorem Dev.setEng_admitQ (d : Dev) (k : Nat) (x : Engine) : (d.setEng k x).admitQ = d.admitQ := rfl
@[simp] theorem Dev.setEng_buf (d : Dev) (k : Nat) (x : Engine) : (d.setEng k x).buf = d.buf := rfl
@[simp] theorem Dev.setEng_tm (d : Dev) (k : Nat) (x : Engine) : (d.setEng k x).tm = d.tm := rfl
@[simp] theorem Dev.setEng_hbm (d : Dev) (k : Nat) (x : Engine) : (d.setEng k x).hbm = d.hbm := rfl
@[simp] theorem Dev.setEng_spill (d : Dev) (k : Nat) (x : Engine) : (d.setEng k x).spill = d.spill := rfl
@[simp] theorem Dev.setEng_wire (d : Dev) (k : Nat) (x : Engine) : (d.setEng k x).wire = d.wire := rfl
@[simp] theorem Dev.setEng_ae (d : Dev) (k : Nat) (x : Engine) : (d.setEng k x).ae = d.ae := rfl

/-! ## `Dev.setFrame` changes `frames` -/

@[simp] theorem Dev.setFrame_now (d : Dev) (f : Nat) (x : Frame) : (d.setFrame f x).now = d.now := rfl
@[simp] theorem Dev.setFrame_freeCount (d : Dev) (f : Nat) (x : Frame) : (d.setFrame f x).freeCount = d.freeCount := rfl
@[simp] theorem Dev.setFrame_regs (d : Dev) (f : Nat) (x : Frame) : (d.setFrame f x).regs = d.regs := rfl
@[simp] theorem Dev.setFrame_time (d : Dev) (f : Nat) (x : Frame) : (d.setFrame f x).time = d.time := rfl
@[simp] theorem Dev.setFrame_hosts (d : Dev) (f : Nat) (x : Frame) : (d.setFrame f x).hosts = d.hosts := rfl
@[simp] theorem Dev.setFrame_rings (d : Dev) (f : Nat) (x : Frame) : (d.setFrame f x).rings = d.rings := rfl
@[simp] theorem Dev.setFrame_ringQ (d : Dev) (f : Nat) (x : Frame) : (d.setFrame f x).ringQ = d.ringQ := rfl
@[simp] theorem Dev.setFrame_leases (d : Dev) (f : Nat) (x : Frame) : (d.setFrame f x).leases = d.leases := rfl
@[simp] theorem Dev.setFrame_bridge (d : Dev) (f : Nat) (x : Frame) : (d.setFrame f x).bridge = d.bridge := rfl
@[simp] theorem Dev.setFrame_fan (d : Dev) (f : Nat) (x : Frame) : (d.setFrame f x).fan = d.fan := rfl
@[simp] theorem Dev.setFrame_slices (d : Dev) (f : Nat) (x : Frame) : (d.setFrame f x).slices = d.slices := rfl
@[simp] theorem Dev.setFrame_loader (d : Dev) (f : Nat) (x : Frame) : (d.setFrame f x).loader = d.loader := rfl
@[simp] theorem Dev.setFrame_banks (d : Dev) (f : Nat) (x : Frame) : (d.setFrame f x).banks = d.banks := rfl
@[simp] theorem Dev.setFrame_epochs (d : Dev) (f : Nat) (x : Frame) : (d.setFrame f x).epochs = d.epochs := rfl
@[simp] theorem Dev.setFrame_vers (d : Dev) (f : Nat) (x : Frame) : (d.setFrame f x).vers = d.vers := rfl
@[simp] theorem Dev.setFrame_fuses (d : Dev) (f : Nat) (x : Frame) : (d.setFrame f x).fuses = d.fuses := rfl
@[simp] theorem Dev.setFrame_errs (d : Dev) (f : Nat) (x : Frame) : (d.setFrame f x).errs = d.errs := rfl
@[simp] theorem Dev.setFrame_stats (d : Dev) (f : Nat) (x : Frame) : (d.setFrame f x).stats = d.stats := rfl
@[simp] theorem Dev.setFrame_lports (d : Dev) (f : Nat) (x : Frame) : (d.setFrame f x).lports = d.lports := rfl
@[simp] theorem Dev.setFrame_pports (d : Dev) (f : Nat) (x : Frame) : (d.setFrame f x).pports = d.pports := rfl
@[simp] theorem Dev.setFrame_engines (d : Dev) (f : Nat) (x : Frame) : (d.setFrame f x).engines = d.engines := rfl
@[simp] theorem Dev.setFrame_nextFid (d : Dev) (f : Nat) (x : Frame) : (d.setFrame f x).nextFid = d.nextFid := rfl
@[simp] theorem Dev.setFrame_arrivals (d : Dev) (f : Nat) (x : Frame) : (d.setFrame f x).arrivals = d.arrivals := rfl
@[simp] theorem Dev.setFrame_grants (d : Dev) (f : Nat) (x : Frame) : (d.setFrame f x).grants = d.grants := rfl
@[simp] theorem Dev.setFrame_copies (d : Dev) (f : Nat) (x : Frame) : (d.setFrame f x).copies = d.copies := rfl
@[simp] theorem Dev.setFrame_nextCid (d : Dev) (f : Nat) (x : Frame) : (d.setFrame f x).nextCid = d.nextCid := rfl
@[simp] theorem Dev.setFrame_pfcRx (d : Dev) (f : Nat) (x : Frame) : (d.setFrame f x).pfcRx = d.pfcRx := rfl
@[simp] theorem Dev.setFrame_hoppers (d : Dev) (f : Nat) (x : Frame) : (d.setFrame f x).hoppers = d.hoppers := rfl
@[simp] theorem Dev.setFrame_isas (d : Dev) (f : Nat) (x : Frame) : (d.setFrame f x).isas = d.isas := rfl
@[simp] theorem Dev.setFrame_tbl (d : Dev) (f : Nat) (x : Frame) : (d.setFrame f x).tbl = d.tbl := rfl
@[simp] theorem Dev.setFrame_amlQ (d : Dev) (f : Nat) (x : Frame) : (d.setFrame f x).amlQ = d.amlQ := rfl
@[simp] theorem Dev.setFrame_aml (d : Dev) (f : Nat) (x : Frame) : (d.setFrame f x).aml = d.aml := rfl
@[simp] theorem Dev.setFrame_cmdqs (d : Dev) (f : Nat) (x : Frame) : (d.setFrame f x).cmdqs = d.cmdqs := rfl
@[simp] theorem Dev.setFrame_stageFrames (d : Dev) (f : Nat) (x : Frame) : (d.setFrame f x).stageFrames = d.stageFrames := rfl
@[simp] theorem Dev.setFrame_stageBytes (d : Dev) (f : Nat) (x : Frame) : (d.setFrame f x).stageBytes = d.stageBytes := rfl
@[simp] theorem Dev.setFrame_stageRegs (d : Dev) (f : Nat) (x : Frame) : (d.setFrame f x).stageRegs = d.stageRegs := rfl
@[simp] theorem Dev.setFrame_lists (d : Dev) (f : Nat) (x : Frame) : (d.setFrame f x).lists = d.lists := rfl
@[simp] theorem Dev.setFrame_members (d : Dev) (f : Nat) (x : Frame) : (d.setFrame f x).members = d.members := rfl
@[simp] theorem Dev.setFrame_links (d : Dev) (f : Nat) (x : Frame) : (d.setFrame f x).links = d.links := rfl
@[simp] theorem Dev.setFrame_linkErrs (d : Dev) (f : Nat) (x : Frame) : (d.setFrame f x).linkErrs = d.linkErrs := rfl
@[simp] theorem Dev.setFrame_senders (d : Dev) (f : Nat) (x : Frame) : (d.setFrame f x).senders = d.senders := rfl
@[simp] theorem Dev.setFrame_rsqs (d : Dev) (f : Nat) (x : Frame) : (d.setFrame f x).rsqs = d.rsqs := rfl
@[simp] theorem Dev.setFrame_admitQ (d : Dev) (f : Nat) (x : Frame) : (d.setFrame f x).admitQ = d.admitQ := rfl
@[simp] theorem Dev.setFrame_buf (d : Dev) (f : Nat) (x : Frame) : (d.setFrame f x).buf = d.buf := rfl
@[simp] theorem Dev.setFrame_tm (d : Dev) (f : Nat) (x : Frame) : (d.setFrame f x).tm = d.tm := rfl
@[simp] theorem Dev.setFrame_hbm (d : Dev) (f : Nat) (x : Frame) : (d.setFrame f x).hbm = d.hbm := rfl
@[simp] theorem Dev.setFrame_spill (d : Dev) (f : Nat) (x : Frame) : (d.setFrame f x).spill = d.spill := rfl
@[simp] theorem Dev.setFrame_wire (d : Dev) (f : Nat) (x : Frame) : (d.setFrame f x).wire = d.wire := rfl
@[simp] theorem Dev.setFrame_ae (d : Dev) (f : Nat) (x : Frame) : (d.setFrame f x).ae = d.ae := rfl

/-! ## `Dev.dropFrame` changes `frames` -/

@[simp] theorem Dev.dropFrame_now (d : Dev) (f : Nat) : (d.dropFrame f).now = d.now := rfl
@[simp] theorem Dev.dropFrame_freeCount (d : Dev) (f : Nat) : (d.dropFrame f).freeCount = d.freeCount := rfl
@[simp] theorem Dev.dropFrame_regs (d : Dev) (f : Nat) : (d.dropFrame f).regs = d.regs := rfl
@[simp] theorem Dev.dropFrame_time (d : Dev) (f : Nat) : (d.dropFrame f).time = d.time := rfl
@[simp] theorem Dev.dropFrame_hosts (d : Dev) (f : Nat) : (d.dropFrame f).hosts = d.hosts := rfl
@[simp] theorem Dev.dropFrame_rings (d : Dev) (f : Nat) : (d.dropFrame f).rings = d.rings := rfl
@[simp] theorem Dev.dropFrame_ringQ (d : Dev) (f : Nat) : (d.dropFrame f).ringQ = d.ringQ := rfl
@[simp] theorem Dev.dropFrame_leases (d : Dev) (f : Nat) : (d.dropFrame f).leases = d.leases := rfl
@[simp] theorem Dev.dropFrame_bridge (d : Dev) (f : Nat) : (d.dropFrame f).bridge = d.bridge := rfl
@[simp] theorem Dev.dropFrame_fan (d : Dev) (f : Nat) : (d.dropFrame f).fan = d.fan := rfl
@[simp] theorem Dev.dropFrame_slices (d : Dev) (f : Nat) : (d.dropFrame f).slices = d.slices := rfl
@[simp] theorem Dev.dropFrame_loader (d : Dev) (f : Nat) : (d.dropFrame f).loader = d.loader := rfl
@[simp] theorem Dev.dropFrame_banks (d : Dev) (f : Nat) : (d.dropFrame f).banks = d.banks := rfl
@[simp] theorem Dev.dropFrame_epochs (d : Dev) (f : Nat) : (d.dropFrame f).epochs = d.epochs := rfl
@[simp] theorem Dev.dropFrame_vers (d : Dev) (f : Nat) : (d.dropFrame f).vers = d.vers := rfl
@[simp] theorem Dev.dropFrame_fuses (d : Dev) (f : Nat) : (d.dropFrame f).fuses = d.fuses := rfl
@[simp] theorem Dev.dropFrame_errs (d : Dev) (f : Nat) : (d.dropFrame f).errs = d.errs := rfl
@[simp] theorem Dev.dropFrame_stats (d : Dev) (f : Nat) : (d.dropFrame f).stats = d.stats := rfl
@[simp] theorem Dev.dropFrame_lports (d : Dev) (f : Nat) : (d.dropFrame f).lports = d.lports := rfl
@[simp] theorem Dev.dropFrame_pports (d : Dev) (f : Nat) : (d.dropFrame f).pports = d.pports := rfl
@[simp] theorem Dev.dropFrame_engines (d : Dev) (f : Nat) : (d.dropFrame f).engines = d.engines := rfl
@[simp] theorem Dev.dropFrame_nextFid (d : Dev) (f : Nat) : (d.dropFrame f).nextFid = d.nextFid := rfl
@[simp] theorem Dev.dropFrame_arrivals (d : Dev) (f : Nat) : (d.dropFrame f).arrivals = d.arrivals := rfl
@[simp] theorem Dev.dropFrame_grants (d : Dev) (f : Nat) : (d.dropFrame f).grants = d.grants := rfl
@[simp] theorem Dev.dropFrame_copies (d : Dev) (f : Nat) : (d.dropFrame f).copies = d.copies := rfl
@[simp] theorem Dev.dropFrame_nextCid (d : Dev) (f : Nat) : (d.dropFrame f).nextCid = d.nextCid := rfl
@[simp] theorem Dev.dropFrame_pfcRx (d : Dev) (f : Nat) : (d.dropFrame f).pfcRx = d.pfcRx := rfl
@[simp] theorem Dev.dropFrame_hoppers (d : Dev) (f : Nat) : (d.dropFrame f).hoppers = d.hoppers := rfl
@[simp] theorem Dev.dropFrame_isas (d : Dev) (f : Nat) : (d.dropFrame f).isas = d.isas := rfl
@[simp] theorem Dev.dropFrame_tbl (d : Dev) (f : Nat) : (d.dropFrame f).tbl = d.tbl := rfl
@[simp] theorem Dev.dropFrame_amlQ (d : Dev) (f : Nat) : (d.dropFrame f).amlQ = d.amlQ := rfl
@[simp] theorem Dev.dropFrame_aml (d : Dev) (f : Nat) : (d.dropFrame f).aml = d.aml := rfl
@[simp] theorem Dev.dropFrame_cmdqs (d : Dev) (f : Nat) : (d.dropFrame f).cmdqs = d.cmdqs := rfl
@[simp] theorem Dev.dropFrame_stageFrames (d : Dev) (f : Nat) : (d.dropFrame f).stageFrames = d.stageFrames := rfl
@[simp] theorem Dev.dropFrame_stageBytes (d : Dev) (f : Nat) : (d.dropFrame f).stageBytes = d.stageBytes := rfl
@[simp] theorem Dev.dropFrame_stageRegs (d : Dev) (f : Nat) : (d.dropFrame f).stageRegs = d.stageRegs := rfl
@[simp] theorem Dev.dropFrame_lists (d : Dev) (f : Nat) : (d.dropFrame f).lists = d.lists := rfl
@[simp] theorem Dev.dropFrame_members (d : Dev) (f : Nat) : (d.dropFrame f).members = d.members := rfl
@[simp] theorem Dev.dropFrame_links (d : Dev) (f : Nat) : (d.dropFrame f).links = d.links := rfl
@[simp] theorem Dev.dropFrame_linkErrs (d : Dev) (f : Nat) : (d.dropFrame f).linkErrs = d.linkErrs := rfl
@[simp] theorem Dev.dropFrame_senders (d : Dev) (f : Nat) : (d.dropFrame f).senders = d.senders := rfl
@[simp] theorem Dev.dropFrame_rsqs (d : Dev) (f : Nat) : (d.dropFrame f).rsqs = d.rsqs := rfl
@[simp] theorem Dev.dropFrame_admitQ (d : Dev) (f : Nat) : (d.dropFrame f).admitQ = d.admitQ := rfl
@[simp] theorem Dev.dropFrame_buf (d : Dev) (f : Nat) : (d.dropFrame f).buf = d.buf := rfl
@[simp] theorem Dev.dropFrame_tm (d : Dev) (f : Nat) : (d.dropFrame f).tm = d.tm := rfl
@[simp] theorem Dev.dropFrame_hbm (d : Dev) (f : Nat) : (d.dropFrame f).hbm = d.hbm := rfl
@[simp] theorem Dev.dropFrame_spill (d : Dev) (f : Nat) : (d.dropFrame f).spill = d.spill := rfl
@[simp] theorem Dev.dropFrame_wire (d : Dev) (f : Nat) : (d.dropFrame f).wire = d.wire := rfl
@[simp] theorem Dev.dropFrame_ae (d : Dev) (f : Nat) : (d.dropFrame f).ae = d.ae := rfl

/-! ## `Dev.setCpy` changes `copies` -/

@[simp] theorem Dev.setCpy_now (d : Dev) (c : Nat) (x : Copy) : (d.setCpy c x).now = d.now := rfl
@[simp] theorem Dev.setCpy_freeCount (d : Dev) (c : Nat) (x : Copy) : (d.setCpy c x).freeCount = d.freeCount := rfl
@[simp] theorem Dev.setCpy_regs (d : Dev) (c : Nat) (x : Copy) : (d.setCpy c x).regs = d.regs := rfl
@[simp] theorem Dev.setCpy_time (d : Dev) (c : Nat) (x : Copy) : (d.setCpy c x).time = d.time := rfl
@[simp] theorem Dev.setCpy_hosts (d : Dev) (c : Nat) (x : Copy) : (d.setCpy c x).hosts = d.hosts := rfl
@[simp] theorem Dev.setCpy_rings (d : Dev) (c : Nat) (x : Copy) : (d.setCpy c x).rings = d.rings := rfl
@[simp] theorem Dev.setCpy_ringQ (d : Dev) (c : Nat) (x : Copy) : (d.setCpy c x).ringQ = d.ringQ := rfl
@[simp] theorem Dev.setCpy_leases (d : Dev) (c : Nat) (x : Copy) : (d.setCpy c x).leases = d.leases := rfl
@[simp] theorem Dev.setCpy_bridge (d : Dev) (c : Nat) (x : Copy) : (d.setCpy c x).bridge = d.bridge := rfl
@[simp] theorem Dev.setCpy_fan (d : Dev) (c : Nat) (x : Copy) : (d.setCpy c x).fan = d.fan := rfl
@[simp] theorem Dev.setCpy_slices (d : Dev) (c : Nat) (x : Copy) : (d.setCpy c x).slices = d.slices := rfl
@[simp] theorem Dev.setCpy_loader (d : Dev) (c : Nat) (x : Copy) : (d.setCpy c x).loader = d.loader := rfl
@[simp] theorem Dev.setCpy_banks (d : Dev) (c : Nat) (x : Copy) : (d.setCpy c x).banks = d.banks := rfl
@[simp] theorem Dev.setCpy_epochs (d : Dev) (c : Nat) (x : Copy) : (d.setCpy c x).epochs = d.epochs := rfl
@[simp] theorem Dev.setCpy_vers (d : Dev) (c : Nat) (x : Copy) : (d.setCpy c x).vers = d.vers := rfl
@[simp] theorem Dev.setCpy_fuses (d : Dev) (c : Nat) (x : Copy) : (d.setCpy c x).fuses = d.fuses := rfl
@[simp] theorem Dev.setCpy_errs (d : Dev) (c : Nat) (x : Copy) : (d.setCpy c x).errs = d.errs := rfl
@[simp] theorem Dev.setCpy_stats (d : Dev) (c : Nat) (x : Copy) : (d.setCpy c x).stats = d.stats := rfl
@[simp] theorem Dev.setCpy_lports (d : Dev) (c : Nat) (x : Copy) : (d.setCpy c x).lports = d.lports := rfl
@[simp] theorem Dev.setCpy_pports (d : Dev) (c : Nat) (x : Copy) : (d.setCpy c x).pports = d.pports := rfl
@[simp] theorem Dev.setCpy_engines (d : Dev) (c : Nat) (x : Copy) : (d.setCpy c x).engines = d.engines := rfl
@[simp] theorem Dev.setCpy_frames (d : Dev) (c : Nat) (x : Copy) : (d.setCpy c x).frames = d.frames := rfl
@[simp] theorem Dev.setCpy_nextFid (d : Dev) (c : Nat) (x : Copy) : (d.setCpy c x).nextFid = d.nextFid := rfl
@[simp] theorem Dev.setCpy_arrivals (d : Dev) (c : Nat) (x : Copy) : (d.setCpy c x).arrivals = d.arrivals := rfl
@[simp] theorem Dev.setCpy_grants (d : Dev) (c : Nat) (x : Copy) : (d.setCpy c x).grants = d.grants := rfl
@[simp] theorem Dev.setCpy_nextCid (d : Dev) (c : Nat) (x : Copy) : (d.setCpy c x).nextCid = d.nextCid := rfl
@[simp] theorem Dev.setCpy_pfcRx (d : Dev) (c : Nat) (x : Copy) : (d.setCpy c x).pfcRx = d.pfcRx := rfl
@[simp] theorem Dev.setCpy_hoppers (d : Dev) (c : Nat) (x : Copy) : (d.setCpy c x).hoppers = d.hoppers := rfl
@[simp] theorem Dev.setCpy_isas (d : Dev) (c : Nat) (x : Copy) : (d.setCpy c x).isas = d.isas := rfl
@[simp] theorem Dev.setCpy_tbl (d : Dev) (c : Nat) (x : Copy) : (d.setCpy c x).tbl = d.tbl := rfl
@[simp] theorem Dev.setCpy_amlQ (d : Dev) (c : Nat) (x : Copy) : (d.setCpy c x).amlQ = d.amlQ := rfl
@[simp] theorem Dev.setCpy_aml (d : Dev) (c : Nat) (x : Copy) : (d.setCpy c x).aml = d.aml := rfl
@[simp] theorem Dev.setCpy_cmdqs (d : Dev) (c : Nat) (x : Copy) : (d.setCpy c x).cmdqs = d.cmdqs := rfl
@[simp] theorem Dev.setCpy_stageFrames (d : Dev) (c : Nat) (x : Copy) : (d.setCpy c x).stageFrames = d.stageFrames := rfl
@[simp] theorem Dev.setCpy_stageBytes (d : Dev) (c : Nat) (x : Copy) : (d.setCpy c x).stageBytes = d.stageBytes := rfl
@[simp] theorem Dev.setCpy_stageRegs (d : Dev) (c : Nat) (x : Copy) : (d.setCpy c x).stageRegs = d.stageRegs := rfl
@[simp] theorem Dev.setCpy_lists (d : Dev) (c : Nat) (x : Copy) : (d.setCpy c x).lists = d.lists := rfl
@[simp] theorem Dev.setCpy_members (d : Dev) (c : Nat) (x : Copy) : (d.setCpy c x).members = d.members := rfl
@[simp] theorem Dev.setCpy_links (d : Dev) (c : Nat) (x : Copy) : (d.setCpy c x).links = d.links := rfl
@[simp] theorem Dev.setCpy_linkErrs (d : Dev) (c : Nat) (x : Copy) : (d.setCpy c x).linkErrs = d.linkErrs := rfl
@[simp] theorem Dev.setCpy_senders (d : Dev) (c : Nat) (x : Copy) : (d.setCpy c x).senders = d.senders := rfl
@[simp] theorem Dev.setCpy_rsqs (d : Dev) (c : Nat) (x : Copy) : (d.setCpy c x).rsqs = d.rsqs := rfl
@[simp] theorem Dev.setCpy_admitQ (d : Dev) (c : Nat) (x : Copy) : (d.setCpy c x).admitQ = d.admitQ := rfl
@[simp] theorem Dev.setCpy_buf (d : Dev) (c : Nat) (x : Copy) : (d.setCpy c x).buf = d.buf := rfl
@[simp] theorem Dev.setCpy_tm (d : Dev) (c : Nat) (x : Copy) : (d.setCpy c x).tm = d.tm := rfl
@[simp] theorem Dev.setCpy_hbm (d : Dev) (c : Nat) (x : Copy) : (d.setCpy c x).hbm = d.hbm := rfl
@[simp] theorem Dev.setCpy_spill (d : Dev) (c : Nat) (x : Copy) : (d.setCpy c x).spill = d.spill := rfl
@[simp] theorem Dev.setCpy_wire (d : Dev) (c : Nat) (x : Copy) : (d.setCpy c x).wire = d.wire := rfl
@[simp] theorem Dev.setCpy_ae (d : Dev) (c : Nat) (x : Copy) : (d.setCpy c x).ae = d.ae := rfl

/-! ## `Dev.dropCpy` changes `copies` -/

@[simp] theorem Dev.dropCpy_now (d : Dev) (c : Nat) : (d.dropCpy c).now = d.now := rfl
@[simp] theorem Dev.dropCpy_freeCount (d : Dev) (c : Nat) : (d.dropCpy c).freeCount = d.freeCount := rfl
@[simp] theorem Dev.dropCpy_regs (d : Dev) (c : Nat) : (d.dropCpy c).regs = d.regs := rfl
@[simp] theorem Dev.dropCpy_time (d : Dev) (c : Nat) : (d.dropCpy c).time = d.time := rfl
@[simp] theorem Dev.dropCpy_hosts (d : Dev) (c : Nat) : (d.dropCpy c).hosts = d.hosts := rfl
@[simp] theorem Dev.dropCpy_rings (d : Dev) (c : Nat) : (d.dropCpy c).rings = d.rings := rfl
@[simp] theorem Dev.dropCpy_ringQ (d : Dev) (c : Nat) : (d.dropCpy c).ringQ = d.ringQ := rfl
@[simp] theorem Dev.dropCpy_leases (d : Dev) (c : Nat) : (d.dropCpy c).leases = d.leases := rfl
@[simp] theorem Dev.dropCpy_bridge (d : Dev) (c : Nat) : (d.dropCpy c).bridge = d.bridge := rfl
@[simp] theorem Dev.dropCpy_fan (d : Dev) (c : Nat) : (d.dropCpy c).fan = d.fan := rfl
@[simp] theorem Dev.dropCpy_slices (d : Dev) (c : Nat) : (d.dropCpy c).slices = d.slices := rfl
@[simp] theorem Dev.dropCpy_loader (d : Dev) (c : Nat) : (d.dropCpy c).loader = d.loader := rfl
@[simp] theorem Dev.dropCpy_banks (d : Dev) (c : Nat) : (d.dropCpy c).banks = d.banks := rfl
@[simp] theorem Dev.dropCpy_epochs (d : Dev) (c : Nat) : (d.dropCpy c).epochs = d.epochs := rfl
@[simp] theorem Dev.dropCpy_vers (d : Dev) (c : Nat) : (d.dropCpy c).vers = d.vers := rfl
@[simp] theorem Dev.dropCpy_fuses (d : Dev) (c : Nat) : (d.dropCpy c).fuses = d.fuses := rfl
@[simp] theorem Dev.dropCpy_errs (d : Dev) (c : Nat) : (d.dropCpy c).errs = d.errs := rfl
@[simp] theorem Dev.dropCpy_stats (d : Dev) (c : Nat) : (d.dropCpy c).stats = d.stats := rfl
@[simp] theorem Dev.dropCpy_lports (d : Dev) (c : Nat) : (d.dropCpy c).lports = d.lports := rfl
@[simp] theorem Dev.dropCpy_pports (d : Dev) (c : Nat) : (d.dropCpy c).pports = d.pports := rfl
@[simp] theorem Dev.dropCpy_engines (d : Dev) (c : Nat) : (d.dropCpy c).engines = d.engines := rfl
@[simp] theorem Dev.dropCpy_frames (d : Dev) (c : Nat) : (d.dropCpy c).frames = d.frames := rfl
@[simp] theorem Dev.dropCpy_nextFid (d : Dev) (c : Nat) : (d.dropCpy c).nextFid = d.nextFid := rfl
@[simp] theorem Dev.dropCpy_arrivals (d : Dev) (c : Nat) : (d.dropCpy c).arrivals = d.arrivals := rfl
@[simp] theorem Dev.dropCpy_grants (d : Dev) (c : Nat) : (d.dropCpy c).grants = d.grants := rfl
@[simp] theorem Dev.dropCpy_nextCid (d : Dev) (c : Nat) : (d.dropCpy c).nextCid = d.nextCid := rfl
@[simp] theorem Dev.dropCpy_pfcRx (d : Dev) (c : Nat) : (d.dropCpy c).pfcRx = d.pfcRx := rfl
@[simp] theorem Dev.dropCpy_hoppers (d : Dev) (c : Nat) : (d.dropCpy c).hoppers = d.hoppers := rfl
@[simp] theorem Dev.dropCpy_isas (d : Dev) (c : Nat) : (d.dropCpy c).isas = d.isas := rfl
@[simp] theorem Dev.dropCpy_tbl (d : Dev) (c : Nat) : (d.dropCpy c).tbl = d.tbl := rfl
@[simp] theorem Dev.dropCpy_amlQ (d : Dev) (c : Nat) : (d.dropCpy c).amlQ = d.amlQ := rfl
@[simp] theorem Dev.dropCpy_aml (d : Dev) (c : Nat) : (d.dropCpy c).aml = d.aml := rfl
@[simp] theorem Dev.dropCpy_cmdqs (d : Dev) (c : Nat) : (d.dropCpy c).cmdqs = d.cmdqs := rfl
@[simp] theorem Dev.dropCpy_stageFrames (d : Dev) (c : Nat) : (d.dropCpy c).stageFrames = d.stageFrames := rfl
@[simp] theorem Dev.dropCpy_stageBytes (d : Dev) (c : Nat) : (d.dropCpy c).stageBytes = d.stageBytes := rfl
@[simp] theorem Dev.dropCpy_stageRegs (d : Dev) (c : Nat) : (d.dropCpy c).stageRegs = d.stageRegs := rfl
@[simp] theorem Dev.dropCpy_lists (d : Dev) (c : Nat) : (d.dropCpy c).lists = d.lists := rfl
@[simp] theorem Dev.dropCpy_members (d : Dev) (c : Nat) : (d.dropCpy c).members = d.members := rfl
@[simp] theorem Dev.dropCpy_links (d : Dev) (c : Nat) : (d.dropCpy c).links = d.links := rfl
@[simp] theorem Dev.dropCpy_linkErrs (d : Dev) (c : Nat) : (d.dropCpy c).linkErrs = d.linkErrs := rfl
@[simp] theorem Dev.dropCpy_senders (d : Dev) (c : Nat) : (d.dropCpy c).senders = d.senders := rfl
@[simp] theorem Dev.dropCpy_rsqs (d : Dev) (c : Nat) : (d.dropCpy c).rsqs = d.rsqs := rfl
@[simp] theorem Dev.dropCpy_admitQ (d : Dev) (c : Nat) : (d.dropCpy c).admitQ = d.admitQ := rfl
@[simp] theorem Dev.dropCpy_buf (d : Dev) (c : Nat) : (d.dropCpy c).buf = d.buf := rfl
@[simp] theorem Dev.dropCpy_tm (d : Dev) (c : Nat) : (d.dropCpy c).tm = d.tm := rfl
@[simp] theorem Dev.dropCpy_hbm (d : Dev) (c : Nat) : (d.dropCpy c).hbm = d.hbm := rfl
@[simp] theorem Dev.dropCpy_spill (d : Dev) (c : Nat) : (d.dropCpy c).spill = d.spill := rfl
@[simp] theorem Dev.dropCpy_wire (d : Dev) (c : Nat) : (d.dropCpy c).wire = d.wire := rfl
@[simp] theorem Dev.dropCpy_ae (d : Dev) (c : Nat) : (d.dropCpy c).ae = d.ae := rfl

/-! ## `Dev.setHop` changes `hoppers` -/

@[simp] theorem Dev.setHop_now (d : Dev) (q : Nat) (x : Hopper) : (d.setHop q x).now = d.now := rfl
@[simp] theorem Dev.setHop_freeCount (d : Dev) (q : Nat) (x : Hopper) : (d.setHop q x).freeCount = d.freeCount := rfl
@[simp] theorem Dev.setHop_regs (d : Dev) (q : Nat) (x : Hopper) : (d.setHop q x).regs = d.regs := rfl
@[simp] theorem Dev.setHop_time (d : Dev) (q : Nat) (x : Hopper) : (d.setHop q x).time = d.time := rfl
@[simp] theorem Dev.setHop_hosts (d : Dev) (q : Nat) (x : Hopper) : (d.setHop q x).hosts = d.hosts := rfl
@[simp] theorem Dev.setHop_rings (d : Dev) (q : Nat) (x : Hopper) : (d.setHop q x).rings = d.rings := rfl
@[simp] theorem Dev.setHop_ringQ (d : Dev) (q : Nat) (x : Hopper) : (d.setHop q x).ringQ = d.ringQ := rfl
@[simp] theorem Dev.setHop_leases (d : Dev) (q : Nat) (x : Hopper) : (d.setHop q x).leases = d.leases := rfl
@[simp] theorem Dev.setHop_bridge (d : Dev) (q : Nat) (x : Hopper) : (d.setHop q x).bridge = d.bridge := rfl
@[simp] theorem Dev.setHop_fan (d : Dev) (q : Nat) (x : Hopper) : (d.setHop q x).fan = d.fan := rfl
@[simp] theorem Dev.setHop_slices (d : Dev) (q : Nat) (x : Hopper) : (d.setHop q x).slices = d.slices := rfl
@[simp] theorem Dev.setHop_loader (d : Dev) (q : Nat) (x : Hopper) : (d.setHop q x).loader = d.loader := rfl
@[simp] theorem Dev.setHop_banks (d : Dev) (q : Nat) (x : Hopper) : (d.setHop q x).banks = d.banks := rfl
@[simp] theorem Dev.setHop_epochs (d : Dev) (q : Nat) (x : Hopper) : (d.setHop q x).epochs = d.epochs := rfl
@[simp] theorem Dev.setHop_vers (d : Dev) (q : Nat) (x : Hopper) : (d.setHop q x).vers = d.vers := rfl
@[simp] theorem Dev.setHop_fuses (d : Dev) (q : Nat) (x : Hopper) : (d.setHop q x).fuses = d.fuses := rfl
@[simp] theorem Dev.setHop_errs (d : Dev) (q : Nat) (x : Hopper) : (d.setHop q x).errs = d.errs := rfl
@[simp] theorem Dev.setHop_stats (d : Dev) (q : Nat) (x : Hopper) : (d.setHop q x).stats = d.stats := rfl
@[simp] theorem Dev.setHop_lports (d : Dev) (q : Nat) (x : Hopper) : (d.setHop q x).lports = d.lports := rfl
@[simp] theorem Dev.setHop_pports (d : Dev) (q : Nat) (x : Hopper) : (d.setHop q x).pports = d.pports := rfl
@[simp] theorem Dev.setHop_engines (d : Dev) (q : Nat) (x : Hopper) : (d.setHop q x).engines = d.engines := rfl
@[simp] theorem Dev.setHop_frames (d : Dev) (q : Nat) (x : Hopper) : (d.setHop q x).frames = d.frames := rfl
@[simp] theorem Dev.setHop_nextFid (d : Dev) (q : Nat) (x : Hopper) : (d.setHop q x).nextFid = d.nextFid := rfl
@[simp] theorem Dev.setHop_arrivals (d : Dev) (q : Nat) (x : Hopper) : (d.setHop q x).arrivals = d.arrivals := rfl
@[simp] theorem Dev.setHop_grants (d : Dev) (q : Nat) (x : Hopper) : (d.setHop q x).grants = d.grants := rfl
@[simp] theorem Dev.setHop_copies (d : Dev) (q : Nat) (x : Hopper) : (d.setHop q x).copies = d.copies := rfl
@[simp] theorem Dev.setHop_nextCid (d : Dev) (q : Nat) (x : Hopper) : (d.setHop q x).nextCid = d.nextCid := rfl
@[simp] theorem Dev.setHop_pfcRx (d : Dev) (q : Nat) (x : Hopper) : (d.setHop q x).pfcRx = d.pfcRx := rfl
@[simp] theorem Dev.setHop_isas (d : Dev) (q : Nat) (x : Hopper) : (d.setHop q x).isas = d.isas := rfl
@[simp] theorem Dev.setHop_tbl (d : Dev) (q : Nat) (x : Hopper) : (d.setHop q x).tbl = d.tbl := rfl
@[simp] theorem Dev.setHop_amlQ (d : Dev) (q : Nat) (x : Hopper) : (d.setHop q x).amlQ = d.amlQ := rfl
@[simp] theorem Dev.setHop_aml (d : Dev) (q : Nat) (x : Hopper) : (d.setHop q x).aml = d.aml := rfl
@[simp] theorem Dev.setHop_cmdqs (d : Dev) (q : Nat) (x : Hopper) : (d.setHop q x).cmdqs = d.cmdqs := rfl
@[simp] theorem Dev.setHop_stageFrames (d : Dev) (q : Nat) (x : Hopper) : (d.setHop q x).stageFrames = d.stageFrames := rfl
@[simp] theorem Dev.setHop_stageBytes (d : Dev) (q : Nat) (x : Hopper) : (d.setHop q x).stageBytes = d.stageBytes := rfl
@[simp] theorem Dev.setHop_stageRegs (d : Dev) (q : Nat) (x : Hopper) : (d.setHop q x).stageRegs = d.stageRegs := rfl
@[simp] theorem Dev.setHop_lists (d : Dev) (q : Nat) (x : Hopper) : (d.setHop q x).lists = d.lists := rfl
@[simp] theorem Dev.setHop_members (d : Dev) (q : Nat) (x : Hopper) : (d.setHop q x).members = d.members := rfl
@[simp] theorem Dev.setHop_links (d : Dev) (q : Nat) (x : Hopper) : (d.setHop q x).links = d.links := rfl
@[simp] theorem Dev.setHop_linkErrs (d : Dev) (q : Nat) (x : Hopper) : (d.setHop q x).linkErrs = d.linkErrs := rfl
@[simp] theorem Dev.setHop_senders (d : Dev) (q : Nat) (x : Hopper) : (d.setHop q x).senders = d.senders := rfl
@[simp] theorem Dev.setHop_rsqs (d : Dev) (q : Nat) (x : Hopper) : (d.setHop q x).rsqs = d.rsqs := rfl
@[simp] theorem Dev.setHop_admitQ (d : Dev) (q : Nat) (x : Hopper) : (d.setHop q x).admitQ = d.admitQ := rfl
@[simp] theorem Dev.setHop_buf (d : Dev) (q : Nat) (x : Hopper) : (d.setHop q x).buf = d.buf := rfl
@[simp] theorem Dev.setHop_tm (d : Dev) (q : Nat) (x : Hopper) : (d.setHop q x).tm = d.tm := rfl
@[simp] theorem Dev.setHop_hbm (d : Dev) (q : Nat) (x : Hopper) : (d.setHop q x).hbm = d.hbm := rfl
@[simp] theorem Dev.setHop_spill (d : Dev) (q : Nat) (x : Hopper) : (d.setHop q x).spill = d.spill := rfl
@[simp] theorem Dev.setHop_wire (d : Dev) (q : Nat) (x : Hopper) : (d.setHop q x).wire = d.wire := rfl
@[simp] theorem Dev.setHop_ae (d : Dev) (q : Nat) (x : Hopper) : (d.setHop q x).ae = d.ae := rfl

/-! ## `Dev.setIsa` changes `isas` -/

@[simp] theorem Dev.setIsa_now (d : Dev) (p : Nat) (x : Isa) : (d.setIsa p x).now = d.now := rfl
@[simp] theorem Dev.setIsa_freeCount (d : Dev) (p : Nat) (x : Isa) : (d.setIsa p x).freeCount = d.freeCount := rfl
@[simp] theorem Dev.setIsa_regs (d : Dev) (p : Nat) (x : Isa) : (d.setIsa p x).regs = d.regs := rfl
@[simp] theorem Dev.setIsa_time (d : Dev) (p : Nat) (x : Isa) : (d.setIsa p x).time = d.time := rfl
@[simp] theorem Dev.setIsa_hosts (d : Dev) (p : Nat) (x : Isa) : (d.setIsa p x).hosts = d.hosts := rfl
@[simp] theorem Dev.setIsa_rings (d : Dev) (p : Nat) (x : Isa) : (d.setIsa p x).rings = d.rings := rfl
@[simp] theorem Dev.setIsa_ringQ (d : Dev) (p : Nat) (x : Isa) : (d.setIsa p x).ringQ = d.ringQ := rfl
@[simp] theorem Dev.setIsa_leases (d : Dev) (p : Nat) (x : Isa) : (d.setIsa p x).leases = d.leases := rfl
@[simp] theorem Dev.setIsa_bridge (d : Dev) (p : Nat) (x : Isa) : (d.setIsa p x).bridge = d.bridge := rfl
@[simp] theorem Dev.setIsa_fan (d : Dev) (p : Nat) (x : Isa) : (d.setIsa p x).fan = d.fan := rfl
@[simp] theorem Dev.setIsa_slices (d : Dev) (p : Nat) (x : Isa) : (d.setIsa p x).slices = d.slices := rfl
@[simp] theorem Dev.setIsa_loader (d : Dev) (p : Nat) (x : Isa) : (d.setIsa p x).loader = d.loader := rfl
@[simp] theorem Dev.setIsa_banks (d : Dev) (p : Nat) (x : Isa) : (d.setIsa p x).banks = d.banks := rfl
@[simp] theorem Dev.setIsa_epochs (d : Dev) (p : Nat) (x : Isa) : (d.setIsa p x).epochs = d.epochs := rfl
@[simp] theorem Dev.setIsa_vers (d : Dev) (p : Nat) (x : Isa) : (d.setIsa p x).vers = d.vers := rfl
@[simp] theorem Dev.setIsa_fuses (d : Dev) (p : Nat) (x : Isa) : (d.setIsa p x).fuses = d.fuses := rfl
@[simp] theorem Dev.setIsa_errs (d : Dev) (p : Nat) (x : Isa) : (d.setIsa p x).errs = d.errs := rfl
@[simp] theorem Dev.setIsa_stats (d : Dev) (p : Nat) (x : Isa) : (d.setIsa p x).stats = d.stats := rfl
@[simp] theorem Dev.setIsa_lports (d : Dev) (p : Nat) (x : Isa) : (d.setIsa p x).lports = d.lports := rfl
@[simp] theorem Dev.setIsa_pports (d : Dev) (p : Nat) (x : Isa) : (d.setIsa p x).pports = d.pports := rfl
@[simp] theorem Dev.setIsa_engines (d : Dev) (p : Nat) (x : Isa) : (d.setIsa p x).engines = d.engines := rfl
@[simp] theorem Dev.setIsa_frames (d : Dev) (p : Nat) (x : Isa) : (d.setIsa p x).frames = d.frames := rfl
@[simp] theorem Dev.setIsa_nextFid (d : Dev) (p : Nat) (x : Isa) : (d.setIsa p x).nextFid = d.nextFid := rfl
@[simp] theorem Dev.setIsa_arrivals (d : Dev) (p : Nat) (x : Isa) : (d.setIsa p x).arrivals = d.arrivals := rfl
@[simp] theorem Dev.setIsa_grants (d : Dev) (p : Nat) (x : Isa) : (d.setIsa p x).grants = d.grants := rfl
@[simp] theorem Dev.setIsa_copies (d : Dev) (p : Nat) (x : Isa) : (d.setIsa p x).copies = d.copies := rfl
@[simp] theorem Dev.setIsa_nextCid (d : Dev) (p : Nat) (x : Isa) : (d.setIsa p x).nextCid = d.nextCid := rfl
@[simp] theorem Dev.setIsa_pfcRx (d : Dev) (p : Nat) (x : Isa) : (d.setIsa p x).pfcRx = d.pfcRx := rfl
@[simp] theorem Dev.setIsa_hoppers (d : Dev) (p : Nat) (x : Isa) : (d.setIsa p x).hoppers = d.hoppers := rfl
@[simp] theorem Dev.setIsa_tbl (d : Dev) (p : Nat) (x : Isa) : (d.setIsa p x).tbl = d.tbl := rfl
@[simp] theorem Dev.setIsa_amlQ (d : Dev) (p : Nat) (x : Isa) : (d.setIsa p x).amlQ = d.amlQ := rfl
@[simp] theorem Dev.setIsa_aml (d : Dev) (p : Nat) (x : Isa) : (d.setIsa p x).aml = d.aml := rfl
@[simp] theorem Dev.setIsa_cmdqs (d : Dev) (p : Nat) (x : Isa) : (d.setIsa p x).cmdqs = d.cmdqs := rfl
@[simp] theorem Dev.setIsa_stageFrames (d : Dev) (p : Nat) (x : Isa) : (d.setIsa p x).stageFrames = d.stageFrames := rfl
@[simp] theorem Dev.setIsa_stageBytes (d : Dev) (p : Nat) (x : Isa) : (d.setIsa p x).stageBytes = d.stageBytes := rfl
@[simp] theorem Dev.setIsa_stageRegs (d : Dev) (p : Nat) (x : Isa) : (d.setIsa p x).stageRegs = d.stageRegs := rfl
@[simp] theorem Dev.setIsa_lists (d : Dev) (p : Nat) (x : Isa) : (d.setIsa p x).lists = d.lists := rfl
@[simp] theorem Dev.setIsa_members (d : Dev) (p : Nat) (x : Isa) : (d.setIsa p x).members = d.members := rfl
@[simp] theorem Dev.setIsa_links (d : Dev) (p : Nat) (x : Isa) : (d.setIsa p x).links = d.links := rfl
@[simp] theorem Dev.setIsa_linkErrs (d : Dev) (p : Nat) (x : Isa) : (d.setIsa p x).linkErrs = d.linkErrs := rfl
@[simp] theorem Dev.setIsa_senders (d : Dev) (p : Nat) (x : Isa) : (d.setIsa p x).senders = d.senders := rfl
@[simp] theorem Dev.setIsa_rsqs (d : Dev) (p : Nat) (x : Isa) : (d.setIsa p x).rsqs = d.rsqs := rfl
@[simp] theorem Dev.setIsa_admitQ (d : Dev) (p : Nat) (x : Isa) : (d.setIsa p x).admitQ = d.admitQ := rfl
@[simp] theorem Dev.setIsa_buf (d : Dev) (p : Nat) (x : Isa) : (d.setIsa p x).buf = d.buf := rfl
@[simp] theorem Dev.setIsa_tm (d : Dev) (p : Nat) (x : Isa) : (d.setIsa p x).tm = d.tm := rfl
@[simp] theorem Dev.setIsa_hbm (d : Dev) (p : Nat) (x : Isa) : (d.setIsa p x).hbm = d.hbm := rfl
@[simp] theorem Dev.setIsa_spill (d : Dev) (p : Nat) (x : Isa) : (d.setIsa p x).spill = d.spill := rfl
@[simp] theorem Dev.setIsa_wire (d : Dev) (p : Nat) (x : Isa) : (d.setIsa p x).wire = d.wire := rfl
@[simp] theorem Dev.setIsa_ae (d : Dev) (p : Nat) (x : Isa) : (d.setIsa p x).ae = d.ae := rfl

/-! ## `Dev.setRing` changes `rings` -/

@[simp] theorem Dev.setRing_now (d : Dev) (k : Nat) (x : RingState) : (d.setRing k x).now = d.now := rfl
@[simp] theorem Dev.setRing_freeCount (d : Dev) (k : Nat) (x : RingState) : (d.setRing k x).freeCount = d.freeCount := rfl
@[simp] theorem Dev.setRing_regs (d : Dev) (k : Nat) (x : RingState) : (d.setRing k x).regs = d.regs := rfl
@[simp] theorem Dev.setRing_time (d : Dev) (k : Nat) (x : RingState) : (d.setRing k x).time = d.time := rfl
@[simp] theorem Dev.setRing_hosts (d : Dev) (k : Nat) (x : RingState) : (d.setRing k x).hosts = d.hosts := rfl
@[simp] theorem Dev.setRing_ringQ (d : Dev) (k : Nat) (x : RingState) : (d.setRing k x).ringQ = d.ringQ := rfl
@[simp] theorem Dev.setRing_leases (d : Dev) (k : Nat) (x : RingState) : (d.setRing k x).leases = d.leases := rfl
@[simp] theorem Dev.setRing_bridge (d : Dev) (k : Nat) (x : RingState) : (d.setRing k x).bridge = d.bridge := rfl
@[simp] theorem Dev.setRing_fan (d : Dev) (k : Nat) (x : RingState) : (d.setRing k x).fan = d.fan := rfl
@[simp] theorem Dev.setRing_slices (d : Dev) (k : Nat) (x : RingState) : (d.setRing k x).slices = d.slices := rfl
@[simp] theorem Dev.setRing_loader (d : Dev) (k : Nat) (x : RingState) : (d.setRing k x).loader = d.loader := rfl
@[simp] theorem Dev.setRing_banks (d : Dev) (k : Nat) (x : RingState) : (d.setRing k x).banks = d.banks := rfl
@[simp] theorem Dev.setRing_epochs (d : Dev) (k : Nat) (x : RingState) : (d.setRing k x).epochs = d.epochs := rfl
@[simp] theorem Dev.setRing_vers (d : Dev) (k : Nat) (x : RingState) : (d.setRing k x).vers = d.vers := rfl
@[simp] theorem Dev.setRing_fuses (d : Dev) (k : Nat) (x : RingState) : (d.setRing k x).fuses = d.fuses := rfl
@[simp] theorem Dev.setRing_errs (d : Dev) (k : Nat) (x : RingState) : (d.setRing k x).errs = d.errs := rfl
@[simp] theorem Dev.setRing_stats (d : Dev) (k : Nat) (x : RingState) : (d.setRing k x).stats = d.stats := rfl
@[simp] theorem Dev.setRing_lports (d : Dev) (k : Nat) (x : RingState) : (d.setRing k x).lports = d.lports := rfl
@[simp] theorem Dev.setRing_pports (d : Dev) (k : Nat) (x : RingState) : (d.setRing k x).pports = d.pports := rfl
@[simp] theorem Dev.setRing_engines (d : Dev) (k : Nat) (x : RingState) : (d.setRing k x).engines = d.engines := rfl
@[simp] theorem Dev.setRing_frames (d : Dev) (k : Nat) (x : RingState) : (d.setRing k x).frames = d.frames := rfl
@[simp] theorem Dev.setRing_nextFid (d : Dev) (k : Nat) (x : RingState) : (d.setRing k x).nextFid = d.nextFid := rfl
@[simp] theorem Dev.setRing_arrivals (d : Dev) (k : Nat) (x : RingState) : (d.setRing k x).arrivals = d.arrivals := rfl
@[simp] theorem Dev.setRing_grants (d : Dev) (k : Nat) (x : RingState) : (d.setRing k x).grants = d.grants := rfl
@[simp] theorem Dev.setRing_copies (d : Dev) (k : Nat) (x : RingState) : (d.setRing k x).copies = d.copies := rfl
@[simp] theorem Dev.setRing_nextCid (d : Dev) (k : Nat) (x : RingState) : (d.setRing k x).nextCid = d.nextCid := rfl
@[simp] theorem Dev.setRing_pfcRx (d : Dev) (k : Nat) (x : RingState) : (d.setRing k x).pfcRx = d.pfcRx := rfl
@[simp] theorem Dev.setRing_hoppers (d : Dev) (k : Nat) (x : RingState) : (d.setRing k x).hoppers = d.hoppers := rfl
@[simp] theorem Dev.setRing_isas (d : Dev) (k : Nat) (x : RingState) : (d.setRing k x).isas = d.isas := rfl
@[simp] theorem Dev.setRing_tbl (d : Dev) (k : Nat) (x : RingState) : (d.setRing k x).tbl = d.tbl := rfl
@[simp] theorem Dev.setRing_amlQ (d : Dev) (k : Nat) (x : RingState) : (d.setRing k x).amlQ = d.amlQ := rfl
@[simp] theorem Dev.setRing_aml (d : Dev) (k : Nat) (x : RingState) : (d.setRing k x).aml = d.aml := rfl
@[simp] theorem Dev.setRing_cmdqs (d : Dev) (k : Nat) (x : RingState) : (d.setRing k x).cmdqs = d.cmdqs := rfl
@[simp] theorem Dev.setRing_stageFrames (d : Dev) (k : Nat) (x : RingState) : (d.setRing k x).stageFrames = d.stageFrames := rfl
@[simp] theorem Dev.setRing_stageBytes (d : Dev) (k : Nat) (x : RingState) : (d.setRing k x).stageBytes = d.stageBytes := rfl
@[simp] theorem Dev.setRing_stageRegs (d : Dev) (k : Nat) (x : RingState) : (d.setRing k x).stageRegs = d.stageRegs := rfl
@[simp] theorem Dev.setRing_lists (d : Dev) (k : Nat) (x : RingState) : (d.setRing k x).lists = d.lists := rfl
@[simp] theorem Dev.setRing_members (d : Dev) (k : Nat) (x : RingState) : (d.setRing k x).members = d.members := rfl
@[simp] theorem Dev.setRing_links (d : Dev) (k : Nat) (x : RingState) : (d.setRing k x).links = d.links := rfl
@[simp] theorem Dev.setRing_linkErrs (d : Dev) (k : Nat) (x : RingState) : (d.setRing k x).linkErrs = d.linkErrs := rfl
@[simp] theorem Dev.setRing_senders (d : Dev) (k : Nat) (x : RingState) : (d.setRing k x).senders = d.senders := rfl
@[simp] theorem Dev.setRing_rsqs (d : Dev) (k : Nat) (x : RingState) : (d.setRing k x).rsqs = d.rsqs := rfl
@[simp] theorem Dev.setRing_admitQ (d : Dev) (k : Nat) (x : RingState) : (d.setRing k x).admitQ = d.admitQ := rfl
@[simp] theorem Dev.setRing_buf (d : Dev) (k : Nat) (x : RingState) : (d.setRing k x).buf = d.buf := rfl
@[simp] theorem Dev.setRing_tm (d : Dev) (k : Nat) (x : RingState) : (d.setRing k x).tm = d.tm := rfl
@[simp] theorem Dev.setRing_hbm (d : Dev) (k : Nat) (x : RingState) : (d.setRing k x).hbm = d.hbm := rfl
@[simp] theorem Dev.setRing_spill (d : Dev) (k : Nat) (x : RingState) : (d.setRing k x).spill = d.spill := rfl
@[simp] theorem Dev.setRing_wire (d : Dev) (k : Nat) (x : RingState) : (d.setRing k x).wire = d.wire := rfl
@[simp] theorem Dev.setRing_ae (d : Dev) (k : Nat) (x : RingState) : (d.setRing k x).ae = d.ae := rfl

/-! ## `Dev.setSnd` changes `senders` -/

@[simp] theorem Dev.setSnd_now (d : Dev) (k : Nat) (x : Sender) : (d.setSnd k x).now = d.now := rfl
@[simp] theorem Dev.setSnd_freeCount (d : Dev) (k : Nat) (x : Sender) : (d.setSnd k x).freeCount = d.freeCount := rfl
@[simp] theorem Dev.setSnd_regs (d : Dev) (k : Nat) (x : Sender) : (d.setSnd k x).regs = d.regs := rfl
@[simp] theorem Dev.setSnd_time (d : Dev) (k : Nat) (x : Sender) : (d.setSnd k x).time = d.time := rfl
@[simp] theorem Dev.setSnd_hosts (d : Dev) (k : Nat) (x : Sender) : (d.setSnd k x).hosts = d.hosts := rfl
@[simp] theorem Dev.setSnd_rings (d : Dev) (k : Nat) (x : Sender) : (d.setSnd k x).rings = d.rings := rfl
@[simp] theorem Dev.setSnd_ringQ (d : Dev) (k : Nat) (x : Sender) : (d.setSnd k x).ringQ = d.ringQ := rfl
@[simp] theorem Dev.setSnd_leases (d : Dev) (k : Nat) (x : Sender) : (d.setSnd k x).leases = d.leases := rfl
@[simp] theorem Dev.setSnd_bridge (d : Dev) (k : Nat) (x : Sender) : (d.setSnd k x).bridge = d.bridge := rfl
@[simp] theorem Dev.setSnd_fan (d : Dev) (k : Nat) (x : Sender) : (d.setSnd k x).fan = d.fan := rfl
@[simp] theorem Dev.setSnd_slices (d : Dev) (k : Nat) (x : Sender) : (d.setSnd k x).slices = d.slices := rfl
@[simp] theorem Dev.setSnd_loader (d : Dev) (k : Nat) (x : Sender) : (d.setSnd k x).loader = d.loader := rfl
@[simp] theorem Dev.setSnd_banks (d : Dev) (k : Nat) (x : Sender) : (d.setSnd k x).banks = d.banks := rfl
@[simp] theorem Dev.setSnd_epochs (d : Dev) (k : Nat) (x : Sender) : (d.setSnd k x).epochs = d.epochs := rfl
@[simp] theorem Dev.setSnd_vers (d : Dev) (k : Nat) (x : Sender) : (d.setSnd k x).vers = d.vers := rfl
@[simp] theorem Dev.setSnd_fuses (d : Dev) (k : Nat) (x : Sender) : (d.setSnd k x).fuses = d.fuses := rfl
@[simp] theorem Dev.setSnd_errs (d : Dev) (k : Nat) (x : Sender) : (d.setSnd k x).errs = d.errs := rfl
@[simp] theorem Dev.setSnd_stats (d : Dev) (k : Nat) (x : Sender) : (d.setSnd k x).stats = d.stats := rfl
@[simp] theorem Dev.setSnd_lports (d : Dev) (k : Nat) (x : Sender) : (d.setSnd k x).lports = d.lports := rfl
@[simp] theorem Dev.setSnd_pports (d : Dev) (k : Nat) (x : Sender) : (d.setSnd k x).pports = d.pports := rfl
@[simp] theorem Dev.setSnd_engines (d : Dev) (k : Nat) (x : Sender) : (d.setSnd k x).engines = d.engines := rfl
@[simp] theorem Dev.setSnd_frames (d : Dev) (k : Nat) (x : Sender) : (d.setSnd k x).frames = d.frames := rfl
@[simp] theorem Dev.setSnd_nextFid (d : Dev) (k : Nat) (x : Sender) : (d.setSnd k x).nextFid = d.nextFid := rfl
@[simp] theorem Dev.setSnd_arrivals (d : Dev) (k : Nat) (x : Sender) : (d.setSnd k x).arrivals = d.arrivals := rfl
@[simp] theorem Dev.setSnd_grants (d : Dev) (k : Nat) (x : Sender) : (d.setSnd k x).grants = d.grants := rfl
@[simp] theorem Dev.setSnd_copies (d : Dev) (k : Nat) (x : Sender) : (d.setSnd k x).copies = d.copies := rfl
@[simp] theorem Dev.setSnd_nextCid (d : Dev) (k : Nat) (x : Sender) : (d.setSnd k x).nextCid = d.nextCid := rfl
@[simp] theorem Dev.setSnd_pfcRx (d : Dev) (k : Nat) (x : Sender) : (d.setSnd k x).pfcRx = d.pfcRx := rfl
@[simp] theorem Dev.setSnd_hoppers (d : Dev) (k : Nat) (x : Sender) : (d.setSnd k x).hoppers = d.hoppers := rfl
@[simp] theorem Dev.setSnd_isas (d : Dev) (k : Nat) (x : Sender) : (d.setSnd k x).isas = d.isas := rfl
@[simp] theorem Dev.setSnd_tbl (d : Dev) (k : Nat) (x : Sender) : (d.setSnd k x).tbl = d.tbl := rfl
@[simp] theorem Dev.setSnd_amlQ (d : Dev) (k : Nat) (x : Sender) : (d.setSnd k x).amlQ = d.amlQ := rfl
@[simp] theorem Dev.setSnd_aml (d : Dev) (k : Nat) (x : Sender) : (d.setSnd k x).aml = d.aml := rfl
@[simp] theorem Dev.setSnd_cmdqs (d : Dev) (k : Nat) (x : Sender) : (d.setSnd k x).cmdqs = d.cmdqs := rfl
@[simp] theorem Dev.setSnd_stageFrames (d : Dev) (k : Nat) (x : Sender) : (d.setSnd k x).stageFrames = d.stageFrames := rfl
@[simp] theorem Dev.setSnd_stageBytes (d : Dev) (k : Nat) (x : Sender) : (d.setSnd k x).stageBytes = d.stageBytes := rfl
@[simp] theorem Dev.setSnd_stageRegs (d : Dev) (k : Nat) (x : Sender) : (d.setSnd k x).stageRegs = d.stageRegs := rfl
@[simp] theorem Dev.setSnd_lists (d : Dev) (k : Nat) (x : Sender) : (d.setSnd k x).lists = d.lists := rfl
@[simp] theorem Dev.setSnd_members (d : Dev) (k : Nat) (x : Sender) : (d.setSnd k x).members = d.members := rfl
@[simp] theorem Dev.setSnd_links (d : Dev) (k : Nat) (x : Sender) : (d.setSnd k x).links = d.links := rfl
@[simp] theorem Dev.setSnd_linkErrs (d : Dev) (k : Nat) (x : Sender) : (d.setSnd k x).linkErrs = d.linkErrs := rfl
@[simp] theorem Dev.setSnd_rsqs (d : Dev) (k : Nat) (x : Sender) : (d.setSnd k x).rsqs = d.rsqs := rfl
@[simp] theorem Dev.setSnd_admitQ (d : Dev) (k : Nat) (x : Sender) : (d.setSnd k x).admitQ = d.admitQ := rfl
@[simp] theorem Dev.setSnd_buf (d : Dev) (k : Nat) (x : Sender) : (d.setSnd k x).buf = d.buf := rfl
@[simp] theorem Dev.setSnd_tm (d : Dev) (k : Nat) (x : Sender) : (d.setSnd k x).tm = d.tm := rfl
@[simp] theorem Dev.setSnd_hbm (d : Dev) (k : Nat) (x : Sender) : (d.setSnd k x).hbm = d.hbm := rfl
@[simp] theorem Dev.setSnd_spill (d : Dev) (k : Nat) (x : Sender) : (d.setSnd k x).spill = d.spill := rfl
@[simp] theorem Dev.setSnd_wire (d : Dev) (k : Nat) (x : Sender) : (d.setSnd k x).wire = d.wire := rfl
@[simp] theorem Dev.setSnd_ae (d : Dev) (k : Nat) (x : Sender) : (d.setSnd k x).ae = d.ae := rfl

/-! ## `Dev.setRsq` changes `rsqs` -/

@[simp] theorem Dev.setRsq_now (d : Dev) (k : Nat) (x : Rsq) : (d.setRsq k x).now = d.now := rfl
@[simp] theorem Dev.setRsq_freeCount (d : Dev) (k : Nat) (x : Rsq) : (d.setRsq k x).freeCount = d.freeCount := rfl
@[simp] theorem Dev.setRsq_regs (d : Dev) (k : Nat) (x : Rsq) : (d.setRsq k x).regs = d.regs := rfl
@[simp] theorem Dev.setRsq_time (d : Dev) (k : Nat) (x : Rsq) : (d.setRsq k x).time = d.time := rfl
@[simp] theorem Dev.setRsq_hosts (d : Dev) (k : Nat) (x : Rsq) : (d.setRsq k x).hosts = d.hosts := rfl
@[simp] theorem Dev.setRsq_rings (d : Dev) (k : Nat) (x : Rsq) : (d.setRsq k x).rings = d.rings := rfl
@[simp] theorem Dev.setRsq_ringQ (d : Dev) (k : Nat) (x : Rsq) : (d.setRsq k x).ringQ = d.ringQ := rfl
@[simp] theorem Dev.setRsq_leases (d : Dev) (k : Nat) (x : Rsq) : (d.setRsq k x).leases = d.leases := rfl
@[simp] theorem Dev.setRsq_bridge (d : Dev) (k : Nat) (x : Rsq) : (d.setRsq k x).bridge = d.bridge := rfl
@[simp] theorem Dev.setRsq_fan (d : Dev) (k : Nat) (x : Rsq) : (d.setRsq k x).fan = d.fan := rfl
@[simp] theorem Dev.setRsq_slices (d : Dev) (k : Nat) (x : Rsq) : (d.setRsq k x).slices = d.slices := rfl
@[simp] theorem Dev.setRsq_loader (d : Dev) (k : Nat) (x : Rsq) : (d.setRsq k x).loader = d.loader := rfl
@[simp] theorem Dev.setRsq_banks (d : Dev) (k : Nat) (x : Rsq) : (d.setRsq k x).banks = d.banks := rfl
@[simp] theorem Dev.setRsq_epochs (d : Dev) (k : Nat) (x : Rsq) : (d.setRsq k x).epochs = d.epochs := rfl
@[simp] theorem Dev.setRsq_vers (d : Dev) (k : Nat) (x : Rsq) : (d.setRsq k x).vers = d.vers := rfl
@[simp] theorem Dev.setRsq_fuses (d : Dev) (k : Nat) (x : Rsq) : (d.setRsq k x).fuses = d.fuses := rfl
@[simp] theorem Dev.setRsq_errs (d : Dev) (k : Nat) (x : Rsq) : (d.setRsq k x).errs = d.errs := rfl
@[simp] theorem Dev.setRsq_stats (d : Dev) (k : Nat) (x : Rsq) : (d.setRsq k x).stats = d.stats := rfl
@[simp] theorem Dev.setRsq_lports (d : Dev) (k : Nat) (x : Rsq) : (d.setRsq k x).lports = d.lports := rfl
@[simp] theorem Dev.setRsq_pports (d : Dev) (k : Nat) (x : Rsq) : (d.setRsq k x).pports = d.pports := rfl
@[simp] theorem Dev.setRsq_engines (d : Dev) (k : Nat) (x : Rsq) : (d.setRsq k x).engines = d.engines := rfl
@[simp] theorem Dev.setRsq_frames (d : Dev) (k : Nat) (x : Rsq) : (d.setRsq k x).frames = d.frames := rfl
@[simp] theorem Dev.setRsq_nextFid (d : Dev) (k : Nat) (x : Rsq) : (d.setRsq k x).nextFid = d.nextFid := rfl
@[simp] theorem Dev.setRsq_arrivals (d : Dev) (k : Nat) (x : Rsq) : (d.setRsq k x).arrivals = d.arrivals := rfl
@[simp] theorem Dev.setRsq_grants (d : Dev) (k : Nat) (x : Rsq) : (d.setRsq k x).grants = d.grants := rfl
@[simp] theorem Dev.setRsq_copies (d : Dev) (k : Nat) (x : Rsq) : (d.setRsq k x).copies = d.copies := rfl
@[simp] theorem Dev.setRsq_nextCid (d : Dev) (k : Nat) (x : Rsq) : (d.setRsq k x).nextCid = d.nextCid := rfl
@[simp] theorem Dev.setRsq_pfcRx (d : Dev) (k : Nat) (x : Rsq) : (d.setRsq k x).pfcRx = d.pfcRx := rfl
@[simp] theorem Dev.setRsq_hoppers (d : Dev) (k : Nat) (x : Rsq) : (d.setRsq k x).hoppers = d.hoppers := rfl
@[simp] theorem Dev.setRsq_isas (d : Dev) (k : Nat) (x : Rsq) : (d.setRsq k x).isas = d.isas := rfl
@[simp] theorem Dev.setRsq_tbl (d : Dev) (k : Nat) (x : Rsq) : (d.setRsq k x).tbl = d.tbl := rfl
@[simp] theorem Dev.setRsq_amlQ (d : Dev) (k : Nat) (x : Rsq) : (d.setRsq k x).amlQ = d.amlQ := rfl
@[simp] theorem Dev.setRsq_aml (d : Dev) (k : Nat) (x : Rsq) : (d.setRsq k x).aml = d.aml := rfl
@[simp] theorem Dev.setRsq_cmdqs (d : Dev) (k : Nat) (x : Rsq) : (d.setRsq k x).cmdqs = d.cmdqs := rfl
@[simp] theorem Dev.setRsq_stageFrames (d : Dev) (k : Nat) (x : Rsq) : (d.setRsq k x).stageFrames = d.stageFrames := rfl
@[simp] theorem Dev.setRsq_stageBytes (d : Dev) (k : Nat) (x : Rsq) : (d.setRsq k x).stageBytes = d.stageBytes := rfl
@[simp] theorem Dev.setRsq_stageRegs (d : Dev) (k : Nat) (x : Rsq) : (d.setRsq k x).stageRegs = d.stageRegs := rfl
@[simp] theorem Dev.setRsq_lists (d : Dev) (k : Nat) (x : Rsq) : (d.setRsq k x).lists = d.lists := rfl
@[simp] theorem Dev.setRsq_members (d : Dev) (k : Nat) (x : Rsq) : (d.setRsq k x).members = d.members := rfl
@[simp] theorem Dev.setRsq_links (d : Dev) (k : Nat) (x : Rsq) : (d.setRsq k x).links = d.links := rfl
@[simp] theorem Dev.setRsq_linkErrs (d : Dev) (k : Nat) (x : Rsq) : (d.setRsq k x).linkErrs = d.linkErrs := rfl
@[simp] theorem Dev.setRsq_senders (d : Dev) (k : Nat) (x : Rsq) : (d.setRsq k x).senders = d.senders := rfl
@[simp] theorem Dev.setRsq_admitQ (d : Dev) (k : Nat) (x : Rsq) : (d.setRsq k x).admitQ = d.admitQ := rfl
@[simp] theorem Dev.setRsq_buf (d : Dev) (k : Nat) (x : Rsq) : (d.setRsq k x).buf = d.buf := rfl
@[simp] theorem Dev.setRsq_tm (d : Dev) (k : Nat) (x : Rsq) : (d.setRsq k x).tm = d.tm := rfl
@[simp] theorem Dev.setRsq_hbm (d : Dev) (k : Nat) (x : Rsq) : (d.setRsq k x).hbm = d.hbm := rfl
@[simp] theorem Dev.setRsq_spill (d : Dev) (k : Nat) (x : Rsq) : (d.setRsq k x).spill = d.spill := rfl
@[simp] theorem Dev.setRsq_wire (d : Dev) (k : Nat) (x : Rsq) : (d.setRsq k x).wire = d.wire := rfl
@[simp] theorem Dev.setRsq_ae (d : Dev) (k : Nat) (x : Rsq) : (d.setRsq k x).ae = d.ae := rfl

/-! ## `Dev.setStk` changes `hbm` -/

@[simp] theorem Dev.setStk_now (d : Dev) (k : Nat) (x : Hbm) : (d.setStk k x).now = d.now := rfl
@[simp] theorem Dev.setStk_freeCount (d : Dev) (k : Nat) (x : Hbm) : (d.setStk k x).freeCount = d.freeCount := rfl
@[simp] theorem Dev.setStk_regs (d : Dev) (k : Nat) (x : Hbm) : (d.setStk k x).regs = d.regs := rfl
@[simp] theorem Dev.setStk_time (d : Dev) (k : Nat) (x : Hbm) : (d.setStk k x).time = d.time := rfl
@[simp] theorem Dev.setStk_hosts (d : Dev) (k : Nat) (x : Hbm) : (d.setStk k x).hosts = d.hosts := rfl
@[simp] theorem Dev.setStk_rings (d : Dev) (k : Nat) (x : Hbm) : (d.setStk k x).rings = d.rings := rfl
@[simp] theorem Dev.setStk_ringQ (d : Dev) (k : Nat) (x : Hbm) : (d.setStk k x).ringQ = d.ringQ := rfl
@[simp] theorem Dev.setStk_leases (d : Dev) (k : Nat) (x : Hbm) : (d.setStk k x).leases = d.leases := rfl
@[simp] theorem Dev.setStk_bridge (d : Dev) (k : Nat) (x : Hbm) : (d.setStk k x).bridge = d.bridge := rfl
@[simp] theorem Dev.setStk_fan (d : Dev) (k : Nat) (x : Hbm) : (d.setStk k x).fan = d.fan := rfl
@[simp] theorem Dev.setStk_slices (d : Dev) (k : Nat) (x : Hbm) : (d.setStk k x).slices = d.slices := rfl
@[simp] theorem Dev.setStk_loader (d : Dev) (k : Nat) (x : Hbm) : (d.setStk k x).loader = d.loader := rfl
@[simp] theorem Dev.setStk_banks (d : Dev) (k : Nat) (x : Hbm) : (d.setStk k x).banks = d.banks := rfl
@[simp] theorem Dev.setStk_epochs (d : Dev) (k : Nat) (x : Hbm) : (d.setStk k x).epochs = d.epochs := rfl
@[simp] theorem Dev.setStk_vers (d : Dev) (k : Nat) (x : Hbm) : (d.setStk k x).vers = d.vers := rfl
@[simp] theorem Dev.setStk_fuses (d : Dev) (k : Nat) (x : Hbm) : (d.setStk k x).fuses = d.fuses := rfl
@[simp] theorem Dev.setStk_errs (d : Dev) (k : Nat) (x : Hbm) : (d.setStk k x).errs = d.errs := rfl
@[simp] theorem Dev.setStk_stats (d : Dev) (k : Nat) (x : Hbm) : (d.setStk k x).stats = d.stats := rfl
@[simp] theorem Dev.setStk_lports (d : Dev) (k : Nat) (x : Hbm) : (d.setStk k x).lports = d.lports := rfl
@[simp] theorem Dev.setStk_pports (d : Dev) (k : Nat) (x : Hbm) : (d.setStk k x).pports = d.pports := rfl
@[simp] theorem Dev.setStk_engines (d : Dev) (k : Nat) (x : Hbm) : (d.setStk k x).engines = d.engines := rfl
@[simp] theorem Dev.setStk_frames (d : Dev) (k : Nat) (x : Hbm) : (d.setStk k x).frames = d.frames := rfl
@[simp] theorem Dev.setStk_nextFid (d : Dev) (k : Nat) (x : Hbm) : (d.setStk k x).nextFid = d.nextFid := rfl
@[simp] theorem Dev.setStk_arrivals (d : Dev) (k : Nat) (x : Hbm) : (d.setStk k x).arrivals = d.arrivals := rfl
@[simp] theorem Dev.setStk_grants (d : Dev) (k : Nat) (x : Hbm) : (d.setStk k x).grants = d.grants := rfl
@[simp] theorem Dev.setStk_copies (d : Dev) (k : Nat) (x : Hbm) : (d.setStk k x).copies = d.copies := rfl
@[simp] theorem Dev.setStk_nextCid (d : Dev) (k : Nat) (x : Hbm) : (d.setStk k x).nextCid = d.nextCid := rfl
@[simp] theorem Dev.setStk_pfcRx (d : Dev) (k : Nat) (x : Hbm) : (d.setStk k x).pfcRx = d.pfcRx := rfl
@[simp] theorem Dev.setStk_hoppers (d : Dev) (k : Nat) (x : Hbm) : (d.setStk k x).hoppers = d.hoppers := rfl
@[simp] theorem Dev.setStk_isas (d : Dev) (k : Nat) (x : Hbm) : (d.setStk k x).isas = d.isas := rfl
@[simp] theorem Dev.setStk_tbl (d : Dev) (k : Nat) (x : Hbm) : (d.setStk k x).tbl = d.tbl := rfl
@[simp] theorem Dev.setStk_amlQ (d : Dev) (k : Nat) (x : Hbm) : (d.setStk k x).amlQ = d.amlQ := rfl
@[simp] theorem Dev.setStk_aml (d : Dev) (k : Nat) (x : Hbm) : (d.setStk k x).aml = d.aml := rfl
@[simp] theorem Dev.setStk_cmdqs (d : Dev) (k : Nat) (x : Hbm) : (d.setStk k x).cmdqs = d.cmdqs := rfl
@[simp] theorem Dev.setStk_stageFrames (d : Dev) (k : Nat) (x : Hbm) : (d.setStk k x).stageFrames = d.stageFrames := rfl
@[simp] theorem Dev.setStk_stageBytes (d : Dev) (k : Nat) (x : Hbm) : (d.setStk k x).stageBytes = d.stageBytes := rfl
@[simp] theorem Dev.setStk_stageRegs (d : Dev) (k : Nat) (x : Hbm) : (d.setStk k x).stageRegs = d.stageRegs := rfl
@[simp] theorem Dev.setStk_lists (d : Dev) (k : Nat) (x : Hbm) : (d.setStk k x).lists = d.lists := rfl
@[simp] theorem Dev.setStk_members (d : Dev) (k : Nat) (x : Hbm) : (d.setStk k x).members = d.members := rfl
@[simp] theorem Dev.setStk_links (d : Dev) (k : Nat) (x : Hbm) : (d.setStk k x).links = d.links := rfl
@[simp] theorem Dev.setStk_linkErrs (d : Dev) (k : Nat) (x : Hbm) : (d.setStk k x).linkErrs = d.linkErrs := rfl
@[simp] theorem Dev.setStk_senders (d : Dev) (k : Nat) (x : Hbm) : (d.setStk k x).senders = d.senders := rfl
@[simp] theorem Dev.setStk_rsqs (d : Dev) (k : Nat) (x : Hbm) : (d.setStk k x).rsqs = d.rsqs := rfl
@[simp] theorem Dev.setStk_admitQ (d : Dev) (k : Nat) (x : Hbm) : (d.setStk k x).admitQ = d.admitQ := rfl
@[simp] theorem Dev.setStk_buf (d : Dev) (k : Nat) (x : Hbm) : (d.setStk k x).buf = d.buf := rfl
@[simp] theorem Dev.setStk_tm (d : Dev) (k : Nat) (x : Hbm) : (d.setStk k x).tm = d.tm := rfl
@[simp] theorem Dev.setStk_spill (d : Dev) (k : Nat) (x : Hbm) : (d.setStk k x).spill = d.spill := rfl
@[simp] theorem Dev.setStk_wire (d : Dev) (k : Nat) (x : Hbm) : (d.setStk k x).wire = d.wire := rfl
@[simp] theorem Dev.setStk_ae (d : Dev) (k : Nat) (x : Hbm) : (d.setStk k x).ae = d.ae := rfl

/-! ## `Dev.setTmp` changes `tm` -/

@[simp] theorem Dev.setTmp_now (d : Dev) (n : Nat) (x : TmPort) : (d.setTmp n x).now = d.now := rfl
@[simp] theorem Dev.setTmp_freeCount (d : Dev) (n : Nat) (x : TmPort) : (d.setTmp n x).freeCount = d.freeCount := rfl
@[simp] theorem Dev.setTmp_regs (d : Dev) (n : Nat) (x : TmPort) : (d.setTmp n x).regs = d.regs := rfl
@[simp] theorem Dev.setTmp_time (d : Dev) (n : Nat) (x : TmPort) : (d.setTmp n x).time = d.time := rfl
@[simp] theorem Dev.setTmp_hosts (d : Dev) (n : Nat) (x : TmPort) : (d.setTmp n x).hosts = d.hosts := rfl
@[simp] theorem Dev.setTmp_rings (d : Dev) (n : Nat) (x : TmPort) : (d.setTmp n x).rings = d.rings := rfl
@[simp] theorem Dev.setTmp_ringQ (d : Dev) (n : Nat) (x : TmPort) : (d.setTmp n x).ringQ = d.ringQ := rfl
@[simp] theorem Dev.setTmp_leases (d : Dev) (n : Nat) (x : TmPort) : (d.setTmp n x).leases = d.leases := rfl
@[simp] theorem Dev.setTmp_bridge (d : Dev) (n : Nat) (x : TmPort) : (d.setTmp n x).bridge = d.bridge := rfl
@[simp] theorem Dev.setTmp_fan (d : Dev) (n : Nat) (x : TmPort) : (d.setTmp n x).fan = d.fan := rfl
@[simp] theorem Dev.setTmp_slices (d : Dev) (n : Nat) (x : TmPort) : (d.setTmp n x).slices = d.slices := rfl
@[simp] theorem Dev.setTmp_loader (d : Dev) (n : Nat) (x : TmPort) : (d.setTmp n x).loader = d.loader := rfl
@[simp] theorem Dev.setTmp_banks (d : Dev) (n : Nat) (x : TmPort) : (d.setTmp n x).banks = d.banks := rfl
@[simp] theorem Dev.setTmp_epochs (d : Dev) (n : Nat) (x : TmPort) : (d.setTmp n x).epochs = d.epochs := rfl
@[simp] theorem Dev.setTmp_vers (d : Dev) (n : Nat) (x : TmPort) : (d.setTmp n x).vers = d.vers := rfl
@[simp] theorem Dev.setTmp_fuses (d : Dev) (n : Nat) (x : TmPort) : (d.setTmp n x).fuses = d.fuses := rfl
@[simp] theorem Dev.setTmp_errs (d : Dev) (n : Nat) (x : TmPort) : (d.setTmp n x).errs = d.errs := rfl
@[simp] theorem Dev.setTmp_stats (d : Dev) (n : Nat) (x : TmPort) : (d.setTmp n x).stats = d.stats := rfl
@[simp] theorem Dev.setTmp_lports (d : Dev) (n : Nat) (x : TmPort) : (d.setTmp n x).lports = d.lports := rfl
@[simp] theorem Dev.setTmp_pports (d : Dev) (n : Nat) (x : TmPort) : (d.setTmp n x).pports = d.pports := rfl
@[simp] theorem Dev.setTmp_engines (d : Dev) (n : Nat) (x : TmPort) : (d.setTmp n x).engines = d.engines := rfl
@[simp] theorem Dev.setTmp_frames (d : Dev) (n : Nat) (x : TmPort) : (d.setTmp n x).frames = d.frames := rfl
@[simp] theorem Dev.setTmp_nextFid (d : Dev) (n : Nat) (x : TmPort) : (d.setTmp n x).nextFid = d.nextFid := rfl
@[simp] theorem Dev.setTmp_arrivals (d : Dev) (n : Nat) (x : TmPort) : (d.setTmp n x).arrivals = d.arrivals := rfl
@[simp] theorem Dev.setTmp_grants (d : Dev) (n : Nat) (x : TmPort) : (d.setTmp n x).grants = d.grants := rfl
@[simp] theorem Dev.setTmp_copies (d : Dev) (n : Nat) (x : TmPort) : (d.setTmp n x).copies = d.copies := rfl
@[simp] theorem Dev.setTmp_nextCid (d : Dev) (n : Nat) (x : TmPort) : (d.setTmp n x).nextCid = d.nextCid := rfl
@[simp] theorem Dev.setTmp_pfcRx (d : Dev) (n : Nat) (x : TmPort) : (d.setTmp n x).pfcRx = d.pfcRx := rfl
@[simp] theorem Dev.setTmp_hoppers (d : Dev) (n : Nat) (x : TmPort) : (d.setTmp n x).hoppers = d.hoppers := rfl
@[simp] theorem Dev.setTmp_isas (d : Dev) (n : Nat) (x : TmPort) : (d.setTmp n x).isas = d.isas := rfl
@[simp] theorem Dev.setTmp_tbl (d : Dev) (n : Nat) (x : TmPort) : (d.setTmp n x).tbl = d.tbl := rfl
@[simp] theorem Dev.setTmp_amlQ (d : Dev) (n : Nat) (x : TmPort) : (d.setTmp n x).amlQ = d.amlQ := rfl
@[simp] theorem Dev.setTmp_aml (d : Dev) (n : Nat) (x : TmPort) : (d.setTmp n x).aml = d.aml := rfl
@[simp] theorem Dev.setTmp_cmdqs (d : Dev) (n : Nat) (x : TmPort) : (d.setTmp n x).cmdqs = d.cmdqs := rfl
@[simp] theorem Dev.setTmp_stageFrames (d : Dev) (n : Nat) (x : TmPort) : (d.setTmp n x).stageFrames = d.stageFrames := rfl
@[simp] theorem Dev.setTmp_stageBytes (d : Dev) (n : Nat) (x : TmPort) : (d.setTmp n x).stageBytes = d.stageBytes := rfl
@[simp] theorem Dev.setTmp_stageRegs (d : Dev) (n : Nat) (x : TmPort) : (d.setTmp n x).stageRegs = d.stageRegs := rfl
@[simp] theorem Dev.setTmp_lists (d : Dev) (n : Nat) (x : TmPort) : (d.setTmp n x).lists = d.lists := rfl
@[simp] theorem Dev.setTmp_members (d : Dev) (n : Nat) (x : TmPort) : (d.setTmp n x).members = d.members := rfl
@[simp] theorem Dev.setTmp_links (d : Dev) (n : Nat) (x : TmPort) : (d.setTmp n x).links = d.links := rfl
@[simp] theorem Dev.setTmp_linkErrs (d : Dev) (n : Nat) (x : TmPort) : (d.setTmp n x).linkErrs = d.linkErrs := rfl
@[simp] theorem Dev.setTmp_senders (d : Dev) (n : Nat) (x : TmPort) : (d.setTmp n x).senders = d.senders := rfl
@[simp] theorem Dev.setTmp_rsqs (d : Dev) (n : Nat) (x : TmPort) : (d.setTmp n x).rsqs = d.rsqs := rfl
@[simp] theorem Dev.setTmp_admitQ (d : Dev) (n : Nat) (x : TmPort) : (d.setTmp n x).admitQ = d.admitQ := rfl
@[simp] theorem Dev.setTmp_buf (d : Dev) (n : Nat) (x : TmPort) : (d.setTmp n x).buf = d.buf := rfl
@[simp] theorem Dev.setTmp_hbm (d : Dev) (n : Nat) (x : TmPort) : (d.setTmp n x).hbm = d.hbm := rfl
@[simp] theorem Dev.setTmp_spill (d : Dev) (n : Nat) (x : TmPort) : (d.setTmp n x).spill = d.spill := rfl
@[simp] theorem Dev.setTmp_wire (d : Dev) (n : Nat) (x : TmPort) : (d.setTmp n x).wire = d.wire := rfl
@[simp] theorem Dev.setTmp_ae (d : Dev) (n : Nat) (x : TmPort) : (d.setTmp n x).ae = d.ae := rfl

/-! ## `Dev.setCellRec` changes `buf` -/

@[simp] theorem Dev.setCellRec_now (d : Dev) (c : Nat) (r : CellRec) : (d.setCellRec c r).now = d.now := rfl
@[simp] theorem Dev.setCellRec_freeCount (d : Dev) (c : Nat) (r : CellRec) : (d.setCellRec c r).freeCount = d.freeCount := rfl
@[simp] theorem Dev.setCellRec_regs (d : Dev) (c : Nat) (r : CellRec) : (d.setCellRec c r).regs = d.regs := rfl
@[simp] theorem Dev.setCellRec_time (d : Dev) (c : Nat) (r : CellRec) : (d.setCellRec c r).time = d.time := rfl
@[simp] theorem Dev.setCellRec_hosts (d : Dev) (c : Nat) (r : CellRec) : (d.setCellRec c r).hosts = d.hosts := rfl
@[simp] theorem Dev.setCellRec_rings (d : Dev) (c : Nat) (r : CellRec) : (d.setCellRec c r).rings = d.rings := rfl
@[simp] theorem Dev.setCellRec_ringQ (d : Dev) (c : Nat) (r : CellRec) : (d.setCellRec c r).ringQ = d.ringQ := rfl
@[simp] theorem Dev.setCellRec_leases (d : Dev) (c : Nat) (r : CellRec) : (d.setCellRec c r).leases = d.leases := rfl
@[simp] theorem Dev.setCellRec_bridge (d : Dev) (c : Nat) (r : CellRec) : (d.setCellRec c r).bridge = d.bridge := rfl
@[simp] theorem Dev.setCellRec_fan (d : Dev) (c : Nat) (r : CellRec) : (d.setCellRec c r).fan = d.fan := rfl
@[simp] theorem Dev.setCellRec_slices (d : Dev) (c : Nat) (r : CellRec) : (d.setCellRec c r).slices = d.slices := rfl
@[simp] theorem Dev.setCellRec_loader (d : Dev) (c : Nat) (r : CellRec) : (d.setCellRec c r).loader = d.loader := rfl
@[simp] theorem Dev.setCellRec_banks (d : Dev) (c : Nat) (r : CellRec) : (d.setCellRec c r).banks = d.banks := rfl
@[simp] theorem Dev.setCellRec_epochs (d : Dev) (c : Nat) (r : CellRec) : (d.setCellRec c r).epochs = d.epochs := rfl
@[simp] theorem Dev.setCellRec_vers (d : Dev) (c : Nat) (r : CellRec) : (d.setCellRec c r).vers = d.vers := rfl
@[simp] theorem Dev.setCellRec_fuses (d : Dev) (c : Nat) (r : CellRec) : (d.setCellRec c r).fuses = d.fuses := rfl
@[simp] theorem Dev.setCellRec_errs (d : Dev) (c : Nat) (r : CellRec) : (d.setCellRec c r).errs = d.errs := rfl
@[simp] theorem Dev.setCellRec_stats (d : Dev) (c : Nat) (r : CellRec) : (d.setCellRec c r).stats = d.stats := rfl
@[simp] theorem Dev.setCellRec_lports (d : Dev) (c : Nat) (r : CellRec) : (d.setCellRec c r).lports = d.lports := rfl
@[simp] theorem Dev.setCellRec_pports (d : Dev) (c : Nat) (r : CellRec) : (d.setCellRec c r).pports = d.pports := rfl
@[simp] theorem Dev.setCellRec_engines (d : Dev) (c : Nat) (r : CellRec) : (d.setCellRec c r).engines = d.engines := rfl
@[simp] theorem Dev.setCellRec_frames (d : Dev) (c : Nat) (r : CellRec) : (d.setCellRec c r).frames = d.frames := rfl
@[simp] theorem Dev.setCellRec_nextFid (d : Dev) (c : Nat) (r : CellRec) : (d.setCellRec c r).nextFid = d.nextFid := rfl
@[simp] theorem Dev.setCellRec_arrivals (d : Dev) (c : Nat) (r : CellRec) : (d.setCellRec c r).arrivals = d.arrivals := rfl
@[simp] theorem Dev.setCellRec_grants (d : Dev) (c : Nat) (r : CellRec) : (d.setCellRec c r).grants = d.grants := rfl
@[simp] theorem Dev.setCellRec_copies (d : Dev) (c : Nat) (r : CellRec) : (d.setCellRec c r).copies = d.copies := rfl
@[simp] theorem Dev.setCellRec_nextCid (d : Dev) (c : Nat) (r : CellRec) : (d.setCellRec c r).nextCid = d.nextCid := rfl
@[simp] theorem Dev.setCellRec_pfcRx (d : Dev) (c : Nat) (r : CellRec) : (d.setCellRec c r).pfcRx = d.pfcRx := rfl
@[simp] theorem Dev.setCellRec_hoppers (d : Dev) (c : Nat) (r : CellRec) : (d.setCellRec c r).hoppers = d.hoppers := rfl
@[simp] theorem Dev.setCellRec_isas (d : Dev) (c : Nat) (r : CellRec) : (d.setCellRec c r).isas = d.isas := rfl
@[simp] theorem Dev.setCellRec_tbl (d : Dev) (c : Nat) (r : CellRec) : (d.setCellRec c r).tbl = d.tbl := rfl
@[simp] theorem Dev.setCellRec_amlQ (d : Dev) (c : Nat) (r : CellRec) : (d.setCellRec c r).amlQ = d.amlQ := rfl
@[simp] theorem Dev.setCellRec_aml (d : Dev) (c : Nat) (r : CellRec) : (d.setCellRec c r).aml = d.aml := rfl
@[simp] theorem Dev.setCellRec_cmdqs (d : Dev) (c : Nat) (r : CellRec) : (d.setCellRec c r).cmdqs = d.cmdqs := rfl
@[simp] theorem Dev.setCellRec_stageFrames (d : Dev) (c : Nat) (r : CellRec) : (d.setCellRec c r).stageFrames = d.stageFrames := rfl
@[simp] theorem Dev.setCellRec_stageBytes (d : Dev) (c : Nat) (r : CellRec) : (d.setCellRec c r).stageBytes = d.stageBytes := rfl
@[simp] theorem Dev.setCellRec_stageRegs (d : Dev) (c : Nat) (r : CellRec) : (d.setCellRec c r).stageRegs = d.stageRegs := rfl
@[simp] theorem Dev.setCellRec_lists (d : Dev) (c : Nat) (r : CellRec) : (d.setCellRec c r).lists = d.lists := rfl
@[simp] theorem Dev.setCellRec_members (d : Dev) (c : Nat) (r : CellRec) : (d.setCellRec c r).members = d.members := rfl
@[simp] theorem Dev.setCellRec_links (d : Dev) (c : Nat) (r : CellRec) : (d.setCellRec c r).links = d.links := rfl
@[simp] theorem Dev.setCellRec_linkErrs (d : Dev) (c : Nat) (r : CellRec) : (d.setCellRec c r).linkErrs = d.linkErrs := rfl
@[simp] theorem Dev.setCellRec_senders (d : Dev) (c : Nat) (r : CellRec) : (d.setCellRec c r).senders = d.senders := rfl
@[simp] theorem Dev.setCellRec_rsqs (d : Dev) (c : Nat) (r : CellRec) : (d.setCellRec c r).rsqs = d.rsqs := rfl
@[simp] theorem Dev.setCellRec_admitQ (d : Dev) (c : Nat) (r : CellRec) : (d.setCellRec c r).admitQ = d.admitQ := rfl
@[simp] theorem Dev.setCellRec_tm (d : Dev) (c : Nat) (r : CellRec) : (d.setCellRec c r).tm = d.tm := rfl
@[simp] theorem Dev.setCellRec_hbm (d : Dev) (c : Nat) (r : CellRec) : (d.setCellRec c r).hbm = d.hbm := rfl
@[simp] theorem Dev.setCellRec_spill (d : Dev) (c : Nat) (r : CellRec) : (d.setCellRec c r).spill = d.spill := rfl
@[simp] theorem Dev.setCellRec_wire (d : Dev) (c : Nat) (r : CellRec) : (d.setCellRec c r).wire = d.wire := rfl
@[simp] theorem Dev.setCellRec_ae (d : Dev) (c : Nat) (r : CellRec) : (d.setCellRec c r).ae = d.ae := rfl

/-! ## `Dev.setLease` changes `leases` -/

@[simp] theorem Dev.setLease_now (d : Dev) (n : Nat) (x : Lease) : (d.setLease n x).now = d.now := rfl
@[simp] theorem Dev.setLease_freeCount (d : Dev) (n : Nat) (x : Lease) : (d.setLease n x).freeCount = d.freeCount := rfl
@[simp] theorem Dev.setLease_regs (d : Dev) (n : Nat) (x : Lease) : (d.setLease n x).regs = d.regs := rfl
@[simp] theorem Dev.setLease_time (d : Dev) (n : Nat) (x : Lease) : (d.setLease n x).time = d.time := rfl
@[simp] theorem Dev.setLease_hosts (d : Dev) (n : Nat) (x : Lease) : (d.setLease n x).hosts = d.hosts := rfl
@[simp] theorem Dev.setLease_rings (d : Dev) (n : Nat) (x : Lease) : (d.setLease n x).rings = d.rings := rfl
@[simp] theorem Dev.setLease_ringQ (d : Dev) (n : Nat) (x : Lease) : (d.setLease n x).ringQ = d.ringQ := rfl
@[simp] theorem Dev.setLease_bridge (d : Dev) (n : Nat) (x : Lease) : (d.setLease n x).bridge = d.bridge := rfl
@[simp] theorem Dev.setLease_fan (d : Dev) (n : Nat) (x : Lease) : (d.setLease n x).fan = d.fan := rfl
@[simp] theorem Dev.setLease_slices (d : Dev) (n : Nat) (x : Lease) : (d.setLease n x).slices = d.slices := rfl
@[simp] theorem Dev.setLease_loader (d : Dev) (n : Nat) (x : Lease) : (d.setLease n x).loader = d.loader := rfl
@[simp] theorem Dev.setLease_banks (d : Dev) (n : Nat) (x : Lease) : (d.setLease n x).banks = d.banks := rfl
@[simp] theorem Dev.setLease_epochs (d : Dev) (n : Nat) (x : Lease) : (d.setLease n x).epochs = d.epochs := rfl
@[simp] theorem Dev.setLease_vers (d : Dev) (n : Nat) (x : Lease) : (d.setLease n x).vers = d.vers := rfl
@[simp] theorem Dev.setLease_fuses (d : Dev) (n : Nat) (x : Lease) : (d.setLease n x).fuses = d.fuses := rfl
@[simp] theorem Dev.setLease_errs (d : Dev) (n : Nat) (x : Lease) : (d.setLease n x).errs = d.errs := rfl
@[simp] theorem Dev.setLease_stats (d : Dev) (n : Nat) (x : Lease) : (d.setLease n x).stats = d.stats := rfl
@[simp] theorem Dev.setLease_lports (d : Dev) (n : Nat) (x : Lease) : (d.setLease n x).lports = d.lports := rfl
@[simp] theorem Dev.setLease_pports (d : Dev) (n : Nat) (x : Lease) : (d.setLease n x).pports = d.pports := rfl
@[simp] theorem Dev.setLease_engines (d : Dev) (n : Nat) (x : Lease) : (d.setLease n x).engines = d.engines := rfl
@[simp] theorem Dev.setLease_frames (d : Dev) (n : Nat) (x : Lease) : (d.setLease n x).frames = d.frames := rfl
@[simp] theorem Dev.setLease_nextFid (d : Dev) (n : Nat) (x : Lease) : (d.setLease n x).nextFid = d.nextFid := rfl
@[simp] theorem Dev.setLease_arrivals (d : Dev) (n : Nat) (x : Lease) : (d.setLease n x).arrivals = d.arrivals := rfl
@[simp] theorem Dev.setLease_grants (d : Dev) (n : Nat) (x : Lease) : (d.setLease n x).grants = d.grants := rfl
@[simp] theorem Dev.setLease_copies (d : Dev) (n : Nat) (x : Lease) : (d.setLease n x).copies = d.copies := rfl
@[simp] theorem Dev.setLease_nextCid (d : Dev) (n : Nat) (x : Lease) : (d.setLease n x).nextCid = d.nextCid := rfl
@[simp] theorem Dev.setLease_pfcRx (d : Dev) (n : Nat) (x : Lease) : (d.setLease n x).pfcRx = d.pfcRx := rfl
@[simp] theorem Dev.setLease_hoppers (d : Dev) (n : Nat) (x : Lease) : (d.setLease n x).hoppers = d.hoppers := rfl
@[simp] theorem Dev.setLease_isas (d : Dev) (n : Nat) (x : Lease) : (d.setLease n x).isas = d.isas := rfl
@[simp] theorem Dev.setLease_tbl (d : Dev) (n : Nat) (x : Lease) : (d.setLease n x).tbl = d.tbl := rfl
@[simp] theorem Dev.setLease_amlQ (d : Dev) (n : Nat) (x : Lease) : (d.setLease n x).amlQ = d.amlQ := rfl
@[simp] theorem Dev.setLease_aml (d : Dev) (n : Nat) (x : Lease) : (d.setLease n x).aml = d.aml := rfl
@[simp] theorem Dev.setLease_cmdqs (d : Dev) (n : Nat) (x : Lease) : (d.setLease n x).cmdqs = d.cmdqs := rfl
@[simp] theorem Dev.setLease_stageFrames (d : Dev) (n : Nat) (x : Lease) : (d.setLease n x).stageFrames = d.stageFrames := rfl
@[simp] theorem Dev.setLease_stageBytes (d : Dev) (n : Nat) (x : Lease) : (d.setLease n x).stageBytes = d.stageBytes := rfl
@[simp] theorem Dev.setLease_stageRegs (d : Dev) (n : Nat) (x : Lease) : (d.setLease n x).stageRegs = d.stageRegs := rfl
@[simp] theorem Dev.setLease_lists (d : Dev) (n : Nat) (x : Lease) : (d.setLease n x).lists = d.lists := rfl
@[simp] theorem Dev.setLease_members (d : Dev) (n : Nat) (x : Lease) : (d.setLease n x).members = d.members := rfl
@[simp] theorem Dev.setLease_links (d : Dev) (n : Nat) (x : Lease) : (d.setLease n x).links = d.links := rfl
@[simp] theorem Dev.setLease_linkErrs (d : Dev) (n : Nat) (x : Lease) : (d.setLease n x).linkErrs = d.linkErrs := rfl
@[simp] theorem Dev.setLease_senders (d : Dev) (n : Nat) (x : Lease) : (d.setLease n x).senders = d.senders := rfl
@[simp] theorem Dev.setLease_rsqs (d : Dev) (n : Nat) (x : Lease) : (d.setLease n x).rsqs = d.rsqs := rfl
@[simp] theorem Dev.setLease_admitQ (d : Dev) (n : Nat) (x : Lease) : (d.setLease n x).admitQ = d.admitQ := rfl
@[simp] theorem Dev.setLease_buf (d : Dev) (n : Nat) (x : Lease) : (d.setLease n x).buf = d.buf := rfl
@[simp] theorem Dev.setLease_tm (d : Dev) (n : Nat) (x : Lease) : (d.setLease n x).tm = d.tm := rfl
@[simp] theorem Dev.setLease_hbm (d : Dev) (n : Nat) (x : Lease) : (d.setLease n x).hbm = d.hbm := rfl
@[simp] theorem Dev.setLease_spill (d : Dev) (n : Nat) (x : Lease) : (d.setLease n x).spill = d.spill := rfl
@[simp] theorem Dev.setLease_wire (d : Dev) (n : Nat) (x : Lease) : (d.setLease n x).wire = d.wire := rfl
@[simp] theorem Dev.setLease_ae (d : Dev) (n : Nat) (x : Lease) : (d.setLease n x).ae = d.ae := rfl

/-! ## `Dev.setSpf` changes `spill` -/

@[simp] theorem Dev.setSpf_now (d : Dev) (s : Nat) (x : SpillFill) : (d.setSpf s x).now = d.now := rfl
@[simp] theorem Dev.setSpf_freeCount (d : Dev) (s : Nat) (x : SpillFill) : (d.setSpf s x).freeCount = d.freeCount := rfl
@[simp] theorem Dev.setSpf_regs (d : Dev) (s : Nat) (x : SpillFill) : (d.setSpf s x).regs = d.regs := rfl
@[simp] theorem Dev.setSpf_time (d : Dev) (s : Nat) (x : SpillFill) : (d.setSpf s x).time = d.time := rfl
@[simp] theorem Dev.setSpf_hosts (d : Dev) (s : Nat) (x : SpillFill) : (d.setSpf s x).hosts = d.hosts := rfl
@[simp] theorem Dev.setSpf_rings (d : Dev) (s : Nat) (x : SpillFill) : (d.setSpf s x).rings = d.rings := rfl
@[simp] theorem Dev.setSpf_ringQ (d : Dev) (s : Nat) (x : SpillFill) : (d.setSpf s x).ringQ = d.ringQ := rfl
@[simp] theorem Dev.setSpf_leases (d : Dev) (s : Nat) (x : SpillFill) : (d.setSpf s x).leases = d.leases := rfl
@[simp] theorem Dev.setSpf_bridge (d : Dev) (s : Nat) (x : SpillFill) : (d.setSpf s x).bridge = d.bridge := rfl
@[simp] theorem Dev.setSpf_fan (d : Dev) (s : Nat) (x : SpillFill) : (d.setSpf s x).fan = d.fan := rfl
@[simp] theorem Dev.setSpf_slices (d : Dev) (s : Nat) (x : SpillFill) : (d.setSpf s x).slices = d.slices := rfl
@[simp] theorem Dev.setSpf_loader (d : Dev) (s : Nat) (x : SpillFill) : (d.setSpf s x).loader = d.loader := rfl
@[simp] theorem Dev.setSpf_banks (d : Dev) (s : Nat) (x : SpillFill) : (d.setSpf s x).banks = d.banks := rfl
@[simp] theorem Dev.setSpf_epochs (d : Dev) (s : Nat) (x : SpillFill) : (d.setSpf s x).epochs = d.epochs := rfl
@[simp] theorem Dev.setSpf_vers (d : Dev) (s : Nat) (x : SpillFill) : (d.setSpf s x).vers = d.vers := rfl
@[simp] theorem Dev.setSpf_fuses (d : Dev) (s : Nat) (x : SpillFill) : (d.setSpf s x).fuses = d.fuses := rfl
@[simp] theorem Dev.setSpf_errs (d : Dev) (s : Nat) (x : SpillFill) : (d.setSpf s x).errs = d.errs := rfl
@[simp] theorem Dev.setSpf_stats (d : Dev) (s : Nat) (x : SpillFill) : (d.setSpf s x).stats = d.stats := rfl
@[simp] theorem Dev.setSpf_lports (d : Dev) (s : Nat) (x : SpillFill) : (d.setSpf s x).lports = d.lports := rfl
@[simp] theorem Dev.setSpf_pports (d : Dev) (s : Nat) (x : SpillFill) : (d.setSpf s x).pports = d.pports := rfl
@[simp] theorem Dev.setSpf_engines (d : Dev) (s : Nat) (x : SpillFill) : (d.setSpf s x).engines = d.engines := rfl
@[simp] theorem Dev.setSpf_frames (d : Dev) (s : Nat) (x : SpillFill) : (d.setSpf s x).frames = d.frames := rfl
@[simp] theorem Dev.setSpf_nextFid (d : Dev) (s : Nat) (x : SpillFill) : (d.setSpf s x).nextFid = d.nextFid := rfl
@[simp] theorem Dev.setSpf_arrivals (d : Dev) (s : Nat) (x : SpillFill) : (d.setSpf s x).arrivals = d.arrivals := rfl
@[simp] theorem Dev.setSpf_grants (d : Dev) (s : Nat) (x : SpillFill) : (d.setSpf s x).grants = d.grants := rfl
@[simp] theorem Dev.setSpf_copies (d : Dev) (s : Nat) (x : SpillFill) : (d.setSpf s x).copies = d.copies := rfl
@[simp] theorem Dev.setSpf_nextCid (d : Dev) (s : Nat) (x : SpillFill) : (d.setSpf s x).nextCid = d.nextCid := rfl
@[simp] theorem Dev.setSpf_pfcRx (d : Dev) (s : Nat) (x : SpillFill) : (d.setSpf s x).pfcRx = d.pfcRx := rfl
@[simp] theorem Dev.setSpf_hoppers (d : Dev) (s : Nat) (x : SpillFill) : (d.setSpf s x).hoppers = d.hoppers := rfl
@[simp] theorem Dev.setSpf_isas (d : Dev) (s : Nat) (x : SpillFill) : (d.setSpf s x).isas = d.isas := rfl
@[simp] theorem Dev.setSpf_tbl (d : Dev) (s : Nat) (x : SpillFill) : (d.setSpf s x).tbl = d.tbl := rfl
@[simp] theorem Dev.setSpf_amlQ (d : Dev) (s : Nat) (x : SpillFill) : (d.setSpf s x).amlQ = d.amlQ := rfl
@[simp] theorem Dev.setSpf_aml (d : Dev) (s : Nat) (x : SpillFill) : (d.setSpf s x).aml = d.aml := rfl
@[simp] theorem Dev.setSpf_cmdqs (d : Dev) (s : Nat) (x : SpillFill) : (d.setSpf s x).cmdqs = d.cmdqs := rfl
@[simp] theorem Dev.setSpf_stageFrames (d : Dev) (s : Nat) (x : SpillFill) : (d.setSpf s x).stageFrames = d.stageFrames := rfl
@[simp] theorem Dev.setSpf_stageBytes (d : Dev) (s : Nat) (x : SpillFill) : (d.setSpf s x).stageBytes = d.stageBytes := rfl
@[simp] theorem Dev.setSpf_stageRegs (d : Dev) (s : Nat) (x : SpillFill) : (d.setSpf s x).stageRegs = d.stageRegs := rfl
@[simp] theorem Dev.setSpf_lists (d : Dev) (s : Nat) (x : SpillFill) : (d.setSpf s x).lists = d.lists := rfl
@[simp] theorem Dev.setSpf_members (d : Dev) (s : Nat) (x : SpillFill) : (d.setSpf s x).members = d.members := rfl
@[simp] theorem Dev.setSpf_links (d : Dev) (s : Nat) (x : SpillFill) : (d.setSpf s x).links = d.links := rfl
@[simp] theorem Dev.setSpf_linkErrs (d : Dev) (s : Nat) (x : SpillFill) : (d.setSpf s x).linkErrs = d.linkErrs := rfl
@[simp] theorem Dev.setSpf_senders (d : Dev) (s : Nat) (x : SpillFill) : (d.setSpf s x).senders = d.senders := rfl
@[simp] theorem Dev.setSpf_rsqs (d : Dev) (s : Nat) (x : SpillFill) : (d.setSpf s x).rsqs = d.rsqs := rfl
@[simp] theorem Dev.setSpf_admitQ (d : Dev) (s : Nat) (x : SpillFill) : (d.setSpf s x).admitQ = d.admitQ := rfl
@[simp] theorem Dev.setSpf_buf (d : Dev) (s : Nat) (x : SpillFill) : (d.setSpf s x).buf = d.buf := rfl
@[simp] theorem Dev.setSpf_tm (d : Dev) (s : Nat) (x : SpillFill) : (d.setSpf s x).tm = d.tm := rfl
@[simp] theorem Dev.setSpf_hbm (d : Dev) (s : Nat) (x : SpillFill) : (d.setSpf s x).hbm = d.hbm := rfl
@[simp] theorem Dev.setSpf_wire (d : Dev) (s : Nat) (x : SpillFill) : (d.setSpf s x).wire = d.wire := rfl
@[simp] theorem Dev.setSpf_ae (d : Dev) (s : Nat) (x : SpillFill) : (d.setSpf s x).ae = d.ae := rfl

/-! ## `Dev.setThr` changes `ae` -/

@[simp] theorem Dev.setThr_now (d : Dev) (s t : Nat) (x : Thread) : (d.setThr s t x).now = d.now := rfl
@[simp] theorem Dev.setThr_freeCount (d : Dev) (s t : Nat) (x : Thread) : (d.setThr s t x).freeCount = d.freeCount := rfl
@[simp] theorem Dev.setThr_regs (d : Dev) (s t : Nat) (x : Thread) : (d.setThr s t x).regs = d.regs := rfl
@[simp] theorem Dev.setThr_time (d : Dev) (s t : Nat) (x : Thread) : (d.setThr s t x).time = d.time := rfl
@[simp] theorem Dev.setThr_hosts (d : Dev) (s t : Nat) (x : Thread) : (d.setThr s t x).hosts = d.hosts := rfl
@[simp] theorem Dev.setThr_rings (d : Dev) (s t : Nat) (x : Thread) : (d.setThr s t x).rings = d.rings := rfl
@[simp] theorem Dev.setThr_ringQ (d : Dev) (s t : Nat) (x : Thread) : (d.setThr s t x).ringQ = d.ringQ := rfl
@[simp] theorem Dev.setThr_leases (d : Dev) (s t : Nat) (x : Thread) : (d.setThr s t x).leases = d.leases := rfl
@[simp] theorem Dev.setThr_bridge (d : Dev) (s t : Nat) (x : Thread) : (d.setThr s t x).bridge = d.bridge := rfl
@[simp] theorem Dev.setThr_fan (d : Dev) (s t : Nat) (x : Thread) : (d.setThr s t x).fan = d.fan := rfl
@[simp] theorem Dev.setThr_slices (d : Dev) (s t : Nat) (x : Thread) : (d.setThr s t x).slices = d.slices := rfl
@[simp] theorem Dev.setThr_loader (d : Dev) (s t : Nat) (x : Thread) : (d.setThr s t x).loader = d.loader := rfl
@[simp] theorem Dev.setThr_banks (d : Dev) (s t : Nat) (x : Thread) : (d.setThr s t x).banks = d.banks := rfl
@[simp] theorem Dev.setThr_epochs (d : Dev) (s t : Nat) (x : Thread) : (d.setThr s t x).epochs = d.epochs := rfl
@[simp] theorem Dev.setThr_vers (d : Dev) (s t : Nat) (x : Thread) : (d.setThr s t x).vers = d.vers := rfl
@[simp] theorem Dev.setThr_fuses (d : Dev) (s t : Nat) (x : Thread) : (d.setThr s t x).fuses = d.fuses := rfl
@[simp] theorem Dev.setThr_errs (d : Dev) (s t : Nat) (x : Thread) : (d.setThr s t x).errs = d.errs := rfl
@[simp] theorem Dev.setThr_stats (d : Dev) (s t : Nat) (x : Thread) : (d.setThr s t x).stats = d.stats := rfl
@[simp] theorem Dev.setThr_lports (d : Dev) (s t : Nat) (x : Thread) : (d.setThr s t x).lports = d.lports := rfl
@[simp] theorem Dev.setThr_pports (d : Dev) (s t : Nat) (x : Thread) : (d.setThr s t x).pports = d.pports := rfl
@[simp] theorem Dev.setThr_engines (d : Dev) (s t : Nat) (x : Thread) : (d.setThr s t x).engines = d.engines := rfl
@[simp] theorem Dev.setThr_frames (d : Dev) (s t : Nat) (x : Thread) : (d.setThr s t x).frames = d.frames := rfl
@[simp] theorem Dev.setThr_nextFid (d : Dev) (s t : Nat) (x : Thread) : (d.setThr s t x).nextFid = d.nextFid := rfl
@[simp] theorem Dev.setThr_arrivals (d : Dev) (s t : Nat) (x : Thread) : (d.setThr s t x).arrivals = d.arrivals := rfl
@[simp] theorem Dev.setThr_grants (d : Dev) (s t : Nat) (x : Thread) : (d.setThr s t x).grants = d.grants := rfl
@[simp] theorem Dev.setThr_copies (d : Dev) (s t : Nat) (x : Thread) : (d.setThr s t x).copies = d.copies := rfl
@[simp] theorem Dev.setThr_nextCid (d : Dev) (s t : Nat) (x : Thread) : (d.setThr s t x).nextCid = d.nextCid := rfl
@[simp] theorem Dev.setThr_pfcRx (d : Dev) (s t : Nat) (x : Thread) : (d.setThr s t x).pfcRx = d.pfcRx := rfl
@[simp] theorem Dev.setThr_hoppers (d : Dev) (s t : Nat) (x : Thread) : (d.setThr s t x).hoppers = d.hoppers := rfl
@[simp] theorem Dev.setThr_isas (d : Dev) (s t : Nat) (x : Thread) : (d.setThr s t x).isas = d.isas := rfl
@[simp] theorem Dev.setThr_tbl (d : Dev) (s t : Nat) (x : Thread) : (d.setThr s t x).tbl = d.tbl := rfl
@[simp] theorem Dev.setThr_amlQ (d : Dev) (s t : Nat) (x : Thread) : (d.setThr s t x).amlQ = d.amlQ := rfl
@[simp] theorem Dev.setThr_aml (d : Dev) (s t : Nat) (x : Thread) : (d.setThr s t x).aml = d.aml := rfl
@[simp] theorem Dev.setThr_cmdqs (d : Dev) (s t : Nat) (x : Thread) : (d.setThr s t x).cmdqs = d.cmdqs := rfl
@[simp] theorem Dev.setThr_stageFrames (d : Dev) (s t : Nat) (x : Thread) : (d.setThr s t x).stageFrames = d.stageFrames := rfl
@[simp] theorem Dev.setThr_stageBytes (d : Dev) (s t : Nat) (x : Thread) : (d.setThr s t x).stageBytes = d.stageBytes := rfl
@[simp] theorem Dev.setThr_stageRegs (d : Dev) (s t : Nat) (x : Thread) : (d.setThr s t x).stageRegs = d.stageRegs := rfl
@[simp] theorem Dev.setThr_lists (d : Dev) (s t : Nat) (x : Thread) : (d.setThr s t x).lists = d.lists := rfl
@[simp] theorem Dev.setThr_members (d : Dev) (s t : Nat) (x : Thread) : (d.setThr s t x).members = d.members := rfl
@[simp] theorem Dev.setThr_links (d : Dev) (s t : Nat) (x : Thread) : (d.setThr s t x).links = d.links := rfl
@[simp] theorem Dev.setThr_linkErrs (d : Dev) (s t : Nat) (x : Thread) : (d.setThr s t x).linkErrs = d.linkErrs := rfl
@[simp] theorem Dev.setThr_senders (d : Dev) (s t : Nat) (x : Thread) : (d.setThr s t x).senders = d.senders := rfl
@[simp] theorem Dev.setThr_rsqs (d : Dev) (s t : Nat) (x : Thread) : (d.setThr s t x).rsqs = d.rsqs := rfl
@[simp] theorem Dev.setThr_admitQ (d : Dev) (s t : Nat) (x : Thread) : (d.setThr s t x).admitQ = d.admitQ := rfl
@[simp] theorem Dev.setThr_buf (d : Dev) (s t : Nat) (x : Thread) : (d.setThr s t x).buf = d.buf := rfl
@[simp] theorem Dev.setThr_tm (d : Dev) (s t : Nat) (x : Thread) : (d.setThr s t x).tm = d.tm := rfl
@[simp] theorem Dev.setThr_hbm (d : Dev) (s t : Nat) (x : Thread) : (d.setThr s t x).hbm = d.hbm := rfl
@[simp] theorem Dev.setThr_spill (d : Dev) (s t : Nat) (x : Thread) : (d.setThr s t x).spill = d.spill := rfl
@[simp] theorem Dev.setThr_wire (d : Dev) (s t : Nat) (x : Thread) : (d.setThr s t x).wire = d.wire := rfl

/-! ## `Dev.modThr` changes `ae` -/

@[simp] theorem Dev.modThr_now (d : Dev) (s t : Nat) (f : Thread → Thread) : (d.modThr s t f).now = d.now := rfl
@[simp] theorem Dev.modThr_freeCount (d : Dev) (s t : Nat) (f : Thread → Thread) : (d.modThr s t f).freeCount = d.freeCount := rfl
@[simp] theorem Dev.modThr_regs (d : Dev) (s t : Nat) (f : Thread → Thread) : (d.modThr s t f).regs = d.regs := rfl
@[simp] theorem Dev.modThr_time (d : Dev) (s t : Nat) (f : Thread → Thread) : (d.modThr s t f).time = d.time := rfl
@[simp] theorem Dev.modThr_hosts (d : Dev) (s t : Nat) (f : Thread → Thread) : (d.modThr s t f).hosts = d.hosts := rfl
@[simp] theorem Dev.modThr_rings (d : Dev) (s t : Nat) (f : Thread → Thread) : (d.modThr s t f).rings = d.rings := rfl
@[simp] theorem Dev.modThr_ringQ (d : Dev) (s t : Nat) (f : Thread → Thread) : (d.modThr s t f).ringQ = d.ringQ := rfl
@[simp] theorem Dev.modThr_leases (d : Dev) (s t : Nat) (f : Thread → Thread) : (d.modThr s t f).leases = d.leases := rfl
@[simp] theorem Dev.modThr_bridge (d : Dev) (s t : Nat) (f : Thread → Thread) : (d.modThr s t f).bridge = d.bridge := rfl
@[simp] theorem Dev.modThr_fan (d : Dev) (s t : Nat) (f : Thread → Thread) : (d.modThr s t f).fan = d.fan := rfl
@[simp] theorem Dev.modThr_slices (d : Dev) (s t : Nat) (f : Thread → Thread) : (d.modThr s t f).slices = d.slices := rfl
@[simp] theorem Dev.modThr_loader (d : Dev) (s t : Nat) (f : Thread → Thread) : (d.modThr s t f).loader = d.loader := rfl
@[simp] theorem Dev.modThr_banks (d : Dev) (s t : Nat) (f : Thread → Thread) : (d.modThr s t f).banks = d.banks := rfl
@[simp] theorem Dev.modThr_epochs (d : Dev) (s t : Nat) (f : Thread → Thread) : (d.modThr s t f).epochs = d.epochs := rfl
@[simp] theorem Dev.modThr_vers (d : Dev) (s t : Nat) (f : Thread → Thread) : (d.modThr s t f).vers = d.vers := rfl
@[simp] theorem Dev.modThr_fuses (d : Dev) (s t : Nat) (f : Thread → Thread) : (d.modThr s t f).fuses = d.fuses := rfl
@[simp] theorem Dev.modThr_errs (d : Dev) (s t : Nat) (f : Thread → Thread) : (d.modThr s t f).errs = d.errs := rfl
@[simp] theorem Dev.modThr_stats (d : Dev) (s t : Nat) (f : Thread → Thread) : (d.modThr s t f).stats = d.stats := rfl
@[simp] theorem Dev.modThr_lports (d : Dev) (s t : Nat) (f : Thread → Thread) : (d.modThr s t f).lports = d.lports := rfl
@[simp] theorem Dev.modThr_pports (d : Dev) (s t : Nat) (f : Thread → Thread) : (d.modThr s t f).pports = d.pports := rfl
@[simp] theorem Dev.modThr_engines (d : Dev) (s t : Nat) (f : Thread → Thread) : (d.modThr s t f).engines = d.engines := rfl
@[simp] theorem Dev.modThr_frames (d : Dev) (s t : Nat) (f : Thread → Thread) : (d.modThr s t f).frames = d.frames := rfl
@[simp] theorem Dev.modThr_nextFid (d : Dev) (s t : Nat) (f : Thread → Thread) : (d.modThr s t f).nextFid = d.nextFid := rfl
@[simp] theorem Dev.modThr_arrivals (d : Dev) (s t : Nat) (f : Thread → Thread) : (d.modThr s t f).arrivals = d.arrivals := rfl
@[simp] theorem Dev.modThr_grants (d : Dev) (s t : Nat) (f : Thread → Thread) : (d.modThr s t f).grants = d.grants := rfl
@[simp] theorem Dev.modThr_copies (d : Dev) (s t : Nat) (f : Thread → Thread) : (d.modThr s t f).copies = d.copies := rfl
@[simp] theorem Dev.modThr_nextCid (d : Dev) (s t : Nat) (f : Thread → Thread) : (d.modThr s t f).nextCid = d.nextCid := rfl
@[simp] theorem Dev.modThr_pfcRx (d : Dev) (s t : Nat) (f : Thread → Thread) : (d.modThr s t f).pfcRx = d.pfcRx := rfl
@[simp] theorem Dev.modThr_hoppers (d : Dev) (s t : Nat) (f : Thread → Thread) : (d.modThr s t f).hoppers = d.hoppers := rfl
@[simp] theorem Dev.modThr_isas (d : Dev) (s t : Nat) (f : Thread → Thread) : (d.modThr s t f).isas = d.isas := rfl
@[simp] theorem Dev.modThr_tbl (d : Dev) (s t : Nat) (f : Thread → Thread) : (d.modThr s t f).tbl = d.tbl := rfl
@[simp] theorem Dev.modThr_amlQ (d : Dev) (s t : Nat) (f : Thread → Thread) : (d.modThr s t f).amlQ = d.amlQ := rfl
@[simp] theorem Dev.modThr_aml (d : Dev) (s t : Nat) (f : Thread → Thread) : (d.modThr s t f).aml = d.aml := rfl
@[simp] theorem Dev.modThr_cmdqs (d : Dev) (s t : Nat) (f : Thread → Thread) : (d.modThr s t f).cmdqs = d.cmdqs := rfl
@[simp] theorem Dev.modThr_stageFrames (d : Dev) (s t : Nat) (f : Thread → Thread) : (d.modThr s t f).stageFrames = d.stageFrames := rfl
@[simp] theorem Dev.modThr_stageBytes (d : Dev) (s t : Nat) (f : Thread → Thread) : (d.modThr s t f).stageBytes = d.stageBytes := rfl
@[simp] theorem Dev.modThr_stageRegs (d : Dev) (s t : Nat) (f : Thread → Thread) : (d.modThr s t f).stageRegs = d.stageRegs := rfl
@[simp] theorem Dev.modThr_lists (d : Dev) (s t : Nat) (f : Thread → Thread) : (d.modThr s t f).lists = d.lists := rfl
@[simp] theorem Dev.modThr_members (d : Dev) (s t : Nat) (f : Thread → Thread) : (d.modThr s t f).members = d.members := rfl
@[simp] theorem Dev.modThr_links (d : Dev) (s t : Nat) (f : Thread → Thread) : (d.modThr s t f).links = d.links := rfl
@[simp] theorem Dev.modThr_linkErrs (d : Dev) (s t : Nat) (f : Thread → Thread) : (d.modThr s t f).linkErrs = d.linkErrs := rfl
@[simp] theorem Dev.modThr_senders (d : Dev) (s t : Nat) (f : Thread → Thread) : (d.modThr s t f).senders = d.senders := rfl
@[simp] theorem Dev.modThr_rsqs (d : Dev) (s t : Nat) (f : Thread → Thread) : (d.modThr s t f).rsqs = d.rsqs := rfl
@[simp] theorem Dev.modThr_admitQ (d : Dev) (s t : Nat) (f : Thread → Thread) : (d.modThr s t f).admitQ = d.admitQ := rfl
@[simp] theorem Dev.modThr_buf (d : Dev) (s t : Nat) (f : Thread → Thread) : (d.modThr s t f).buf = d.buf := rfl
@[simp] theorem Dev.modThr_tm (d : Dev) (s t : Nat) (f : Thread → Thread) : (d.modThr s t f).tm = d.tm := rfl
@[simp] theorem Dev.modThr_hbm (d : Dev) (s t : Nat) (f : Thread → Thread) : (d.modThr s t f).hbm = d.hbm := rfl
@[simp] theorem Dev.modThr_spill (d : Dev) (s t : Nat) (f : Thread → Thread) : (d.modThr s t f).spill = d.spill := rfl
@[simp] theorem Dev.modThr_wire (d : Dev) (s t : Nat) (f : Thread → Thread) : (d.modThr s t f).wire = d.wire := rfl

/-! ## `Dev.setChan` changes `ae` -/

@[simp] theorem Dev.setChan_now (d : Dev) (s c : Nat) (x : Chan) : (d.setChan s c x).now = d.now := rfl
@[simp] theorem Dev.setChan_freeCount (d : Dev) (s c : Nat) (x : Chan) : (d.setChan s c x).freeCount = d.freeCount := rfl
@[simp] theorem Dev.setChan_regs (d : Dev) (s c : Nat) (x : Chan) : (d.setChan s c x).regs = d.regs := rfl
@[simp] theorem Dev.setChan_time (d : Dev) (s c : Nat) (x : Chan) : (d.setChan s c x).time = d.time := rfl
@[simp] theorem Dev.setChan_hosts (d : Dev) (s c : Nat) (x : Chan) : (d.setChan s c x).hosts = d.hosts := rfl
@[simp] theorem Dev.setChan_rings (d : Dev) (s c : Nat) (x : Chan) : (d.setChan s c x).rings = d.rings := rfl
@[simp] theorem Dev.setChan_ringQ (d : Dev) (s c : Nat) (x : Chan) : (d.setChan s c x).ringQ = d.ringQ := rfl
@[simp] theorem Dev.setChan_leases (d : Dev) (s c : Nat) (x : Chan) : (d.setChan s c x).leases = d.leases := rfl
@[simp] theorem Dev.setChan_bridge (d : Dev) (s c : Nat) (x : Chan) : (d.setChan s c x).bridge = d.bridge := rfl
@[simp] theorem Dev.setChan_fan (d : Dev) (s c : Nat) (x : Chan) : (d.setChan s c x).fan = d.fan := rfl
@[simp] theorem Dev.setChan_slices (d : Dev) (s c : Nat) (x : Chan) : (d.setChan s c x).slices = d.slices := rfl
@[simp] theorem Dev.setChan_loader (d : Dev) (s c : Nat) (x : Chan) : (d.setChan s c x).loader = d.loader := rfl
@[simp] theorem Dev.setChan_banks (d : Dev) (s c : Nat) (x : Chan) : (d.setChan s c x).banks = d.banks := rfl
@[simp] theorem Dev.setChan_epochs (d : Dev) (s c : Nat) (x : Chan) : (d.setChan s c x).epochs = d.epochs := rfl
@[simp] theorem Dev.setChan_vers (d : Dev) (s c : Nat) (x : Chan) : (d.setChan s c x).vers = d.vers := rfl
@[simp] theorem Dev.setChan_fuses (d : Dev) (s c : Nat) (x : Chan) : (d.setChan s c x).fuses = d.fuses := rfl
@[simp] theorem Dev.setChan_errs (d : Dev) (s c : Nat) (x : Chan) : (d.setChan s c x).errs = d.errs := rfl
@[simp] theorem Dev.setChan_stats (d : Dev) (s c : Nat) (x : Chan) : (d.setChan s c x).stats = d.stats := rfl
@[simp] theorem Dev.setChan_lports (d : Dev) (s c : Nat) (x : Chan) : (d.setChan s c x).lports = d.lports := rfl
@[simp] theorem Dev.setChan_pports (d : Dev) (s c : Nat) (x : Chan) : (d.setChan s c x).pports = d.pports := rfl
@[simp] theorem Dev.setChan_engines (d : Dev) (s c : Nat) (x : Chan) : (d.setChan s c x).engines = d.engines := rfl
@[simp] theorem Dev.setChan_frames (d : Dev) (s c : Nat) (x : Chan) : (d.setChan s c x).frames = d.frames := rfl
@[simp] theorem Dev.setChan_nextFid (d : Dev) (s c : Nat) (x : Chan) : (d.setChan s c x).nextFid = d.nextFid := rfl
@[simp] theorem Dev.setChan_arrivals (d : Dev) (s c : Nat) (x : Chan) : (d.setChan s c x).arrivals = d.arrivals := rfl
@[simp] theorem Dev.setChan_grants (d : Dev) (s c : Nat) (x : Chan) : (d.setChan s c x).grants = d.grants := rfl
@[simp] theorem Dev.setChan_copies (d : Dev) (s c : Nat) (x : Chan) : (d.setChan s c x).copies = d.copies := rfl
@[simp] theorem Dev.setChan_nextCid (d : Dev) (s c : Nat) (x : Chan) : (d.setChan s c x).nextCid = d.nextCid := rfl
@[simp] theorem Dev.setChan_pfcRx (d : Dev) (s c : Nat) (x : Chan) : (d.setChan s c x).pfcRx = d.pfcRx := rfl
@[simp] theorem Dev.setChan_hoppers (d : Dev) (s c : Nat) (x : Chan) : (d.setChan s c x).hoppers = d.hoppers := rfl
@[simp] theorem Dev.setChan_isas (d : Dev) (s c : Nat) (x : Chan) : (d.setChan s c x).isas = d.isas := rfl
@[simp] theorem Dev.setChan_tbl (d : Dev) (s c : Nat) (x : Chan) : (d.setChan s c x).tbl = d.tbl := rfl
@[simp] theorem Dev.setChan_amlQ (d : Dev) (s c : Nat) (x : Chan) : (d.setChan s c x).amlQ = d.amlQ := rfl
@[simp] theorem Dev.setChan_aml (d : Dev) (s c : Nat) (x : Chan) : (d.setChan s c x).aml = d.aml := rfl
@[simp] theorem Dev.setChan_cmdqs (d : Dev) (s c : Nat) (x : Chan) : (d.setChan s c x).cmdqs = d.cmdqs := rfl
@[simp] theorem Dev.setChan_stageFrames (d : Dev) (s c : Nat) (x : Chan) : (d.setChan s c x).stageFrames = d.stageFrames := rfl
@[simp] theorem Dev.setChan_stageBytes (d : Dev) (s c : Nat) (x : Chan) : (d.setChan s c x).stageBytes = d.stageBytes := rfl
@[simp] theorem Dev.setChan_stageRegs (d : Dev) (s c : Nat) (x : Chan) : (d.setChan s c x).stageRegs = d.stageRegs := rfl
@[simp] theorem Dev.setChan_lists (d : Dev) (s c : Nat) (x : Chan) : (d.setChan s c x).lists = d.lists := rfl
@[simp] theorem Dev.setChan_members (d : Dev) (s c : Nat) (x : Chan) : (d.setChan s c x).members = d.members := rfl
@[simp] theorem Dev.setChan_links (d : Dev) (s c : Nat) (x : Chan) : (d.setChan s c x).links = d.links := rfl
@[simp] theorem Dev.setChan_linkErrs (d : Dev) (s c : Nat) (x : Chan) : (d.setChan s c x).linkErrs = d.linkErrs := rfl
@[simp] theorem Dev.setChan_senders (d : Dev) (s c : Nat) (x : Chan) : (d.setChan s c x).senders = d.senders := rfl
@[simp] theorem Dev.setChan_rsqs (d : Dev) (s c : Nat) (x : Chan) : (d.setChan s c x).rsqs = d.rsqs := rfl
@[simp] theorem Dev.setChan_admitQ (d : Dev) (s c : Nat) (x : Chan) : (d.setChan s c x).admitQ = d.admitQ := rfl
@[simp] theorem Dev.setChan_buf (d : Dev) (s c : Nat) (x : Chan) : (d.setChan s c x).buf = d.buf := rfl
@[simp] theorem Dev.setChan_tm (d : Dev) (s c : Nat) (x : Chan) : (d.setChan s c x).tm = d.tm := rfl
@[simp] theorem Dev.setChan_hbm (d : Dev) (s c : Nat) (x : Chan) : (d.setChan s c x).hbm = d.hbm := rfl
@[simp] theorem Dev.setChan_spill (d : Dev) (s c : Nat) (x : Chan) : (d.setChan s c x).spill = d.spill := rfl
@[simp] theorem Dev.setChan_wire (d : Dev) (s c : Nat) (x : Chan) : (d.setChan s c x).wire = d.wire := rfl

/-! ## `Dev.setDog` changes `ae` -/

@[simp] theorem Dev.setDog_now (d : Dev) (s e : Nat) (x : Watchdog) : (d.setDog s e x).now = d.now := rfl
@[simp] theorem Dev.setDog_freeCount (d : Dev) (s e : Nat) (x : Watchdog) : (d.setDog s e x).freeCount = d.freeCount := rfl
@[simp] theorem Dev.setDog_regs (d : Dev) (s e : Nat) (x : Watchdog) : (d.setDog s e x).regs = d.regs := rfl
@[simp] theorem Dev.setDog_time (d : Dev) (s e : Nat) (x : Watchdog) : (d.setDog s e x).time = d.time := rfl
@[simp] theorem Dev.setDog_hosts (d : Dev) (s e : Nat) (x : Watchdog) : (d.setDog s e x).hosts = d.hosts := rfl
@[simp] theorem Dev.setDog_rings (d : Dev) (s e : Nat) (x : Watchdog) : (d.setDog s e x).rings = d.rings := rfl
@[simp] theorem Dev.setDog_ringQ (d : Dev) (s e : Nat) (x : Watchdog) : (d.setDog s e x).ringQ = d.ringQ := rfl
@[simp] theorem Dev.setDog_leases (d : Dev) (s e : Nat) (x : Watchdog) : (d.setDog s e x).leases = d.leases := rfl
@[simp] theorem Dev.setDog_bridge (d : Dev) (s e : Nat) (x : Watchdog) : (d.setDog s e x).bridge = d.bridge := rfl
@[simp] theorem Dev.setDog_fan (d : Dev) (s e : Nat) (x : Watchdog) : (d.setDog s e x).fan = d.fan := rfl
@[simp] theorem Dev.setDog_slices (d : Dev) (s e : Nat) (x : Watchdog) : (d.setDog s e x).slices = d.slices := rfl
@[simp] theorem Dev.setDog_loader (d : Dev) (s e : Nat) (x : Watchdog) : (d.setDog s e x).loader = d.loader := rfl
@[simp] theorem Dev.setDog_banks (d : Dev) (s e : Nat) (x : Watchdog) : (d.setDog s e x).banks = d.banks := rfl
@[simp] theorem Dev.setDog_epochs (d : Dev) (s e : Nat) (x : Watchdog) : (d.setDog s e x).epochs = d.epochs := rfl
@[simp] theorem Dev.setDog_vers (d : Dev) (s e : Nat) (x : Watchdog) : (d.setDog s e x).vers = d.vers := rfl
@[simp] theorem Dev.setDog_fuses (d : Dev) (s e : Nat) (x : Watchdog) : (d.setDog s e x).fuses = d.fuses := rfl
@[simp] theorem Dev.setDog_errs (d : Dev) (s e : Nat) (x : Watchdog) : (d.setDog s e x).errs = d.errs := rfl
@[simp] theorem Dev.setDog_stats (d : Dev) (s e : Nat) (x : Watchdog) : (d.setDog s e x).stats = d.stats := rfl
@[simp] theorem Dev.setDog_lports (d : Dev) (s e : Nat) (x : Watchdog) : (d.setDog s e x).lports = d.lports := rfl
@[simp] theorem Dev.setDog_pports (d : Dev) (s e : Nat) (x : Watchdog) : (d.setDog s e x).pports = d.pports := rfl
@[simp] theorem Dev.setDog_engines (d : Dev) (s e : Nat) (x : Watchdog) : (d.setDog s e x).engines = d.engines := rfl
@[simp] theorem Dev.setDog_frames (d : Dev) (s e : Nat) (x : Watchdog) : (d.setDog s e x).frames = d.frames := rfl
@[simp] theorem Dev.setDog_nextFid (d : Dev) (s e : Nat) (x : Watchdog) : (d.setDog s e x).nextFid = d.nextFid := rfl
@[simp] theorem Dev.setDog_arrivals (d : Dev) (s e : Nat) (x : Watchdog) : (d.setDog s e x).arrivals = d.arrivals := rfl
@[simp] theorem Dev.setDog_grants (d : Dev) (s e : Nat) (x : Watchdog) : (d.setDog s e x).grants = d.grants := rfl
@[simp] theorem Dev.setDog_copies (d : Dev) (s e : Nat) (x : Watchdog) : (d.setDog s e x).copies = d.copies := rfl
@[simp] theorem Dev.setDog_nextCid (d : Dev) (s e : Nat) (x : Watchdog) : (d.setDog s e x).nextCid = d.nextCid := rfl
@[simp] theorem Dev.setDog_pfcRx (d : Dev) (s e : Nat) (x : Watchdog) : (d.setDog s e x).pfcRx = d.pfcRx := rfl
@[simp] theorem Dev.setDog_hoppers (d : Dev) (s e : Nat) (x : Watchdog) : (d.setDog s e x).hoppers = d.hoppers := rfl
@[simp] theorem Dev.setDog_isas (d : Dev) (s e : Nat) (x : Watchdog) : (d.setDog s e x).isas = d.isas := rfl
@[simp] theorem Dev.setDog_tbl (d : Dev) (s e : Nat) (x : Watchdog) : (d.setDog s e x).tbl = d.tbl := rfl
@[simp] theorem Dev.setDog_amlQ (d : Dev) (s e : Nat) (x : Watchdog) : (d.setDog s e x).amlQ = d.amlQ := rfl
@[simp] theorem Dev.setDog_aml (d : Dev) (s e : Nat) (x : Watchdog) : (d.setDog s e x).aml = d.aml := rfl
@[simp] theorem Dev.setDog_cmdqs (d : Dev) (s e : Nat) (x : Watchdog) : (d.setDog s e x).cmdqs = d.cmdqs := rfl
@[simp] theorem Dev.setDog_stageFrames (d : Dev) (s e : Nat) (x : Watchdog) : (d.setDog s e x).stageFrames = d.stageFrames := rfl
@[simp] theorem Dev.setDog_stageBytes (d : Dev) (s e : Nat) (x : Watchdog) : (d.setDog s e x).stageBytes = d.stageBytes := rfl
@[simp] theorem Dev.setDog_stageRegs (d : Dev) (s e : Nat) (x : Watchdog) : (d.setDog s e x).stageRegs = d.stageRegs := rfl
@[simp] theorem Dev.setDog_lists (d : Dev) (s e : Nat) (x : Watchdog) : (d.setDog s e x).lists = d.lists := rfl
@[simp] theorem Dev.setDog_members (d : Dev) (s e : Nat) (x : Watchdog) : (d.setDog s e x).members = d.members := rfl
@[simp] theorem Dev.setDog_links (d : Dev) (s e : Nat) (x : Watchdog) : (d.setDog s e x).links = d.links := rfl
@[simp] theorem Dev.setDog_linkErrs (d : Dev) (s e : Nat) (x : Watchdog) : (d.setDog s e x).linkErrs = d.linkErrs := rfl
@[simp] theorem Dev.setDog_senders (d : Dev) (s e : Nat) (x : Watchdog) : (d.setDog s e x).senders = d.senders := rfl
@[simp] theorem Dev.setDog_rsqs (d : Dev) (s e : Nat) (x : Watchdog) : (d.setDog s e x).rsqs = d.rsqs := rfl
@[simp] theorem Dev.setDog_admitQ (d : Dev) (s e : Nat) (x : Watchdog) : (d.setDog s e x).admitQ = d.admitQ := rfl
@[simp] theorem Dev.setDog_buf (d : Dev) (s e : Nat) (x : Watchdog) : (d.setDog s e x).buf = d.buf := rfl
@[simp] theorem Dev.setDog_tm (d : Dev) (s e : Nat) (x : Watchdog) : (d.setDog s e x).tm = d.tm := rfl
@[simp] theorem Dev.setDog_hbm (d : Dev) (s e : Nat) (x : Watchdog) : (d.setDog s e x).hbm = d.hbm := rfl
@[simp] theorem Dev.setDog_spill (d : Dev) (s e : Nat) (x : Watchdog) : (d.setDog s e x).spill = d.spill := rfl
@[simp] theorem Dev.setDog_wire (d : Dev) (s e : Nat) (x : Watchdog) : (d.setDog s e x).wire = d.wire := rfl

/-! ## `Dev.setLatch` changes `regs` -/

@[simp] theorem Dev.setLatch_now (d : Dev) (k key v : Nat) : (d.setLatch k key v).now = d.now := rfl
@[simp] theorem Dev.setLatch_freeCount (d : Dev) (k key v : Nat) : (d.setLatch k key v).freeCount = d.freeCount := rfl
@[simp] theorem Dev.setLatch_time (d : Dev) (k key v : Nat) : (d.setLatch k key v).time = d.time := rfl
@[simp] theorem Dev.setLatch_hosts (d : Dev) (k key v : Nat) : (d.setLatch k key v).hosts = d.hosts := rfl
@[simp] theorem Dev.setLatch_rings (d : Dev) (k key v : Nat) : (d.setLatch k key v).rings = d.rings := rfl
@[simp] theorem Dev.setLatch_ringQ (d : Dev) (k key v : Nat) : (d.setLatch k key v).ringQ = d.ringQ := rfl
@[simp] theorem Dev.setLatch_leases (d : Dev) (k key v : Nat) : (d.setLatch k key v).leases = d.leases := rfl
@[simp] theorem Dev.setLatch_bridge (d : Dev) (k key v : Nat) : (d.setLatch k key v).bridge = d.bridge := rfl
@[simp] theorem Dev.setLatch_fan (d : Dev) (k key v : Nat) : (d.setLatch k key v).fan = d.fan := rfl
@[simp] theorem Dev.setLatch_slices (d : Dev) (k key v : Nat) : (d.setLatch k key v).slices = d.slices := rfl
@[simp] theorem Dev.setLatch_loader (d : Dev) (k key v : Nat) : (d.setLatch k key v).loader = d.loader := rfl
@[simp] theorem Dev.setLatch_banks (d : Dev) (k key v : Nat) : (d.setLatch k key v).banks = d.banks := rfl
@[simp] theorem Dev.setLatch_epochs (d : Dev) (k key v : Nat) : (d.setLatch k key v).epochs = d.epochs := rfl
@[simp] theorem Dev.setLatch_vers (d : Dev) (k key v : Nat) : (d.setLatch k key v).vers = d.vers := rfl
@[simp] theorem Dev.setLatch_fuses (d : Dev) (k key v : Nat) : (d.setLatch k key v).fuses = d.fuses := rfl
@[simp] theorem Dev.setLatch_errs (d : Dev) (k key v : Nat) : (d.setLatch k key v).errs = d.errs := rfl
@[simp] theorem Dev.setLatch_stats (d : Dev) (k key v : Nat) : (d.setLatch k key v).stats = d.stats := rfl
@[simp] theorem Dev.setLatch_lports (d : Dev) (k key v : Nat) : (d.setLatch k key v).lports = d.lports := rfl
@[simp] theorem Dev.setLatch_pports (d : Dev) (k key v : Nat) : (d.setLatch k key v).pports = d.pports := rfl
@[simp] theorem Dev.setLatch_engines (d : Dev) (k key v : Nat) : (d.setLatch k key v).engines = d.engines := rfl
@[simp] theorem Dev.setLatch_frames (d : Dev) (k key v : Nat) : (d.setLatch k key v).frames = d.frames := rfl
@[simp] theorem Dev.setLatch_nextFid (d : Dev) (k key v : Nat) : (d.setLatch k key v).nextFid = d.nextFid := rfl
@[simp] theorem Dev.setLatch_arrivals (d : Dev) (k key v : Nat) : (d.setLatch k key v).arrivals = d.arrivals := rfl
@[simp] theorem Dev.setLatch_grants (d : Dev) (k key v : Nat) : (d.setLatch k key v).grants = d.grants := rfl
@[simp] theorem Dev.setLatch_copies (d : Dev) (k key v : Nat) : (d.setLatch k key v).copies = d.copies := rfl
@[simp] theorem Dev.setLatch_nextCid (d : Dev) (k key v : Nat) : (d.setLatch k key v).nextCid = d.nextCid := rfl
@[simp] theorem Dev.setLatch_pfcRx (d : Dev) (k key v : Nat) : (d.setLatch k key v).pfcRx = d.pfcRx := rfl
@[simp] theorem Dev.setLatch_hoppers (d : Dev) (k key v : Nat) : (d.setLatch k key v).hoppers = d.hoppers := rfl
@[simp] theorem Dev.setLatch_isas (d : Dev) (k key v : Nat) : (d.setLatch k key v).isas = d.isas := rfl
@[simp] theorem Dev.setLatch_tbl (d : Dev) (k key v : Nat) : (d.setLatch k key v).tbl = d.tbl := rfl
@[simp] theorem Dev.setLatch_amlQ (d : Dev) (k key v : Nat) : (d.setLatch k key v).amlQ = d.amlQ := rfl
@[simp] theorem Dev.setLatch_aml (d : Dev) (k key v : Nat) : (d.setLatch k key v).aml = d.aml := rfl
@[simp] theorem Dev.setLatch_cmdqs (d : Dev) (k key v : Nat) : (d.setLatch k key v).cmdqs = d.cmdqs := rfl
@[simp] theorem Dev.setLatch_stageFrames (d : Dev) (k key v : Nat) : (d.setLatch k key v).stageFrames = d.stageFrames := rfl
@[simp] theorem Dev.setLatch_stageBytes (d : Dev) (k key v : Nat) : (d.setLatch k key v).stageBytes = d.stageBytes := rfl
@[simp] theorem Dev.setLatch_stageRegs (d : Dev) (k key v : Nat) : (d.setLatch k key v).stageRegs = d.stageRegs := rfl
@[simp] theorem Dev.setLatch_lists (d : Dev) (k key v : Nat) : (d.setLatch k key v).lists = d.lists := rfl
@[simp] theorem Dev.setLatch_members (d : Dev) (k key v : Nat) : (d.setLatch k key v).members = d.members := rfl
@[simp] theorem Dev.setLatch_links (d : Dev) (k key v : Nat) : (d.setLatch k key v).links = d.links := rfl
@[simp] theorem Dev.setLatch_linkErrs (d : Dev) (k key v : Nat) : (d.setLatch k key v).linkErrs = d.linkErrs := rfl
@[simp] theorem Dev.setLatch_senders (d : Dev) (k key v : Nat) : (d.setLatch k key v).senders = d.senders := rfl
@[simp] theorem Dev.setLatch_rsqs (d : Dev) (k key v : Nat) : (d.setLatch k key v).rsqs = d.rsqs := rfl
@[simp] theorem Dev.setLatch_admitQ (d : Dev) (k key v : Nat) : (d.setLatch k key v).admitQ = d.admitQ := rfl
@[simp] theorem Dev.setLatch_buf (d : Dev) (k key v : Nat) : (d.setLatch k key v).buf = d.buf := rfl
@[simp] theorem Dev.setLatch_tm (d : Dev) (k key v : Nat) : (d.setLatch k key v).tm = d.tm := rfl
@[simp] theorem Dev.setLatch_hbm (d : Dev) (k key v : Nat) : (d.setLatch k key v).hbm = d.hbm := rfl
@[simp] theorem Dev.setLatch_spill (d : Dev) (k key v : Nat) : (d.setLatch k key v).spill = d.spill := rfl
@[simp] theorem Dev.setLatch_wire (d : Dev) (k key v : Nat) : (d.setLatch k key v).wire = d.wire := rfl
@[simp] theorem Dev.setLatch_ae (d : Dev) (k key v : Nat) : (d.setLatch k key v).ae = d.ae := rfl

/-! ## `Dev.setPolicer` changes `tm` -/

@[simp] theorem Dev.setPolicer_now (d : Dev) (k : Nat) (p : Policer) : (d.setPolicer k p).now = d.now := rfl
@[simp] theorem Dev.setPolicer_freeCount (d : Dev) (k : Nat) (p : Policer) : (d.setPolicer k p).freeCount = d.freeCount := rfl
@[simp] theorem Dev.setPolicer_regs (d : Dev) (k : Nat) (p : Policer) : (d.setPolicer k p).regs = d.regs := rfl
@[simp] theorem Dev.setPolicer_time (d : Dev) (k : Nat) (p : Policer) : (d.setPolicer k p).time = d.time := rfl
@[simp] theorem Dev.setPolicer_hosts (d : Dev) (k : Nat) (p : Policer) : (d.setPolicer k p).hosts = d.hosts := rfl
@[simp] theorem Dev.setPolicer_rings (d : Dev) (k : Nat) (p : Policer) : (d.setPolicer k p).rings = d.rings := rfl
@[simp] theorem Dev.setPolicer_ringQ (d : Dev) (k : Nat) (p : Policer) : (d.setPolicer k p).ringQ = d.ringQ := rfl
@[simp] theorem Dev.setPolicer_leases (d : Dev) (k : Nat) (p : Policer) : (d.setPolicer k p).leases = d.leases := rfl
@[simp] theorem Dev.setPolicer_bridge (d : Dev) (k : Nat) (p : Policer) : (d.setPolicer k p).bridge = d.bridge := rfl
@[simp] theorem Dev.setPolicer_fan (d : Dev) (k : Nat) (p : Policer) : (d.setPolicer k p).fan = d.fan := rfl
@[simp] theorem Dev.setPolicer_slices (d : Dev) (k : Nat) (p : Policer) : (d.setPolicer k p).slices = d.slices := rfl
@[simp] theorem Dev.setPolicer_loader (d : Dev) (k : Nat) (p : Policer) : (d.setPolicer k p).loader = d.loader := rfl
@[simp] theorem Dev.setPolicer_banks (d : Dev) (k : Nat) (p : Policer) : (d.setPolicer k p).banks = d.banks := rfl
@[simp] theorem Dev.setPolicer_epochs (d : Dev) (k : Nat) (p : Policer) : (d.setPolicer k p).epochs = d.epochs := rfl
@[simp] theorem Dev.setPolicer_vers (d : Dev) (k : Nat) (p : Policer) : (d.setPolicer k p).vers = d.vers := rfl
@[simp] theorem Dev.setPolicer_fuses (d : Dev) (k : Nat) (p : Policer) : (d.setPolicer k p).fuses = d.fuses := rfl
@[simp] theorem Dev.setPolicer_errs (d : Dev) (k : Nat) (p : Policer) : (d.setPolicer k p).errs = d.errs := rfl
@[simp] theorem Dev.setPolicer_stats (d : Dev) (k : Nat) (p : Policer) : (d.setPolicer k p).stats = d.stats := rfl
@[simp] theorem Dev.setPolicer_lports (d : Dev) (k : Nat) (p : Policer) : (d.setPolicer k p).lports = d.lports := rfl
@[simp] theorem Dev.setPolicer_pports (d : Dev) (k : Nat) (p : Policer) : (d.setPolicer k p).pports = d.pports := rfl
@[simp] theorem Dev.setPolicer_engines (d : Dev) (k : Nat) (p : Policer) : (d.setPolicer k p).engines = d.engines := rfl
@[simp] theorem Dev.setPolicer_frames (d : Dev) (k : Nat) (p : Policer) : (d.setPolicer k p).frames = d.frames := rfl
@[simp] theorem Dev.setPolicer_nextFid (d : Dev) (k : Nat) (p : Policer) : (d.setPolicer k p).nextFid = d.nextFid := rfl
@[simp] theorem Dev.setPolicer_arrivals (d : Dev) (k : Nat) (p : Policer) : (d.setPolicer k p).arrivals = d.arrivals := rfl
@[simp] theorem Dev.setPolicer_grants (d : Dev) (k : Nat) (p : Policer) : (d.setPolicer k p).grants = d.grants := rfl
@[simp] theorem Dev.setPolicer_copies (d : Dev) (k : Nat) (p : Policer) : (d.setPolicer k p).copies = d.copies := rfl
@[simp] theorem Dev.setPolicer_nextCid (d : Dev) (k : Nat) (p : Policer) : (d.setPolicer k p).nextCid = d.nextCid := rfl
@[simp] theorem Dev.setPolicer_pfcRx (d : Dev) (k : Nat) (p : Policer) : (d.setPolicer k p).pfcRx = d.pfcRx := rfl
@[simp] theorem Dev.setPolicer_hoppers (d : Dev) (k : Nat) (p : Policer) : (d.setPolicer k p).hoppers = d.hoppers := rfl
@[simp] theorem Dev.setPolicer_isas (d : Dev) (k : Nat) (p : Policer) : (d.setPolicer k p).isas = d.isas := rfl
@[simp] theorem Dev.setPolicer_tbl (d : Dev) (k : Nat) (p : Policer) : (d.setPolicer k p).tbl = d.tbl := rfl
@[simp] theorem Dev.setPolicer_amlQ (d : Dev) (k : Nat) (p : Policer) : (d.setPolicer k p).amlQ = d.amlQ := rfl
@[simp] theorem Dev.setPolicer_aml (d : Dev) (k : Nat) (p : Policer) : (d.setPolicer k p).aml = d.aml := rfl
@[simp] theorem Dev.setPolicer_cmdqs (d : Dev) (k : Nat) (p : Policer) : (d.setPolicer k p).cmdqs = d.cmdqs := rfl
@[simp] theorem Dev.setPolicer_stageFrames (d : Dev) (k : Nat) (p : Policer) : (d.setPolicer k p).stageFrames = d.stageFrames := rfl
@[simp] theorem Dev.setPolicer_stageBytes (d : Dev) (k : Nat) (p : Policer) : (d.setPolicer k p).stageBytes = d.stageBytes := rfl
@[simp] theorem Dev.setPolicer_stageRegs (d : Dev) (k : Nat) (p : Policer) : (d.setPolicer k p).stageRegs = d.stageRegs := rfl
@[simp] theorem Dev.setPolicer_lists (d : Dev) (k : Nat) (p : Policer) : (d.setPolicer k p).lists = d.lists := rfl
@[simp] theorem Dev.setPolicer_members (d : Dev) (k : Nat) (p : Policer) : (d.setPolicer k p).members = d.members := rfl
@[simp] theorem Dev.setPolicer_links (d : Dev) (k : Nat) (p : Policer) : (d.setPolicer k p).links = d.links := rfl
@[simp] theorem Dev.setPolicer_linkErrs (d : Dev) (k : Nat) (p : Policer) : (d.setPolicer k p).linkErrs = d.linkErrs := rfl
@[simp] theorem Dev.setPolicer_senders (d : Dev) (k : Nat) (p : Policer) : (d.setPolicer k p).senders = d.senders := rfl
@[simp] theorem Dev.setPolicer_rsqs (d : Dev) (k : Nat) (p : Policer) : (d.setPolicer k p).rsqs = d.rsqs := rfl
@[simp] theorem Dev.setPolicer_admitQ (d : Dev) (k : Nat) (p : Policer) : (d.setPolicer k p).admitQ = d.admitQ := rfl
@[simp] theorem Dev.setPolicer_buf (d : Dev) (k : Nat) (p : Policer) : (d.setPolicer k p).buf = d.buf := rfl
@[simp] theorem Dev.setPolicer_hbm (d : Dev) (k : Nat) (p : Policer) : (d.setPolicer k p).hbm = d.hbm := rfl
@[simp] theorem Dev.setPolicer_spill (d : Dev) (k : Nat) (p : Policer) : (d.setPolicer k p).spill = d.spill := rfl
@[simp] theorem Dev.setPolicer_wire (d : Dev) (k : Nat) (p : Policer) : (d.setPolicer k p).wire = d.wire := rfl
@[simp] theorem Dev.setPolicer_ae (d : Dev) (k : Nat) (p : Policer) : (d.setPolicer k p).ae = d.ae := rfl

/-! ## `Dev.setTslice` changes `tbl` -/

@[simp] theorem Dev.setTslice_now (d : Dev) (s : Nat) (x : TblSlice) : (d.setTslice s x).now = d.now := rfl
@[simp] theorem Dev.setTslice_freeCount (d : Dev) (s : Nat) (x : TblSlice) : (d.setTslice s x).freeCount = d.freeCount := rfl
@[simp] theorem Dev.setTslice_regs (d : Dev) (s : Nat) (x : TblSlice) : (d.setTslice s x).regs = d.regs := rfl
@[simp] theorem Dev.setTslice_time (d : Dev) (s : Nat) (x : TblSlice) : (d.setTslice s x).time = d.time := rfl
@[simp] theorem Dev.setTslice_hosts (d : Dev) (s : Nat) (x : TblSlice) : (d.setTslice s x).hosts = d.hosts := rfl
@[simp] theorem Dev.setTslice_rings (d : Dev) (s : Nat) (x : TblSlice) : (d.setTslice s x).rings = d.rings := rfl
@[simp] theorem Dev.setTslice_ringQ (d : Dev) (s : Nat) (x : TblSlice) : (d.setTslice s x).ringQ = d.ringQ := rfl
@[simp] theorem Dev.setTslice_leases (d : Dev) (s : Nat) (x : TblSlice) : (d.setTslice s x).leases = d.leases := rfl
@[simp] theorem Dev.setTslice_bridge (d : Dev) (s : Nat) (x : TblSlice) : (d.setTslice s x).bridge = d.bridge := rfl
@[simp] theorem Dev.setTslice_fan (d : Dev) (s : Nat) (x : TblSlice) : (d.setTslice s x).fan = d.fan := rfl
@[simp] theorem Dev.setTslice_slices (d : Dev) (s : Nat) (x : TblSlice) : (d.setTslice s x).slices = d.slices := rfl
@[simp] theorem Dev.setTslice_loader (d : Dev) (s : Nat) (x : TblSlice) : (d.setTslice s x).loader = d.loader := rfl
@[simp] theorem Dev.setTslice_banks (d : Dev) (s : Nat) (x : TblSlice) : (d.setTslice s x).banks = d.banks := rfl
@[simp] theorem Dev.setTslice_epochs (d : Dev) (s : Nat) (x : TblSlice) : (d.setTslice s x).epochs = d.epochs := rfl
@[simp] theorem Dev.setTslice_vers (d : Dev) (s : Nat) (x : TblSlice) : (d.setTslice s x).vers = d.vers := rfl
@[simp] theorem Dev.setTslice_fuses (d : Dev) (s : Nat) (x : TblSlice) : (d.setTslice s x).fuses = d.fuses := rfl
@[simp] theorem Dev.setTslice_errs (d : Dev) (s : Nat) (x : TblSlice) : (d.setTslice s x).errs = d.errs := rfl
@[simp] theorem Dev.setTslice_stats (d : Dev) (s : Nat) (x : TblSlice) : (d.setTslice s x).stats = d.stats := rfl
@[simp] theorem Dev.setTslice_lports (d : Dev) (s : Nat) (x : TblSlice) : (d.setTslice s x).lports = d.lports := rfl
@[simp] theorem Dev.setTslice_pports (d : Dev) (s : Nat) (x : TblSlice) : (d.setTslice s x).pports = d.pports := rfl
@[simp] theorem Dev.setTslice_engines (d : Dev) (s : Nat) (x : TblSlice) : (d.setTslice s x).engines = d.engines := rfl
@[simp] theorem Dev.setTslice_frames (d : Dev) (s : Nat) (x : TblSlice) : (d.setTslice s x).frames = d.frames := rfl
@[simp] theorem Dev.setTslice_nextFid (d : Dev) (s : Nat) (x : TblSlice) : (d.setTslice s x).nextFid = d.nextFid := rfl
@[simp] theorem Dev.setTslice_arrivals (d : Dev) (s : Nat) (x : TblSlice) : (d.setTslice s x).arrivals = d.arrivals := rfl
@[simp] theorem Dev.setTslice_grants (d : Dev) (s : Nat) (x : TblSlice) : (d.setTslice s x).grants = d.grants := rfl
@[simp] theorem Dev.setTslice_copies (d : Dev) (s : Nat) (x : TblSlice) : (d.setTslice s x).copies = d.copies := rfl
@[simp] theorem Dev.setTslice_nextCid (d : Dev) (s : Nat) (x : TblSlice) : (d.setTslice s x).nextCid = d.nextCid := rfl
@[simp] theorem Dev.setTslice_pfcRx (d : Dev) (s : Nat) (x : TblSlice) : (d.setTslice s x).pfcRx = d.pfcRx := rfl
@[simp] theorem Dev.setTslice_hoppers (d : Dev) (s : Nat) (x : TblSlice) : (d.setTslice s x).hoppers = d.hoppers := rfl
@[simp] theorem Dev.setTslice_isas (d : Dev) (s : Nat) (x : TblSlice) : (d.setTslice s x).isas = d.isas := rfl
@[simp] theorem Dev.setTslice_amlQ (d : Dev) (s : Nat) (x : TblSlice) : (d.setTslice s x).amlQ = d.amlQ := rfl
@[simp] theorem Dev.setTslice_aml (d : Dev) (s : Nat) (x : TblSlice) : (d.setTslice s x).aml = d.aml := rfl
@[simp] theorem Dev.setTslice_cmdqs (d : Dev) (s : Nat) (x : TblSlice) : (d.setTslice s x).cmdqs = d.cmdqs := rfl
@[simp] theorem Dev.setTslice_stageFrames (d : Dev) (s : Nat) (x : TblSlice) : (d.setTslice s x).stageFrames = d.stageFrames := rfl
@[simp] theorem Dev.setTslice_stageBytes (d : Dev) (s : Nat) (x : TblSlice) : (d.setTslice s x).stageBytes = d.stageBytes := rfl
@[simp] theorem Dev.setTslice_stageRegs (d : Dev) (s : Nat) (x : TblSlice) : (d.setTslice s x).stageRegs = d.stageRegs := rfl
@[simp] theorem Dev.setTslice_lists (d : Dev) (s : Nat) (x : TblSlice) : (d.setTslice s x).lists = d.lists := rfl
@[simp] theorem Dev.setTslice_members (d : Dev) (s : Nat) (x : TblSlice) : (d.setTslice s x).members = d.members := rfl
@[simp] theorem Dev.setTslice_links (d : Dev) (s : Nat) (x : TblSlice) : (d.setTslice s x).links = d.links := rfl
@[simp] theorem Dev.setTslice_linkErrs (d : Dev) (s : Nat) (x : TblSlice) : (d.setTslice s x).linkErrs = d.linkErrs := rfl
@[simp] theorem Dev.setTslice_senders (d : Dev) (s : Nat) (x : TblSlice) : (d.setTslice s x).senders = d.senders := rfl
@[simp] theorem Dev.setTslice_rsqs (d : Dev) (s : Nat) (x : TblSlice) : (d.setTslice s x).rsqs = d.rsqs := rfl
@[simp] theorem Dev.setTslice_admitQ (d : Dev) (s : Nat) (x : TblSlice) : (d.setTslice s x).admitQ = d.admitQ := rfl
@[simp] theorem Dev.setTslice_buf (d : Dev) (s : Nat) (x : TblSlice) : (d.setTslice s x).buf = d.buf := rfl
@[simp] theorem Dev.setTslice_tm (d : Dev) (s : Nat) (x : TblSlice) : (d.setTslice s x).tm = d.tm := rfl
@[simp] theorem Dev.setTslice_hbm (d : Dev) (s : Nat) (x : TblSlice) : (d.setTslice s x).hbm = d.hbm := rfl
@[simp] theorem Dev.setTslice_spill (d : Dev) (s : Nat) (x : TblSlice) : (d.setTslice s x).spill = d.spill := rfl
@[simp] theorem Dev.setTslice_wire (d : Dev) (s : Nat) (x : TblSlice) : (d.setTslice s x).wire = d.wire := rfl
@[simp] theorem Dev.setTslice_ae (d : Dev) (s : Nat) (x : TblSlice) : (d.setTslice s x).ae = d.ae := rfl

end Sys2Proof.Machine
end

