-- ==== Sys2Proof/Tests/Slice0.lean ====
section
/-! SUPPORT. The model's own tests: ill-formed commands, states that meet the hypotheses of each statement, and single steps whose
results the spec gives. -/
set_option Elab.async false
namespace Sys2Proof.Tests
open Sys2Proof.Machine

/-! ## Small states -/

def put (b : List Byte) (o : Nat) (bs : List Byte) : List Byte := b.take o ++ bs ++ b.drop (o + bs.length)

/-- An image with the given sections (type, instance, DEST, payload), each at 0x400 and every 0x200 bytes on. -/
def imgOf (ss : List (Nat × Nat × Nat × List Byte)) : List Byte :=
  let b := put (put (List.replicate (0x400 + 0x200 * ss.length) 0) 0x0C (leBytes 2 ss.length)) 0x24 (leBytes 4 0x80)
  (List.range ss.length).foldl (fun b i =>
    match ss[i]? with
    | some (typ, inst, dest, bs) =>
      let o := 0x400 + 0x200 * i
      put (put b (0x80 + 32 * i) (leBytes 2 typ ++ [0xFF, 0xF] ++ leBytes 2 inst ++ leBytes 2 0 ++ leBytes 4 o ++ leBytes 4 bs.length
        ++ leBytes 4 dest)) o bs
    | none => b) b

/-- A placement record (R56): ID, kind, slice, first unit, units, width, depth. -/
def placeRec (id kind slice first count width depth : Nat) : List Byte :=
  leBytes 2 id ++ leBytes 1 kind ++ leBytes 1 slice ++ leBytes 2 first ++ leBytes 2 count ++ leBytes 1 width ++ leBytes 1 depth ++ leBytes 6 0

def S (d : Dev) : State := { dev := d, pending := [] }

/-- READY with 48 V and host port 0 linked. -/
def rdy : Dev := { hosts := [(0, { up := true, bme := true })], fan := { st := .ready, inputHigh := true } }

/-- The same with an image running in bank 0 as epoch 0. -/
def runs (img : List Byte) : Dev := { rdy with banks := [(0, { st := .running, img := img })], epochs := { run := some 0 } }

/-- Every logical port of every physical port in use alone, enabled by its plan. -/
def planned : Dev := runs (imgOf [(9, 0, 0, List.replicate 64 0x80)])

/-- A device with command `v` of host port 0 at the head of an engine's queue. -/
def asked (d : Dev) (e : Engine7) (k v : Nat) : Dev := { d with cmdqs := [(e.num * 8 + k, [(0, v)])] }

/-! ## Ill-formed commands -/

theorem ill_registerWrite : (Instr.registerWrite 0 2 0 0).wellFormed = false := by decide
theorem ill_rcRead : (Instr.rcRead 0 1 none).wellFormed = false := by decide
theorem ill_counterLowRead : (Instr.counterLowRead 0 4).wellFormed = false := by decide
theorem ill_stoppedDomainAccess : (Instr.stoppedDomainAccess 0 3 true 0).wellFormed = false := by decide
theorem ill_imageWrite_offset : (Instr.imageWrite 0 2 [0, 0, 0, 0]).wellFormed = false := by decide
theorem ill_imageWrite_length : (Instr.imageWrite 0 0 [0, 0, 0]).wellFormed = false := by decide
theorem ill_imageWrite_empty : (Instr.imageWrite 0 0 []).wellFormed = false := by decide
theorem ill_imageWrite_long : (Instr.imageWrite 0 0 (List.replicate 516 0)).wellFormed = false := by decide +kernel
theorem ill_imageWrite_end : (Instr.imageWrite 0 0x3FFFFFC [0, 0, 0, 0, 0, 0, 0, 0]).wellFormed = false := by decide
theorem ill_fecDegWindow : (Instr.fecDegWindow 0 0 0 0 [0, 0, 0, 0, 0, 0, 0, 0, 0]).wellFormed = false := by decide
theorem ill_testPages : (Instr.testPages 0 [0x100000]).wellFormed = false := by decide
theorem ill_perstDeassert_width : (Instr.perstDeassert 0 0 5 ⟨true, 0⟩).wellFormed = false := by decide
theorem ill_perstDeassert_speed : (Instr.perstDeassert 0 8 0 ⟨true, 0⟩).wellFormed = false := by decide
theorem ill_i3cPrivateRead : (Instr.i3cPrivateRead 0).wellFormed = false := by decide

/-! ## Witnesses: loading, versions, fuses -/

theorem witness_StepRunsFront : ({ S rdy with pending := [.activation] } : State).pending = .activation :: [] ∧ (S rdy).pending = [] := by
  decide +kernel

def loads (l : Loader) : State := S { rdy with loader := { l with held := true, owner := 0 } }

theorem witness_TheLoaderIsClaimedAndItsOwnersAlone :
    ((S rdy).linked 0 ∧ (S rdy).dev.loader.held = false)
    ∧ (let s := S { rdy with loader := { held := true, owner := 3 } }; s.linked 0 ∧ s.dev.loader.held = true ∧ s.dev.loader.owner ≠ 0)
    ∧ (loads { st := .failed }).loads 0
    ∧ ((loads { st := .staged }).loads 0 ∧ (loads { st := .staged }).dev.loader.st = .staged) := by decide +kernel

theorem witness_TheLoaderIsClaimedAndItsOwnersAlone_refused :
    (∀ l ∈ [({} : Loader), { held := true, owner := 3 }], let s := S { rdy with loader := l }
      s.linked 0 ∧ ¬ (s.dev.loader.held = true ∧ s.dev.loader.owner = 0))
    ∧ (Instr.imageWrite 0 0x3FFFFFC [1, 2, 3, 4]).wellFormed = true := by decide +kernel

theorem witness_LoaderCommandsMoveTheLoader :
    ((loads {}).loads 0 ∧ (loads {}).dev.fan.st = .ready ∧ (loads {}).dev.loader.st = .empty)
    ∧ (loads { st := .draining }).loads 0 ∧ (loads { st := .failed }).loads 0 ∧ (loads { st := .staged }).loads 0
    ∧ ((loads { st := .armed, armTime := 1 }).loads 0 ∧ (loads { st := .armed, armTime := 1 }).dev.ns64 < 1)
    ∧ ((loads { st := .armed }).loads 0 ∧ (loads { st := .armed }).dev.loader.armTime ≤ (loads { st := .armed }).dev.ns64)
    ∧ ((loads { st := .armed, armTime := 1 }).dev.fan.st = .ready ∧ (S { (loads {}).dev with fan := { st := .init } }).loads 0)
    ∧ ((loads { st := .loading, img := [0] }).dev.loader.img.length < 2 ^ 32 ∧ (loads { st := .loading, img := [0] }).loads 0) := by decide +kernel

theorem witness_ImageBytesArriveInOrder :
    let s := loads { st := .loading }
    let head : List Byte := [0x46, 0x4C, 0x43, 0x4E]
    s.loads 0 ∧ (Instr.imageWrite 0 0 head).wellFormed = true ∧ head.length ≤ 128 * 2 ^ (s.dev.host 0).mps ∧ s.dev.rd R.IMG_WIN 0 = 0 ∧ ([] ++ head).length < 128 ∧ streamErr head 0 4 = none
    ∧ (Instr.imageWrite 0 0x3FFFFFC head).wellFormed = true ∧ 0x3FFFFFC ≠ s.dev.loader.img.length
    ∧ (loads { st := .staged }).dev.loader.st ≠ .loading := by decide +kernel

theorem witness_LoadIsVerifiedOrFails :
    let img := put (List.replicate 0x180 (0 : Byte)) 8 (leBytes 4 0x180)
    let s := loads { st := .loading, img := img }
    s.dev.loader.st = .loading ∧ 128 ≤ img.length ∧ img.length = imgLen img ∧ s.dev.verifyErr img (s.dev.crossChecks img).1 = some (8, 0x17)
    ∧ (loads { st := .armed }).dev.loader.st = .armed ∧ fld (0x10 : BitVec 16).toNat 4 1 ≠ (loads {}).dev.loadBank
    ∧ fld (0 : BitVec 16).toNat 4 1 = (loads {}).dev.loadBank ∧ (bankedPlace 0x0A 0 1023).isSome = true
    ∧ imageOffsetOf ((loads {}).dev.bank 0).img 3 0 0 0 0 64 < 2 ^ 32 ∧ bankedPlace 0x07 0 0 = none := by decide +kernel

theorem witness_ActivationStampsTheNewEpoch :
    let s := S { planned with loader := { st := .armed } }
    s.dev.loader.st = .armed ∧ s.dev.loader.armTime ≤ s.dev.ns64 ∧ s.dev.epochs.run = some 0
    ∧ (let r := S { rdy with loader := { st := .armed, armTime := 1 } }; r.dev.ns64 < r.dev.loader.armTime) := by decide +kernel

theorem witness_OldEpochRetiresWhenEmpty :
    let s := S { rdy with loader := { st := .draining }, epochs := { run := some 1, old := some 0 } }
    let w := S { rdy with loader := { st := .draining }, epochs := { run := some 1, old := some 0, live := [(0, 1)] } }
    s.dev.loader.st = .draining ∧ s.dev.epochs.old = some 0 ∧ s.dev.epochs.run = some 1 ∧ SMap.get 0 s.dev.epochs.live 0 = 0
    ∧ s.dev.inTransit (fun e _ => decide (e = 0)) = false ∧ s.dev.stamped (fun e _ => decide (e = 0)) = false
    ∧ (∀ k : SliceNo, (s.dev.slc k).st = .run) ∧ s.dev.loader.slow = false
    ∧ SMap.get 0 w.dev.epochs.live 0 ≠ 0 ∧ s.dev.now < s.dev.loader.drainSince + s.dev.rd R.IMG_DRAIN_LIMIT 0 * 1000
    ∧ (let z := { s.dev with now := s.dev.rd R.IMG_DRAIN_LIMIT 0 * 1000 }; z.loader.drainSince + z.rd R.IMG_DRAIN_LIMIT 0 * 1000 ≤ z.now) := by
  decide +kernel

theorem witness_VersionsCommitAndRetire :
    let s := S { rdy with vers := { oldLive := true, cur := 1 } }
    (S rdy).linked 0 ∧ (S rdy).dev.vers.oldLive = false ∧ s.linked 0 ∧ s.dev.vers.oldLive = true ∧ SMap.get 0 s.dev.vers.live s.dev.vers.old = 0
    ∧ s.dev.inTransit (fun _ v => decide (v = s.dev.vers.old)) = false ∧ s.dev.stamped (fun _ v => decide (v = s.dev.vers.old)) = false ∧ s.dev.vers.pending = false ∧ s.dev.vers.slow = false
    ∧ (let z := { s.dev with now := s.dev.rd R.VER_DRAIN_LIMIT 0 * 1000 }; z.vers.drainSince + z.rd R.VER_DRAIN_LIMIT 0 * 1000 ≤ z.now) := by
  decide +kernel

/-- A complete FUSE_ARB record that made VALUE `v`; one left torn. -/
def arbRec (v : Nat) : LogRecord := ⟨3 + 2 ^ 13 + 2 ^ 14, v, 0, 0, []⟩
def torn : LogRecord := ⟨3 + 2 ^ 13, 0, 0, 0, []⟩
def keyRec (kind k : Nat) : LogRecord := ⟨kind + k * 2 ^ 8 + 2 ^ 13 + 2 ^ 14, 0, 0, 0, []⟩

theorem witness_FuseWritesAreTestedInOrder :
    (let s := S { rdy with fuses := { busy := true } }; s.linked 0 ∧ s.dev.fuseBusy = true)
    ∧ (let s := S { rdy with fan := { st := .ready } }; s.linked 0 ∧ s.dev.fuseBusy = false ∧ s.dev.fan.inputHigh = false)
    ∧ (let s := S { rdy with fuses := { log := [arbRec 5] } }; s.linked 0 ∧ s.dev.fuseBusy = false ∧ s.dev.fan.inputHigh = true
      ∧ (4 : Word).toNat &&& 0xFF < fuseVal s.dev.fuses 3 ∧ (5 : Word).toNat &&& 0xFF = fuseVal s.dev.fuses 3
      ∧ fuseVal s.dev.fuses 3 < (6 : Word).toNat &&& 0xFF ∧ fuseUsed s.dev.fuses 3 < fuseSteps 3)
    ∧ (let s := S { rdy with fuses := { log := List.replicate 128 torn } }; fuseSteps 3 ≤ fuseUsed s.dev.fuses 3
      ∧ (1 : Word).toNat &&& 0xFF ≠ fuseVal s.dev.fuses 3) := by decide +kernel

theorem witness_KeySlotsEnrolAndRevoke :
    let one := S { rdy with fuses := { log := [keyRec 1 0] } }
    let two := S { rdy with fuses := { log := [keyRec 1 0, keyRec 1 3, keyRec 2 3] } }
    one.linked 0 ∧ one.dev.fuseBusy = false ∧ one.dev.fan.inputHigh = true
    ∧ (let b := S { rdy with fuses := { busy := true } }; b.linked 0 ∧ b.dev.fuseBusy = true)
    ∧ (let p := S { rdy with fan := { st := .ready } }; p.linked 0 ∧ p.dev.fuseBusy = false ∧ p.dev.fan.inputHigh = false)
    ∧ keyUsed one.dev.fuses 1 0 = true ∧ keyUsed one.dev.fuses 1 3 = false ∧ keyRevoked one.dev.fuses 3 = false
    ∧ keyUsable one.dev.fuses 0 = true ∧ (∀ j : Fin 4, j ≠ 0 → keyUsable one.dev.fuses j = false) ∧ keyUsed one.dev.fuses 2 0 = false
    ∧ keyUsed two.dev.fuses 2 3 = true ∧ keyUsable two.dev.fuses 1 = false
    ∧ (S { rdy with fuses := { busy := true, job := some torn } }).dev.fuses.job = some torn ∧ one.dev.fuses.job = none := by decide +kernel

theorem witness_ArbAdvancesAtRetirement :
    let img := put (List.replicate 128 (0 : Byte)) 0x16 [9]
    let s := S { runs img with loader := { arbDue := true } }
    let full := S { runs img with loader := { arbDue := true }, fuses := { log := List.replicate 128 torn } }
    s.dev.loader.arbDue = true ∧ s.dev.fuses.busy = false ∧ s.dev.fan.inputHigh = true ∧ fuseVal s.dev.fuses 3 < imgSvn s.dev.runImage ∧ fuseUsed s.dev.fuses 3 < 128
    ∧ 128 ≤ fuseUsed full.dev.fuses 3 ∧ fuseVal full.dev.fuses 3 < imgSvn full.dev.runImage
    ∧ (let z := S { runs img with loader := { arbDue := true }, fuses := { log := [arbRec 9] } }; imgSvn z.dev.runImage ≤ fuseVal z.dev.fuses 3)
    ∧ ({ s.dev with fan := { st := .ready } } : Dev).fan.inputHigh = false
    ∧ (S rdy).dev.loader.arbDue = false := by decide +kernel

/-! ## Witnesses: ports and optics -/

theorem witness_LogicalPortMovesThroughItsStates :
    let d : Dev := planned.wr R.LP_CTRL 0 1
    let at_ := fun (x : LPort) => ({ d with lports := [(0, x)], now := 10 ^ 12 } : Dev)
    let m := d.laneMask 0
    d.lpEligible 0 = true ∧ (d.eng (engineOf 0)).overtemp = false ∧ d.fan.st = .ready ∧ d.portIdle (physOf 0) = true
    ∧ lmapOk (d.rd R.PP_LMAP_TX 0) = true ∧ lmapOk (d.rd R.PP_LMAP_RX 0) = true ∧ (d.lp 0).st = .disabled
    ∧ rdy.lpEligible 0 = false
    ∧ (let z := { at_ { st := .light } with engines := [(0, { litPri := 0xFF })] }; (z.lp 0).st = .light
      ∧ ∀ j : Fin 8, z.usesLane 0 j = true → (z.eng 0).lit j = true)
    ∧ ((255 : BitVec 8).toNat &&& m = m ∧ (0 : BitVec 8).toNat &&& m ≠ m)
    ∧ (∀ st ∈ [LpState.acquire, .verify, .up, .fault], ((at_ { st := st }).lp 0).st = st)
    ∧ (((at_ { st := .verify, rfRx := true }).lp 0).st = .verify ∧ ((at_ { st := .verify, rfRx := true }).lp 0).rfRx = true)
    ∧ (let z := at_ { st := .verify, timer := 10 ^ 12 - d.fldOf R.LP_TIMERS 0 0 8 * 1000000 };
      (z.lp 0).rfRx = false ∧ (z.lp 0).timer + z.fldOf R.LP_TIMERS 0 0 8 * 1000000 ≤ z.now)
    ∧ (let z := (at_ { st := .fault, aligned := true, timer := 10 ^ 12 }).wr R.LP_TIMERS 0 0x10000; (z.lp 0).rfRx = false
      ∧ (z.lp 0).aligned = true ∧ z.now < (z.lp 0).timer + z.fldOf R.LP_TIMERS 0 16 16 * 1000)
    ∧ (let z := at_ { st := .fault }; (z.lp 0).timer + z.fldOf R.LP_TIMERS 0 16 16 * 1000 ≤ z.now) := by decide +kernel

theorem witness_ReceiveMacAndFecWindow :
    let d : Dev := { rdy with lports := [(0, { st := .up })] }
    let f : List Byte := List.replicate 64 0
    let c : List Byte := List.replicate 12 0 ++ [0x88, 0x08, 1, 1] ++ List.replicate 48 0
    let good := c.take 60 ++ fcsBytes (c.take 60)
    let size := max 64 (d.fldOf R.LP_CTRL 0 16 14)
    (d.lp 0).st = .up ∧ d.bitOf R.LP_CTRL 0 2 = false ∧ (rdy.lp 0).st ≠ .up ∧ (d.wr R.LP_CTRL 0 4).bitOf R.LP_CTRL 0 2 = true
    ∧ (f.take 63).length < 64 ∧ (f.length = 64 ∧ beAt f 12 2 ≠ 0x8808)
    ∧ (64 ≤ good.length ∧ beAt good 12 2 = 0x8808 ∧ beAt good 14 2 = 0x0101 ∧ good.length ≤ size ∧ fcsGood good = true)
    ∧ fcsGood c = false ∧ beAt (put c 15 [2]) 14 2 ≠ 0x0101
    ∧ (let long := c ++ List.replicate (size - 63) 0; size < long.length ∧ 64 ≤ long.length ∧ beAt long 12 2 = 0x8808) := by decide +kernel

theorem witness_LaserSourcesAreMonitored :
    let at_ := fun (e : Engine) (min : Nat) => ({ rdy.wr R.OE_POWER_MIN 0 min with engines := [(0, e)], now := 600 * 10 ^ 9 } : Dev)
    let d := at_ { litPri := 1, darkAt := [(1, 5)], lastSave := 0 } 0
    let low := at_ { litPri := 1 } (9 * 2 ^ 16)
    let z := at_ { litSpr := 1, spare := 1 } (9 * 2 ^ 16)
    (d.eng 0).lit 0 = true ∧ (d.eng 0).lit 1 = false ∧ bitOn (d.eng 0).spare 0 = false ∧ ¬ (0 : BitVec 16).toNat < d.fldOf R.OE_POWER_MIN 0 16 16
    ∧ (8 : BitVec 16).toNat < low.fldOf R.OE_POWER_MIN 0 16 16 ∧ (low.eng 0).lit 0 = true ∧ bitOn (low.eng 0).spare 0 = false
    ∧ (z.eng 0).lit 0 = true ∧ bitOn (z.eng 0).spare 0 = true ∧ ¬ (9 : BitVec 16).toNat < z.fldOf R.OE_POWER_MIN 0 16 16
    ∧ (8 : BitVec 16).toNat < z.fldOf R.OE_POWER_MIN 0 16 16
    ∧ SMap.get 0 (d.eng 0).darkAt 1 ≠ 0 ∧ SMap.get 0 (d.eng 0).darkAt 1 ≤ d.now ∧ d.laneUser 0 1 = false
    ∧ (let u : Dev := { planned with lports := [(0, { st := .light })] }; ∃ j : Fin 8, u.laneUser 0 j = true)
    ∧ (d.eng 0).lastSave + 600 * 10 ^ 9 ≤ d.now ∧ rdy.now < (rdy.eng 0).lastSave + 600 * 10 ^ 9 := by decide +kernel

theorem witness_PlannedFailoverRunsInPhases :
    let d := fun (e : Engine) => ({ rdy.wr R.OE_POWER_MIN 0 1 with engines := [(0, e)], now := 500000 } : Dev)
    let e : Engine := { litPri := 1, requests := [(0, true)] }
    (S (d e)).linked 0 ∧ ((d e).slc 0).macRun = true ∧ ((d e).eng 0).ignores 0 true = false
    ∧ ((d { spare := 1 }).eng 0).ignores 0 false = false ∧ ((d { spare := 1 }).eng 0).ignores 0 true = true
    ∧ ((d e).eng 0).failover = none ∧ ((d e).eng 0).requests = [(0, true)] ∧ ((d e).eng 0).lit 0 = true
    ∧ ((d { requests := [(0, true)] }).eng 0).lit 0 = false ∧ ((d {}).eng 0).requests = []
    ∧ (((d { requests := [(0, true)], spare := 1 }).eng 0).ignores 0 true = true)
    ∧ (∀ onSpare, ((d { failover := some ⟨0, onSpare, .started, 0⟩ }).eng 0).failover = some ⟨0, onSpare, .started, 0⟩) ∧ 0 + 500000 ≤ (d e).now
    ∧ ((d { failover := some ⟨0, true, .started, 1⟩ }).eng 0).failover = some ⟨0, true, .started, 1⟩ ∧ (d e).now < 1 + 500000
    ∧ (d e).fldOf R.OE_POWER_MIN 0 0 16 ≤ (1 : BitVec 16).toNat ∧ (0 : BitVec 16).toNat < (d e).fldOf R.OE_POWER_MIN 0 0 16
    ∧ ((d { failover := some ⟨0, true, .quiet, 0⟩ }).eng 0).failover = some ⟨0, true, .quiet, 0⟩ := by decide +kernel

theorem witness_EngineTemperatureAndLaneMaps :
    let locked : Dev := { rdy with fuses := { log := [⟨4 + 2 ^ 13 + 2 ^ 14, 1, 0, 0, []⟩] } }
    (760 : BitVec 12).toInt = 760 ∧ (759 : BitVec 12).toInt < 760 ∧ (720 : BitVec 12).toInt = 720 ∧ (719 : BitVec 12).toInt < 720
    ∧ (0x800 : BitVec 12).toInt < 720 ∧ (rdy.eng 0).overtemp = false ∧ ({ overtemp := true } : Engine).overtemp = true
    ∧ (S rdy).linked 0 ∧ (rdy.slc 0).macRun = true ∧ rdy.laneLock 0 = false
    ∧ (rdy.eng 0).saving = none ∧ (S locked).linked 0 ∧ locked.laneLock 0 = true
    ∧ (let z : Dev := { rdy with engines := [(0, { saving := some [1, 2] })] }; (z.eng 0).saving = some [1, 2] ∧ (S z).linked 0
      ∧ (z.slc 0).macRun = true ∧ z.laneLock 0 = false) := by decide +kernel

theorem witness_TimestampFifoIsReadAndFramesLeave :
    let t : TsEntry := ⟨7, 1, 2, 0⟩
    let c : Copy := { headOut := true, relWhole := true }
    let at_ := fun (c : Copy) (x : LPort) => ({ rdy with lports := [(0, x)], copies := [(0, some c)] } : Dev)
    let d := at_ c { st := .up, tsFifo := [t] }
    (S d).linked 0 ∧ (d.slc 0).macRun = true ∧ (d.lp 0).tsFifo = [t] ∧ (d.lp 1).tsFifo = []
    ∧ d.cpy 0 = some c ∧ (d.lp 0).txQuiet = false ∧ d.earlierHead 0 c = false ∧ d.egressForced c = none ∧ (d.lp 0).st = .up
    ∧ (c.relWhole = true ∧ c.tag.stomp = false ∧ c.bad = 0) ∧ ({ c with bad := 1 } : Copy).bad ≠ 0 ∧ d.cpy 1 = none
    ∧ (let z := at_ { c with relWhole := false } { st := .up }; z.cpy 0 = some { c with relWhole := false } ∧ z.egressForced c = none
      ∧ z.earlierHead 0 { c with relWhole := false } = false)
    ∧ (let z := at_ c {}; (z.lp 0).st ≠ .up ∧ z.earlierHead 0 c = false ∧ z.egressForced c = none)
    ∧ (let z := { d with loader := { st := .draining, force := true }, epochs := { run := some 1, old := some 0 } };
      (z.egressForced c).isSome = true ∧ z.earlierHead 0 c = false) := by
  decide +kernel

/-! ## Witnesses: frames in the ingress -/

theorem witness_HopperReservesThenAdmits :
    let f : Frame := { mac := List.replicate 65 0 }
    let one : Frame := { mac := List.replicate 64 0 }
    let d : Dev := { rdy with frames := [(0, some f)], nextFid := 1, lports := [(0, { st := .up })] }
    let full : Dev := { d with hoppers := [(0, { fill := 8192 })] }
    let need := ceilDiv (max 64 (d.fldOf R.LP_CTRL 0 16 14)) 64
    let waiting := fun (d : Dev) => d.framesBy (fun f => decide (f.place = .mac) && decide (f.lport = 0))
    let prog := fun (f : Frame) => ({ d with hoppers := [(0, { inProg := [(0, 1)], resv := 9 })], frames := [(0, some f)] } : Dev)
    (S d).noUpsets ∧ waiting d = [0] ∧ d.frame 0 = some f ∧ f.lport = 0 ∧ f.slice = 0 / 64 ∧ SMap.get 0 (d.hop 0).inProg 0 = 0
    ∧ f.mac ≠ [] ∧ f.macBad ≠ 3 ∧ (d.lp 0).st = .up ∧ (({ d with lports := [] } : Dev).lp 0).st ≠ .up
    ∧ 64 < f.mac.length ∧ one.mac.length ≤ 64 ∧ waiting { d with frames := [(0, some one)] } = [0]
    ∧ (d.hop 0).fill + (d.hop 0).resv + need ≤ 8192 ∧ 8192 < (full.hop 0).fill + (full.hop 0).resv + need ∧ waiting rdy = []
    ∧ (∀ g ∈ [{ f with resv := 1 }, { f with resv := 1, released := true }, { one with dropping := true }, ({ one with resv := 5 } : Frame)],
      SMap.get 0 ((prog g).hop 0).inProg 0 = 0 + 1 ∧ (prog g).frame 0 = some g ∧ g.mac ≠ [] ∧ g.lport = 0 ∧ g.parity = [] ∧ (S (prog g)).noUpsets)
    ∧ (S d).linked 0 ∧ (d.slc 0).st = .run ∧ SMap.get 0 ((d.wake 0).hop 0).inProg 0 = 0 := by decide +kernel

theorem witness_DropRemCutsTheFrameInProgress :
    let f : Frame := { mac := [0], place := .hopper }
    let fs := [f, { f with dropping := true }, { f with place := .granted 2 }, { f with place := .ingress 0, released := true }]
    let d := fun (f : Frame) => ({ rdy with frames := [(0, some f)], nextFid := 1, hoppers := [(0, { inProg := [(0, 1)], order := [0] })] } : Dev)
    ∀ f ∈ fs, (S (d f)).linked 0 ∧ (S (d f)).noUpsets ∧ ((d f).slc 0).st = .run ∧ SMap.get 0 (((d f).wake 0).hop 0).inProg 0 = 0 + 1
      ∧ ((d f).wake 0).frame 0 = some f ∧ hopOf f.lport = 0 ∧ f.src = .port ∧ f.whole = false ∧ f.slice < 8 ∧ f.pipe < 4 ∧ 0 < (d f).nextFid := by
  decide +kernel

theorem witness_SlotArbiterFillsLanes :
    let f : Frame := { place := .hopper, bytes := List.replicate 64 0, whole := true, held := 1 }
    let g : Frame := { f with place := .offered, src := .recirc }
    let d : Dev := { rdy with
      frames := [(0, some f), (1, some f), (2, some f), (3, some f), (4, some g)], nextFid := 5
      hoppers := [(0, { fill := 4, order := [0, 1, 2, 3] })], isas := [(0, { recirc := [4], f := 12 })] }
    let held : Dev := { d with senders := [(streamOf false 0 0, { outstanding := 4096 })] }
    (∀ (h : Fin 4), (d.host h).injHeld = none) ∧ (d.slc 0).st = .run ∧ d.outletHeld 0 0 = 0 ∧ (d.isa 0).waiting = true
    ∧ (∀ e ∈ d.frames, (match e.2 with | some f => decide (f.parity = []) | none => true) = true)
    ∧ (d.hop 0).order = [0, 1, 2, 3] ∧ d.readyHead 0 ≠ none ∧ d.readyHead 1 = none
    ∧ (d.isa 0).offered 0 = [4] ∧ (∀ j : Fin 3, j ≠ 0 → (d.isa 0).offered j = []) ∧ (d.isa 0).turn < 3 ∧ [0, 1, 2, 3, 4].Nodup
    ∧ (f.whole = true ∧ f.parity = [] ∧ f.lport / 8 = 0) ∧ d.frame 4 ≠ none
    ∧ ((d.wr R.ISA_CTRL 0 0x10000).bitOf R.ISA_CTRL 0 16 = true ∧ 12 ≤ (d.isa 0).f) ∧ (d.wr R.ISA_CTRL 0 0).bitOf R.ISA_CTRL 0 16 = false
    ∧ held.outletHeld 0 0 ≠ 0 ∧ (rdy.isa 0).waiting = false ∧ rdy.readyHead 0 = none
    ∧ (∀ st ∈ [SliceState.asleep, .waking], (({ rdy with slices := [(0, { st := st })] } : Dev).slc 0).st = st) := by decide +kernel

theorem witness_ParserTagsAndWalks :
    let f : Frame := { place := .granted 0, bytes := List.replicate 64 0, whole := true, stamp := some (0, 0) }
    let d := fun (img : List Byte) (f : Frame) =>
      ({ runs img with frames := [(0, some f)], nextFid := 1, isas := [(0, { granted := [0] })] } : Dev)
    let img := imgOf [(1, 0, 255 * 256, List.replicate 256 0)]
    let again : Frame := { f with src := .recirc, hasTag := true, tag := { pass := 1, epoch := 0 } }
    (S (d img f)).noUpsets ∧ ((d img f).slc 0).st = .run ∧ ((d img f).isa 0).granted = [0] ∧ (d img f).frame 0 = some f
    ∧ (d img f).epochs.run ≠ none ∧ f.hasTag = false ∧ f.src ≠ .recirc
    ∧ byteAt (graphRecord ((d img f).imageOf 0) 0 0 255) 0 ≠ 255 ∧ byteAt (graphRecord ((d img f).imageOf 0) 0 0 0) 0 % 2 = 0
    ∧ ({ d img f with epochs := {} } : Dev).epochs.run = none ∧ ({ f with stamp := none } : Frame).stamp = none
    ∧ ((d img again).frame 0 = some again ∧ (d img again).forced again.tag = none
      ∧ again.tag.pass + 1 ≤ max 1 (((d img again).wr R.PAR_CTRL 0 4).fldOf R.PAR_CTRL 0 0 3))
    ∧ (let z := { d img again with loader := { st := .draining, force := true }, epochs := { run := some 1, old := some 0 } };
      again.bad ≠ 9 ∧ (z.forced again.tag).isSome = true ∧ z.epochs.run ≠ none)
    ∧ (let g := { again with tag := { pass := 7 } }; max 1 ((d img g).fldOf R.PAR_CTRL 0 0 3) < g.tag.pass + 1)
    ∧ (rdy.isa 0).granted = [] := by decide +kernel

/-- A stage whose descriptor applies word 1 to every frame, and word 1 with one operation. -/
def stageImg (op : Nat) : List Byte :=
  imgOf [(3, 0, 0, leBytes 64 (1 + 1 * 2 ^ 4)), (3, 0, 64, leBytes 64 (1 + op * 2 ^ 8))]

theorem witness_StageOperationsWriteContainers :
    let f : Frame := { place := .ingress 0, whole := true, hasTag := true, tag := { epoch := 0 } }
    let d := fun (op : Nat) => ({ runs (stageImg op) with frames := [(0, some f)], nextFid := 1 } : Dev)
    let set := 0x1 + 5 * 2 ^ 4 + 7 * 2 ^ 14 + 0xFFFF * 2 ^ 24
    let desc := stageWord ((d set).imageOf 0) false 0 0 0 0
    let word := stageWord ((d set).imageOf 0) false 0 0 0 1
    (S (d set)).noUpsets ∧ (d set).frame 0 = some f ∧ f.place = .ingress 0 ∧ ((d set).slc 0).st = .run ∧ (d set).mustWait f = false
    ∧ (d set).forced f.tag = none ∧ f.ps.landing = [] ∧ f.ps.disp ≠ .discard ∧ fld desc 0 1 = 1 ∧ fld desc 1 2 = 0 ∧ fld desc 4 10 = 1
    ∧ (∀ k < 4, (lookupF desc k).en = false)
    ∧ fld word 0 1 = 1 ∧ fld word 1 3 = 0 ∧ (∀ k, k < 8 → 0 < k → fld word (8 + 48 * k) 4 = 0) ∧ fld word 392 3 = 0 ∧ fld word 448 3 = 0
    ∧ fld (fld word 8 48) 4 10 = 5 ∧ fld (fld word 8 48) 14 10 = 7
    ∧ fld (fld word 8 48) 0 4 = 1 ∧ fld (fld word 8 48) 24 16 = 0xFFFF
    ∧ (∀ n ∈ [0, 23], fld (stageWord ((d 0).imageOf 0) false 0 0 (n + 1) 0) 0 1 = 0)
    ∧ (∀ g ∈ [({ f with place := .ingress 23 } : Frame), { f with place := .ingress 23, ps := { disp := .discard } }],
      let z : Dev := { d 0 with frames := [(0, some g)] }
      z.frame 0 = some g ∧ z.mustWait g = false ∧ g.tag.reason = 0 ∧ g.src = .port ∧ g.bad = 0 ∧ g.parity = []
      ∧ fld (stageWord (z.imageOf 0) false 0 0 23 0) 0 1 = 0)
    ∧ (let z : Dev := { d 0 with frames := [(0, some { f with order := 1 }), (1, some { f with order := 0 })], nextFid := 2 };
      z.mustWait { f with order := 1 } = true)
    ∧ (∀ m ∈ [1, 15], ∀ cp ∈ [({ stage := some m } : Copy), { stage := some m, ps := { disp := .discard } }],
      let z : Dev := { d 0 with copies := [(7, some cp)] }
      z.cpy 7 = some cp ∧ cp.verdict = .none ∧ cp.ended = false ∧ cp.sentLast = false ∧ z.egressForced cp = none ∧ cp.ps.landing = []
      ∧ (z.slc (sliceOfQueue cp.queue)).st = .run ∧ fld (stageWord (z.imageOf cp.tag.epoch) true 0 0 m 0) 0 1 = 0) := by decide +kernel

theorem witness_DeparserAppliesEdits :
    let f := fun (es : List Edit) => ({ place := .deparse, whole := true, bytes := List.replicate 64 1, ps := { edits := es }, deferred := [⟨false, 0, 0, 0, 0⟩] } : Frame)
    let d := fun (f : Frame) => ({ rdy with frames := [(0, some f)], nextFid := 1 } : Dev)
    let head := (f []).bytes.take (min 256 ((d (f [])).frameLen 16 0 - 4))
    let cp : Copy := { verdict := .forward, relWhole := true, rel := List.replicate 64 1 }
    (d (f [])).frame 0 = some (f []) ∧ ((d (f [])).slc 0).st = .run ∧ (d (f [])).mustWait (f []) = false ∧ (f []).ps.dirty = [] ∧ (f []).ps.patches = []
    ∧ (f [.push head.length [2]]).ps.edits = [.push head.length [2]] ∧ head.length = 60 ∧ (f [.pop 0 60]).ps.edits = [.pop 0 60]
    ∧ (S (d (f []))).noUpsets ∧ (f []).whole = true ∧ (f []).deferred = [⟨false, 0, 0, 0, 0⟩]
    ∧ ({ f [] with whole := false } : Frame).whole = false ∧ ({ f [] with place := .ingress 0 } : Frame).place ≠ .deparse
    ∧ (let z : Dev := { d (f []) with copies := [(7, some cp)] }; z.cpy 7 = some cp ∧ z.egressForced cp = none ∧ cp.deparsed = false
      ∧ cp.verdict ≠ .none ∧ cp.verdict ≠ .discard ∧ cp.ps.dirty = [] ∧ cp.ps.patches = [] ∧ cp.ps.edits = [] ∧ z.copyLen 7 cp ≠ 0) 
    ∧ (let c2 : Copy := { verdict := .forward, fid := 9, deferred := [⟨true, 0, 0, 0, 0⟩] }; let z : Dev := { d (f []) with copies := [(7, some c2)] };
      z.cpy 7 = some c2 ∧ z.copyLen 7 c2 = 0) := by decide +kernel
/-! ## Witnesses: command sets and tables -/

theorem witness_StageCommandsReachCounters :
    (S rdy).noUpsets ∧ (rdy.slc 0).st = .run ∧ rdy.fan.fabricAsleep = false ∧ rdy.cmdHead .stg 0 1 = none
    ∧ (∀ op ∈ [1, 2, 3, 4], (S (asked rdy .stg 0 op)).queued .stg 0 op 0 op [])
    ∧ (S (asked rdy .stg 0 (1 + 24 * 2 ^ 8))).queued .stg 0 1 0 (1 + 24 * 2 ^ 8) [] ∧ ¬ fld (1 + 24 * 2 ^ 8) 8 5 ≤ 23
    ∧ fld (1 + 23 * 2 ^ 8) 8 5 ≤ 23
    ∧ (∀ op ∈ [1, 2, 3, 4], (S (asked rdy .rpl 0 op)).queued .rpl 0 op 0 op [])
    ∧ (rdy.wr R.RPL_CMD_INDEX 0 262143).rd R.RPL_CMD_INDEX 0 = 262143 ∧ (rdy.wr R.RPL_CMD_INDEX 0 262144).rd R.RPL_CMD_INDEX 0 = 262144
    ∧ fld ((rdy.wr R.RPL_CMD_HEAD 0 (512 * 2 ^ 18)).rd R.RPL_CMD_HEAD 0) 18 10 = 512
    ∧ fld ((rdy.wr R.RPL_CMD_HEAD 0 (513 * 2 ^ 18)).rd R.RPL_CMD_HEAD 0) 18 10 = 513 := by decide +kernel

/-- A TCAM table, an exact-match table and an LPM table, each with ID 1, 2 and 3, in slice 0. -/
def tables : Dev := runs (imgOf [(5, 0, 0, placeRec 1 0 0 0 1 1 1 ++ placeRec 2 1 0 0 1 0 0 ++ placeRec 3 2 0 0 1 0 0)])

def copy1 : Place16 := { id := 1, kind := 0, slice := 0, first := 0, count := 1, width := 1, depth := 1, rsv := 0, at_ := 0x400 }
def emPlace : Place16 := { id := 2, kind := 1, slice := 0, first := 0, count := 1, width := 0, depth := 0, rsv := 0, at_ := 0x410 }
def lpmPlace : Place16 := { id := 3, kind := 2, slice := 0, first := 0, count := 1, width := 0, depth := 0, rsv := 0, at_ := 0x420 }

def blt (op : Nat) : Dev := (asked tables .blt 0 op).wr R.BLT_CMD_TABLE 0 1

/-- The same with one valid settled entry at address 0, which matches key 0. -/
def bltOne (op : Nat) (e : EntVer) : Dev := { blt op with tbl := { tcam := [(0, { mask := 1, prio := 3, ver := e })] } }

theorem witness_BolterEntriesAreAddedAndDeleted :
    (S (blt 1)).noUpsets ∧ ((blt 1).slc 0).st = .run ∧ tables.cmdHead .blt 0 1 = none
    ∧ (∀ op ∈ [1, 2, 3], (S (blt op)).queued .blt 0 op 0 op []) ∧ (asked tables .blt 0 1).bltCopies 0 0 = []
    ∧ (blt 1).bltCopies 0 ((blt 1).rd R.BLT_CMD_TABLE 0) = [copy1]
    ∧ ((blt 1).wr R.BLT_CMD_ADDR 0 2048).rd R.BLT_CMD_ADDR 0 = copy1.depth * 2048 ∧ ((blt 1).wr R.BLT_CMD_ADDR 0 2047).rd R.BLT_CMD_ADDR 0 < copy1.depth * 2048
    ∧ (blt 1).vers.pending = false ∧ ({ blt 1 with vers := { pending := true } } : Dev).vers.pending = true
    ∧ ((blt 1).tent copy1 0).ver.v = false
    ∧ ((bltOne 2 { v := true, settled := true }).tent copy1 0).ver.v = true ∧ ((bltOne 2 { v := true, settled := true }).tent copy1 0).ver.dp = false
    ∧ (let e := ((bltOne 2 { v := true, addVer := 1 }).tent copy1 0).ver; e.settled = false ∧ e.addVer = (0 + 1) % 65536) := by decide +kernel

theorem witness_BolterSearchesInResolutionOrder :
    let d := bltOne 4 { v := true, settled := true }
    let key := d.stagedNat R.BLT_KEY 0 % 2 ^ 80
    let ms := (d.tcamEntries copy1).filter (fun e => e.2.ver.visible 0 && decide ((key ^^^ e.2.key) &&& e.2.mask = 0))
    let n : Dev := { (bltOne 5 { v := true, settled := true }) with tbl := { tcam := d.tbl.tcam, steps := [(0, some ⟨1, 0, 0, 2, 0⟩)] } }
    (S d).noUpsets ∧ (d.slc 0).st = .run ∧ (S d).queued .blt 0 4 0 4 [] ∧ d.vselVer (fld 4 4 2) = some 0
    ∧ d.bltCopies 0 (d.rd R.BLT_CMD_TABLE 0) = [copy1] ∧ ms.map (·.1) = [0]
    ∧ (∀ w ∈ ms, key &&& (d.tent copy1 w.1).mask = (d.tent copy1 w.1).key ∧ (d.tent copy1 w.1).resX = 0)
    ∧ (let z : Dev := { blt 4 with tbl := { tcam := [(0, { key := 2, mask := 1, ver := { v := true, settled := true } })] } };
      ((key ^^^ (z.tent copy1 0).key) &&& (z.tent copy1 0).mask = 0 ∧ key &&& (z.tent copy1 0).mask ≠ (z.tent copy1 0).key) ∧ (S z).queued .blt 0 4 0 4 [])
    ∧ (S (asked rdy .blt 0 4)).queued .blt 0 4 0 4 [] ∧ rdy.bltCopies 0 1 = []
    ∧ (S (blt (4 + 3 * 16))).queued .blt 0 4 0 (4 + 3 * 16) [] ∧ fld (4 + 3 * 16) 4 2 = 3
    ∧ ((blt 4).tcamEntries copy1) = []
    ∧ (S (blt 5)).queued .blt 0 5 0 5 [] ∧ SMap.get none (blt 5).tbl.steps 0 = none
    ∧ (S n).queued .blt 0 5 0 5 [] ∧ SMap.get none n.tbl.steps 0 = some ⟨1, 0, 0, 2, 0⟩ ∧ n.bltCopies 0 1 = [copy1] ∧ n.vselVer 0 = some 0 := by
  decide +kernel

theorem witness_BolterSweepAndScrubVisitEntries :
    let d : Dev := { rdy with tbl := { tcam := [(5, { ver := { v := true, dp := true } })], slices := [(0, { bltSweep := true, sweepLeft := 1, sweepPos := 5 })] } }
    let z : Dev := { rdy with tbl := { slices := [(0, { bltSweep := true })] } }
    let c : Dev := { rdy.wr R.BLT_SCRUB 0 (2 ^ 31) with now := 12 }
    (d.tslice 0).bltSweep = true ∧ 0 < (d.tslice 0).sweepLeft ∧ (d.slc 0).st = .run ∧ SMap.wf {} d.tbl.tcam = true ∧ SMap.wf {} d.tbl.slices = true
    ∧ (z.tslice 0).bltSweep = true ∧ (z.tslice 0).sweepLeft = 0 ∧ (rdy.tslice 0).bltSweep = false
    ∧ c.bitOf R.BLT_SCRUB 0 31 = true ∧ (c.tslice 0).scrubAt * 27 + max 16 (c.fldOf R.BLT_SCRUB 0 0 8) * 20 ≤ c.now * 27 ∧ (S c).noUpsets
    ∧ ¬ (c.tslice 0).scrubAt * 27 + max 16 (c.fldOf R.BLT_SCRUB 0 0 8) * 20 ≤ 11 * 27 ∧ (rdy.wr R.BLT_SCRUB 0 0).bitOf R.BLT_SCRUB 0 31 = false := by decide +kernel

def tbl (op table : Nat) : Dev := (asked tables .tbl 0 op).wr R.TBL_CMD_TABLE 0 table
def lastCmd (d : Dev) : Dev := d.setTslice 0 { d.tslice 0 with lastKind := 2 }
/-- One exact-match entry with key 0 in the first bucket that its hash gives. -/
def emLoc : Nat := emPlace.slotLoc (emBuckets 2 0 emPlace.buckets).1 0
def emOne (op : Nat) (e : EmEnt) : Dev := { tbl op 2 with tbl := { em := [(emLoc, e)] } }

theorem witness_TableEntriesAreAddedAndDeleted :
    let d := lastCmd (tbl 1 2)
    let e := lastCmd (emOne 2 { ver := { v := true, settled := true } })
    let l := lastCmd (emOne 3 { ver := { v := true, settled := true }, learned := true })
    let m := lastCmd (tbl 1 3)
    let b := emBuckets 2 0 emPlace.buckets
    (S (tbl 1 2)).noUpsets ∧ ((tbl 1 2).slc 0).st = .run ∧ (tbl 1 2).learnReady 0 = false
    ∧ (∀ op ∈ [1, 2, 3], (S (tbl op 2)).queued .tbl 0 op 0 op []) ∧ (lastCmd (tbl 1 0)).tblPlace 0 0 = none
    ∧ d.tblPlace 0 0 = some emPlace ∧ d.vers.pending = false ∧ d.emKeyOf 0 = 0 ∧ d.emVisible emPlace 0 1 = none
    ∧ d.freeSlot emPlace b.1 = some 0 ∧ d.occupied emPlace b.1 ≤ d.occupied emPlace b.2 ∧ b.1 ≠ b.2
    ∧ e.emVisible emPlace 0 1 = some emLoc ∧ (e.eme 0 emLoc).learned = false ∧ (e.eme 0 emLoc).ver.v = true ∧ (e.eme 0 emLoc).ver.dp = false
    ∧ (match (e.emEngine emPlace { ver := { v := true, addVer := 1 } } true).1 with | .placed _ => true | _ => false) = true
    ∧ e.learnReady 0 = false ∧ ((e.emFind emPlace 0).find? (fun k => decide (k ≠ 7) && decide ((e.eme 0 k).ver = (e.eme 0 emLoc).ver))).isSome = true
    ∧ (let f := { d with tbl := { em := (List.range 4).flatMap (fun k => [(emPlace.slotLoc b.1 k, ({ key := 9, ver := { v := true } } : EmEnt)),
          (emPlace.slotLoc b.2 k, { key := 9, ver := { v := true } })]) } };
      f.freeSlot emPlace b.1 = none ∧ f.freeSlot emPlace b.2 = none ∧ f.emVisible emPlace 0 1 = none)
    ∧ (let f := { d with tbl := { em := [(emPlace.slotLoc b.1 0, ({ key := 9, ver := { v := true } } : EmEnt))] } };
      f.freeSlot emPlace b.2 = some 0 ∧ f.occupied emPlace b.2 < f.occupied emPlace b.1)
    ∧ l.emVisible emPlace 0 1 = some emLoc ∧ (l.eme 0 emLoc).learned = true
    ∧ (S (tbl 1 3)).queued .tbl 0 1 0 1 [] ∧ m.tblPlace 0 0 = some lpmPlace ∧ prefixOk false (m.plenOf 0) (m.lpmAddrOf 0 false) = true
    ∧ m.lpmExact lpmPlace (m.lpmVrfOf 0) (m.lpmAddrOf 0 false) (m.plenOf 0) 1 = none
    ∧ prefixOk false ((m.wr R.TBL_CMD_FLAGS 0 33).plenOf 0) 0 = false ∧ prefixOk false ((m.wr R.TBL_CMD_FLAGS 0 32).plenOf 0) 0 = true := by decide +kernel

theorem witness_TableEntriesAreReadAndFlushed :
    let e := lastCmd (emOne 4 { ver := { v := true, settled := true }, learned := true })
    let m := lastCmd { tbl 5 3 with tbl := { lpm := [(0, { plen := 0, ver := { v := true, settled := true } })] } }
    (S (tbl 4 2)).noUpsets ∧ (∀ op ∈ [4, 5, 6, 7, 8], (S (tbl op 2)).queued .tbl 0 op 0 op []) ∧ (tbl 4 2).learnReady 0 = false
    ∧ (S (tbl (4 + 3 * 16) 2)).queued .tbl 0 4 0 (4 + 3 * 16) [] ∧ fld (4 + 3 * 16) 4 2 = 3
    ∧ e.tblPlace 0 0 = some emPlace ∧ e.vselVer 0 = some 0 ∧ e.emVisible emPlace (e.emKeyOf 0) 0 = some emLoc
    ∧ (lastCmd (tbl 4 2)).emVisible emPlace 0 0 = none
    ∧ m.tblPlace 0 0 = some lpmPlace ∧ (m.lpmOf lpmPlace).length = 1 ∧ SMap.wf {} m.tbl.lpm = true
    ∧ ((m.lpmOf lpmPlace).filter (fun e => e.2.covers (m.lpmVrfOf 0) (m.lpmAddrOf 0 (m.tcfg lpmPlace).v6) && e.2.ver.visible 0)).length = 1
    ∧ (e.rd R.TBL_CMD_LOC 0 = 0 ∧ 0 < emPlace.buckets) ∧ (let z := e.wr R.TBL_CMD_LOC 0 emPlace.buckets; emPlace.buckets ≤ fld (z.rd R.TBL_CMD_LOC 0) 0 19)
    ∧ fld ((e.wr R.TBL_CMD_LOC 0 (2 ^ 31)).rd R.TBL_CMD_LOC 0) 31 1 = 1
    ∧ e.bitOf R.TBL_CMD_FLAGS 0 8 = false ∧ SMap.wf {} e.tbl.em = true ∧ (e.emAll emPlace).length = 1 := by decide +kernel

theorem witness_LearningRefreshesMovesAndAges :
    let q : LearnReq := ⟨2, 0, 9, 0, 1, 0⟩
    let d := fun (em : SMap EmEnt) (le : Bool) => ({ tables.wr R.TBL_LEARN_CTRL 0 (1 + 112 * 2 ^ 10) with
      tbl := { em := em, cfg := [(cfgKey 0 1 0, { learnEn := le, learnMax := 0, ageLimit := 2 })], slices := [(0, { learnQ := [q] })] } } : Dev)
    let here : SMap EmEnt := [(emLoc, { learned := true, ver := { v := true, settled := true } })]
    let d1 := fun (d : Dev) => (d.setTslice 0 { d.tslice 0 with learnQ := [], lastKind := 1, learnAt := some d.now }).pmcAny 0 0x033 1
    let age : Dev := { tables.wr R.TBL_AGE_CTRL 0 (2 ^ 31 + 1) with now := 100000000 }
    (S (d [] true)).noUpsets ∧ ((d [] true).slc 0).st = .run ∧ (d [] true).learnReady 0 = true ∧ (d [] true).cmdQ .tbl 0 = []
    ∧ ((d [] true).tslice 0).learnQ = [q] ∧ rdy.learnReady 0 = false
    ∧ (let r := (d here true).livePlaces.find? (fun r => decide (r.kind = 1) && decide (r.id = 2) && decide (r.slice = 0) && decide (r.first = 0)
          && decide (r.count = 1) && ((d here true).tcfg r).learnEn && decide (((d here true).tcfg r).born = 0)); r = some emPlace)
    ∧ ((d [] false).tcfg emPlace).learnEn = false
    ∧ ((d1 (d here true)).emFind emPlace 0) = [emLoc] ∧ ((d here true).eme 0 emLoc).learned = true ∧ ((d here true).eme 0 emLoc).result ≠ 9
    ∧ ((d1 (d [] true)).emFind emPlace 0) = [] ∧ ((d [] true).tcfg emPlace).learnMax = 0
    ∧ (match ((d1 (d [] true)).emEngine emPlace { result := 9, ver := { v := true, settled := true }, learned := true, hit := true } false).1 with
        | .placed _ => true | _ => false) = true
    ∧ (let z : Dev := { d here true with tbl := { (d here true).tbl with slices := [(0, { tblSweep := true })] } }; (z.tslice 0).tblSweep = true
      ∧ SMap.wf {} z.tbl.em = true ∧ SMap.wf {} z.tbl.slices = true)
    ∧ age.bitOf R.TBL_AGE_CTRL 0 31 = true ∧ (age.tslice 0).ageLast + max 1 (age.fldOf R.TBL_AGE_CTRL 0 0 16) * 100000000 ≤ age.now
    ∧ ¬ (age.tslice 0).ageLast + max 1 (age.fldOf R.TBL_AGE_CTRL 0 0 16) * 100000000 ≤ 99999999
    ∧ (age.tslice 0).tblSweep = false ∧ (∀ e ∈ age.tbl.em, e.1 / 2 ^ 22 = 0 → e.2.learned = false)
    ∧ ownerOf (d here true).livePlaces 0 emLoc ((d here true).eme 0 emLoc) = some emPlace ∧ ((d here true).tcfg emPlace).ageLimit ≠ 0 := by decide +kernel

/-! ## Witnesses: the Action Engine array -/

/-- A microword with B immediate: OP, EXT, D, A, TGT, IMM. -/
def mw (op ext d a tgt imm : Nat) : Nat :=
  packFields [(0, 6, op), (6, 5, d), (11, 5, a), (21, 1, 1), (32, 16, tgt), (48, 64, imm), (112, 16, ext)]

/-- Thread `t` of slice 0 as `x`, before microword `w`, with control store words `recs` (address and value). -/
def holding (recs : List (Nat × Nat)) (w t : Nat) (x : Thread) : Dev :=
  { runs (imgOf (recs.map (fun r => (7, 0, r.1 * 16, leBytes 16 r.2)))) with ae := { overlay := [(x.pc, some w)], threads := [(t, x)] } }

/-- The same in RUN, without records. -/
def before (w : Nat) (t : Nat) (x : Thread) : Dev := holding [] w t { x with st := .run }

/-- Whether thread `t` of slice 0 is about to issue microword `w`, decided. -/
def about (d : Dev) (t w : Nat) : Bool := @decide ((S d).issues 0 t (mwOf w)) (by unfold State.issues State.standsAt; infer_instance)

/-- Whether it stands there, decided. -/
def stood (d : Dev) (t w : Nat) : Bool := @decide ((S d).standsAt 0 t (mwOf w)) (by unfold State.standsAt; infer_instance)

/-- A thread record (R300) with TRAP_VEC 0x100, EN, and one cell and one outbound entry of its own. -/
def thrWord : Nat := packFields [(16, 16, 0x100), (50, 1, 1), (64, 16, 1), (80, 16, 1), (96, 11, 1), (107, 11, 1)]

theorem witness_AluMicrowordsWriteResultAndFlags :
    (∀ op ∈ [0x01, 0x02, 0x03, 0x04, 0x05, 0x06, 0x07, 0x08, 0x09, 0x0B, 0x0C, 0x0D, 0x0A],
      about (before (mw op 0 31 1 0 63) 0 {}) 0 (mw op 0 31 1 0 63) = true ∧ (mwOf (mw op 0 31 1 0 63)).op = op)
    ∧ (mwOf (mw 0x0C 4095 0 0 0 0)).ext < 4096 := by decide +kernel

theorem witness_ControlMicrowordsMoveThePc :
    let x : Thread := { pc := 65535, stack := [9] }
    (∀ op ∈ [0x00, 0x14, 0x10, 0x11, 0x12, 0x13, 0x3A, 0x24, 0x34, 0x35, 0x36, 0x31, 0x18, 0x19, 0x1A],
      about (before (mw op 0 1 2 8 1) 255 x) 255 (mw op 0 1 2 8 1) = true ∧ (mwOf (mw op 0 1 2 8 1)).op = op)
    ∧ x.stack.length < 8 ∧ x.stack = 9 :: [] ∧ SMap.wf 0 (before 0 0 x).ae.scratch = true
    ∧ about (before (mw 0x36 1 0 0 0 0) 0 x) 0 (mw 0x36 1 0 0 0 0) = true ∧ (mwOf (mw 0x36 1 0 0 0 0)).ext < 2
    ∧ (mwOf (mw 0x34 7 0 0 0 0)).ext < 8 := by decide +kernel

/-- The same microword with predicate Z. -/
def ifZero (w : Nat) : Nat := w + 2 ^ 22

theorem witness_ControlMicrowords_predicate :
    (∀ op ∈ [0x00, 0x01, 0x02, 0x0C, 0x11, 0x1A, 0x20, 0x23, 0x28, 0x2B, 0x2D, 0x30, 0x32, 0x36, 0x37, 0x39, 0x3A],
      stood (before (ifZero (mw op 0 1 2 0 1)) 0 {}) 0 (ifZero (mw op 0 1 2 0 1)) = true ∧ (mwOf (ifZero (mw op 0 1 2 0 1))).op = op)
    ∧ (∀ e ∈ [1, 2, 3, 4, 5, 6], stood (before (ifZero (mw 0x33 e 0 0 0 0)) 7 {}) 7 (ifZero (mw 0x33 e 0 0 0 0)) = true
      ∧ (mwOf (ifZero (mw 0x33 e 0 0 0 0))).ext % 16 = e)
    ∧ (mwOf (ifZero 0)).pred = 1 ∧ predHolds {} (mwOf (ifZero 0)).pred = false := by decide +kernel

theorem witness_ThreadFaultsTrapOrStop :
    let recs := [(0xFE00, thrWord)]
    (∀ w ∈ [mw 0x37 0 0 0 0 5, 0x3F], about (holding recs w 0 { st := .run }) 0 w = true ∧ about (before w 1 {}) 1 w = true)
    ∧ (mwOf (mw 0x37 0 0 0 0 5)).op = 0x37 ∧ (mwOf 0x3F).undefined = true
    ∧ (let r := (holding recs 0x3F 0 { st := .run }).recOf 0 0; r.trapVec ≠ 0 ∧ r.reportAll = false) ∧ ((before 0x3F 1 {}).recOf 0 1).trapVec = 0
    ∧ (holding recs 0x3F 0 { st := .run, inTrap := true } |>.thr 0 0).inTrap = true ∧ ((before 0x3F 1 {}).thr 0 1).idleMove = false := by
  decide +kernel

theorem witness_ThreadFaults_causes :
    let eight : Thread := { stack := List.replicate 8 1 }
    let other : Thread := { staged := [1], stageChan := 6 }
    let full : Thread := { staged := List.replicate 16 1, stageChan := 5 }
    about (before (mw 0x11 0 0 0 8 0) 0 eight) 0 (mw 0x11 0 0 0 8 0) = true ∧ 8 ≤ eight.stack.length
    ∧ about (before (mw 0x12 0 0 0 0 0) 0 {}) 0 (mw 0x12 0 0 0 0 0) = true ∧ ({} : Thread).stack = []
    ∧ about (before (mw 0x33 1 0 0 0 7) 6 {}) 6 (mw 0x33 1 0 0 0 7) = true
    ∧ (∀ c ∈ [0xF8, 0xFA, 0xFD, 0xFF], ∀ op ∈ [0x22, 0x23], about (before (mw op 0 0 0 c 0) 0 {}) 0 (mw op 0 0 0 c 0) = true
      ∧ (mwOf (mw op 0 0 0 c 0)).tgt % 256 = c)
    ∧ about (before (mw 0x20 0 16 0 0xF7 0) 0 {}) 0 (mw 0x20 0 16 0 0xF7 0) = true ∧ ((before 0 0 {}).chan 0 0xF7).en = false
    ∧ (mwOf (mw 0x20 0 16 0 0xF7 0)).d = 16 ∧ fld ({ en := true } : Chan).readers 0 1 = 0
    ∧ (∀ x ∈ [other, full], about (before (mw 0x22 0 0 0 5 0) 0 x) 0 (mw 0x22 0 0 0 5 0) = true)
    ∧ other.staged ≠ [] ∧ other.stageChan ≠ 5 ∧ full.stageChan = 5 ∧ 16 ≤ full.staged.length := by decide +kernel

def word1 : Msg := ⟨[7], none, 0, 0, false⟩

/-- A thread before microword `w` with channel 5 as `c`. -/
def chanDev (w : Nat) (x : Thread) (c : Chan) : Dev :=
  { before w 0 x with ae := { (before w 0 x).ae with chans := [(5, c)] } }
def ch5 : Chan := { en := true, cap := 2, readers := 1 }
def full5 : Chan := { ch5 with msgs := [word1] }
def staged2 : Thread := { staged := [1, 2], stageChan := 5 }

def chwr : Nat := mw 0x22 0 0 0 5 7
def chsend : Nat := mw 0x23 0 0 0 5 0

theorem witness_ChannelMicrowordsStageSendAndRead :
    about (chanDev chwr {} ch5) 0 chwr = true ∧ about (chanDev chsend staged2 ch5) 0 chsend = true
    ∧ about (chanDev chsend staged2 full5) 0 chsend = true
    ∧ (∀ w ∈ [mw 0x20 0 16 0 5 0, mw 0x21 0 16 0 5 0], about (chanDev w {} ch5) 0 w = true ∧ about (chanDev w {} full5) 0 w = true) := by
  decide +kernel

theorem witness_ChannelMicrowords_rest :
    SMap.wf {} (chanDev chwr {} ch5).ae.chans = true ∧ SMap.wf {} (chanDev chwr {} full5).ae.chans = true ∧ ((chanDev chwr {} ch5).thr 0 0).staged = []
    ∧ staged2.staged.length ≤ (chanDev chsend staged2 ch5).chanFree 0 5 ∧ staged2.staged.length ≤ ch5.cap
    ∧ (chanDev chsend staged2 full5).chanFree 0 5 < staged2.staged.length
    ∧ (∀ w ∈ [mw 0x20 0 16 0 5 0, mw 0x21 0 16 0 5 0], (mwOf w).tgt = 5 ∧ (chanDev w {} ch5).waiters 0 5 = [] ∧ (chanDev w {} full5).waiters 0 5 = [])
    ∧ fld ch5.readers 0 1 = 1 ∧ word1.words ≠ [] ∧ word1.words.length ≤ 16 ∧ SMap.wf 0 ((chanDev 0 {} full5).thr 0 0).regs = true := by decide +kernel

theorem witness_ChannelMicrowords_events :
    let sd := mw 0x23 0 0 0 5 0
    let arr := fun (w : Nat) (c : Chan) (ts : SMap Thread) => ({ chanDev w {} c with ae := { (chanDev w {} c).ae with threads := ts } } : Dev)
    let waits := arr 0 full5 [(3, { st := .blkRd, rdChan := 5, rdDst := 16 })]
    let blk := arr sd ch5 [(0, { staged2 with st := .blkWr })]
    let f : Frame := { dest := .array 5 }
    let steer := fun (c : Chan) => ({ chanDev 0 {} c with frames := [(0, some f)], nextFid := 1 } : Dev)
    (waits.slc 0).st = .run ∧ waits.nextReader 0 5 = some 3 ∧ (waits.thr 0 3).st = .blkRd ∧ SMap.wf {} waits.ae.threads = true
    ∧ (S waits).noUpsets ∧ (waits.chan 0 5).msgs = word1 :: []
    ∧ (blk.slc 0).st = .run ∧ (blk.thr 0 0).st = .blkWr ∧ (mwOf (blk.mwAt 0 0 0)).op = 0x23 ∧ SMap.wf {} blk.ae.threads = true
    ∧ (blk.thr 0 0).staged.length ≤ blk.chanFree 0 5 ∧ (arr sd full5 [(0, { staged2 with st := .blkWr })]).chanFree 0 5 < 2
    ∧ (steer ch5).frame 0 = some f ∧ f.slice = 0 ∧ f.fate ≠ .discarded ∧ (steer ch5).forced f.tag = none ∧ 2 ≤ (steer ch5).chanFree 0 5
    ∧ ((steer { ch5 with en := false }).chan 0 5).en = false ∧ (steer ch5).regs.wf = true ∧ (S (steer ch5)).noUpsets
    ∧ ((steer { ch5 with cfgDue := true }).chan 0 5).cfgDue = true ∧ ((steer ch5).chan 0 5).cfgDue = false := by decide +kernel

/-- Channel 5 with one frame's message, and the thread that reads it. -/
def framed5 (e : Nat) : Dev :=
  let f : Frame := { hasTag := true, tag := { epoch := e } }
  { chanDev (mw 0x20 0 16 0 5 0) {} { ch5 with msgs := [⟨[7], some 0, 0, 0, false⟩] } with frames := [(0, some f)], nextFid := 1 }

theorem witness_ChannelMicrowords_forms :
    let ind : Thread := { staged := List.replicate 15 1, stageChan := 5, regs := [(2, 5)] }
    about (chanDev (mw 0x22 1 0 2 0 7) ind ch5) 0 (mw 0x22 1 0 2 0 7) = true ∧ ind.staged.length < 16 ∧ ind.reg 2 % 256 = 5
    ∧ about (chanDev (mw 0x22 4 0 0 5 7) {} ch5) 0 (mw 0x22 4 0 0 5 7) = true ∧ about (chanDev (mw 0x22 5 0 2 0 7) ind ch5) 0 (mw 0x22 5 0 2 0 7) = true
    ∧ ([] ++ [(7 : DWord)]).length ≤ (chanDev 0 {} ch5).chanFree 0 5 ∧ 1 ≤ full5.cap ∧ (chanDev 0 {} { full5 with cap := 1 }).chanFree 0 5 < 1
    ∧ about (chanDev chsend {} ch5) 0 chsend = true
    ∧ about (chanDev (mw 0x20 2 0 0 5 0) {} ch5) 0 (mw 0x20 2 0 0 5 0) = true
    ∧ about (chanDev (mw 0x21 0 1 0 5 0) {} { ch5 with en := false }) 0 (mw 0x21 0 1 0 5 0) = true
    ∧ about (framed5 0) 0 (mw 0x20 0 16 0 5 0) = true ∧ ((framed5 0).frame 0).isSome = true ∧ ((framed5 0).thr 0 0).freeSlot = some 0
    ∧ ((framed5 0).thr 0 0).epoch = 0
    ∧ (let arr := fun (ts : SMap Thread) => ({ chanDev 0 {} ch5 with ae := { (chanDev 0 {} ch5).ae with threads := ts } } : Dev)
      let both := arr [(0, { staged2 with st := .blkWr }), (1, { staged2 with st := .blkWr })]
      both.commitsAfter 0 1 = true ∧ both.commitsAfter 0 0 = false ∧ (both.thr 0 1).st = .blkWr ∧ (both.thr 0 0).stepping = false
      ∧ (∃ w ∈ (arr [(0, { st := .run }), (1, { st := .blkRd, rdChan := 5 })]).waiters 0 5, (both.recOf 0 0).prio ≤ (both.recOf 0 w).prio))
    ∧ (let q := fun (a : Frame) => ({ chanDev 0 {} ch5 with frames := [(0, some a), (1, some { dest := .array 5, order := 1 })], nextFid := 2 } : Dev)
      let first : Frame := { dest := .array 5 }
      (q first).steersAfter 1 { dest := .array 5, order := 1 } 5 = true ∧ (q { first with steered := true }).steersAfter 1 { dest := .array 5, order := 1 } 5 = false
      ∧ (q first).steersAfter 0 first 5 = false ∧ ({ first with fate := .discarded } : Frame).fate = .discarded)
    ∧ ({ chanDev 0 {} ch5 with slices := [(0, { st := .asleep })] } : Dev).slc 0 ≠ { st := .run } := by decide +kernel

theorem witness_FrameAndCellMicrowordsHoldAndRelease :
    let recs := [(0xFE00, thrWord)]
    let poor := [(0xFE00, packFields [(80, 16, 1)])]
    let f : Frame := { place := .array, cells := [0], bufWhole := true, blen := 64 }
    let part : Frame := { f with bufWhole := false }
    let d := fun (rs : List (Nat × Nat)) (w : Nat) (x : Thread) (f : Frame) =>
      ({ holding rs w 0 x with frames := [(0, some f)], nextFid := 1
                               buf := { fresh := 1, recs := [(0, { alloc := true, owner := partyFrame })], data := [(0, List.replicate 64 9)] } } : Dev)
    let run : Thread := { st := .run }
    let has : Thread := { run with slots := [(0, 1)] }
    (∀ w ∈ [mw 0x2A 0 0 0 0 0, mw 0x2D 0 1 0 0 0], about (d recs w run f) 0 w = true ∧ about (d poor w run f) 0 w = true
      ∧ (d recs w run f).shareFor 0 0 1 = .ok ∧ (d poor w run f).shareFor 0 0 1 = .wait)
    ∧ (d recs 0 run f).buf.withheld = [] ∧ (d recs 0 run f).buf.fresh < cellCount ∧ SMap.get 0 run.slots 0 = 0
    ∧ about (d recs (mw 0x2E 0 0 0 0 0) run f) 0 (mw 0x2E 0 0 0 0 0) = true
    ∧ (d recs 0 has f).slotFrame 0 0 0 = some (0, f)
    ∧ (∀ w ∈ [mw 0x28 0x70 1 0 56 0, mw 0x29 0x70 0 0 24 7, mw 0x2C 0 0 0 0 60, mw 0x2B 0 0 0 0xFA 0, mw 0x2B 0 0 0 5 0, mw 0x2B 0 0 0 0xF8 0],
      about (d recs w has f) 0 w = true ∧ (mwOf w).slot = 0)
    ∧ (mwOf (mw 0x28 0x70 1 0 56 0)).count = 8 ∧ 60 ≤ f.arrLen ∧ arrCells 60 = f.cells.length ∧ (d recs 0 has f).outFree 0 0 = true
    ∧ (d poor 0 has f).outFree 0 0 = false ∧ about (d poor (mw 0x2B 0 0 0 0xF8 0) has f) 0 (mw 0x2B 0 0 0 0xF8 0) = true
    ∧ (let c : Dev := { d recs 0 has f with ae := { (d recs 0 has f).ae with chans := [(5, { en := true, cap := 2 })] } };
      2 ≤ (c.chan 0 5).cap ∧ 2 ≤ c.chanFree 0 5)
    ∧ about (d recs (mw 0x28 0 1 0 64 0) has part) 0 (mw 0x28 0 1 0 64 0) = true
    ∧ (let z := d recs (mw 0x28 0 1 0 200 0) { has with fldWait := true } part;
      (z.thr 0 0).fldWait = true ∧ z.slotFrame 0 0 0 = some (0, part) ∧ (mwOf (z.mwAt 0 0 0)).op = 0x28 ∧ (z.arrBytes part).length = 64)
    ∧ (let z := fun (rs : List (Nat × Nat)) => d rs (mw 0x2D 0x100 1 0 0 0) { run with st := .blkShare } f; ((z recs).thr 0 0).st = .blkShare
      ∧ mwOf ((z recs).mwAt 0 0 0) = mwOf (mw 0x2D 0x100 1 0 0 0) ∧ (z recs).shareFor 0 0 1 = .ok ∧ (z poor).shareFor 0 0 1 = .wait
      ∧ (S (z recs)).noUpsets ∧ SMap.wf {} (z recs).ae.threads = true) := by decide +kernel

theorem witness_FrameAndCellMicrowords_faults :
    let recs := [(0xFE00, thrWord)]
    let f : Frame := { place := .array, cells := [0], bufWhole := true, blen := 64 }
    let b0 : Buffer := { fresh := 1, recs := [(0, { alloc := true, owner := partyThread 0 0 })], data := [(0, List.replicate 64 9)] }
    let d := fun (rs : List (Nat × Nat)) (w : Nat) (x : Thread) => ({ holding rs w 0 x with frames := [(0, some f)], nextFid := 1, buf := b0 } : Dev)
    let run : Thread := { st := .run }
    let has : Thread := { run with slots := [(0, 1)] }
    (∀ w ∈ [mw 0x28 0x70 1 0 0 0, mw 0x29 0 1 0 64 0, mw 0x2C 0 0 0 0 60, mw 0x2B 0 0 0 0 0, mw 0x2D 0 1 0 0 0],
      about (d [] w run) 0 w = true) ∧ (d [] 0 run).slotFrame 0 0 0 = none ∧ (d [] 0 run).shareFor 0 0 1 = .above
    ∧ about (d recs (mw 0x2A 15 0 0 0 0) { run with slots := [(15, 1)] }) 0 (mw 0x2A 15 0 0 0 0) = true
    ∧ about (d [] (mw 0x2A 256 0 0 0 0) run) 0 (mw 0x2A 256 0 0 0 0) = true
    ∧ (∀ w ∈ [mw 0x28 0 1 0 (64 + 64) 0, mw 0x2B 0 0 0 0xFB 0, mw 0x2B 0 0 0 0xF7 0], about (d recs w has) 0 w = true)
    ∧ f.arrLen ≤ 0 + (64 + 64) + 1 - 65 ∧ ((d recs 0 has).chan 0 0xF7).cap < 2
    ∧ (let w := mw 0x28 0x170 1 0 248 0
      about (d recs w run) 0 w = true ∧ about (d recs (mw 0x29 0x170 1 0 248 0) run) 0 (mw 0x29 0x170 1 0 248 0) = true ∧ 0x170 = fld 0x170 4 4 * 16 + 256
      ∧ (mwOf w).count = 8 ∧ ((d recs w run).cellRec 0).alloc = true ∧ ((d recs w run).cellRec 0).owner = partyThread 0 0 ∧ 248 + 8 ≤ 256)
    ∧ (∀ w ∈ [mw 0x29 0x30 1 0 20 7, mw 0x29 0x30 1 0 28 7], about (d recs w has) 0 w = true ∧ (mwOf w).count = 4)
    ∧ (d recs (mw 0x29 0 1 0 (63 + 64) 0) has).slotFrame 0 0 0 = some (0, f) ∧ 127 - 64 + 1 ≤ 64
    ∧ (let z := d recs (mw 0x2A 0x10F 0 0 0 0) { run with st := .blkShare }
      (z.thr 0 0).st = .blkShare ∧ (mwOf (z.mwAt 0 0 0)).ext = 0x10F ∧ z.shareFor 0 0 1 = .ok ∧ z.buf.withheld = [] ∧ z.buf.fresh < cellCount)
    ∧ (let g : Frame := { f with bufWhole := false, blen := 64 }
      let z : Dev := { d recs (mw 0x28 0 1 0 127 0) { has with fldWait := true } with frames := [(0, some g)] }
      (z.thr 0 0).fldWait = true ∧ 127 + 1 - 65 < (z.arrBytes g).length ∧ z.slotFrame 0 0 0 = some (0, g)) := by decide +kernel

theorem witness_WaitsTimersAndSignals :
    let w := fun (c : Nat) => mw 0x30 c 0 0 0 0
    let z := fun (x : Thread) => before 0 0 x
    let ends : Dev := { before (w 1) 0 {} with ae := { (before (w 1) 0 {}).ae with threads := [(0, { st := .waiting, waitCond := 1, sigpend := true })] } }
    let t := fun (x : Thread) => ({ ends with now := 10, ae := { ends.ae with threads := [(0, { x with timer := some 10 })] } } : Dev)
    (∀ c ∈ [0, 1, 17, 5], about (before (w c) 0 { expired := true, sigpend := true }) 0 (w c) = true
      ∧ (before (w c) 0 { expired := true, sigpend := true }).waitHolds 0 0 (c % 16) 0 0 = true)
    ∧ about (z {}) 0 0 = true ∧ (z {}).waitHolds 0 0 1 0 0 = false ∧ (z {}).waitHolds 0 0 0 0 0 = false
    ∧ about (before (mw 0x32 0 0 0 0 9) 0 {}) 0 (mw 0x32 0 0 0 0 9) = true ∧ (mwOf (mw 0x32 0 0 0 0 9)).imm % 256 = 9
    ∧ ((z {}).recOf 0 9).sigInt = false ∧ ((z {}).thr 0 9).sigIrq = false
    ∧ (ends.slc 0).st = .run ∧ (ends.thr 0 0).st = .waiting ∧ ends.waitHolds 0 0 1 0 0 = true ∧ SMap.wf {} ends.ae.threads = true
    ∧ ((t { st := .waiting, waitTmo := true }).thr 0 0).timer = some 10 ∧ ((t {}).thr 0 0).st ≠ .waiting
    ∧ SMap.wf {} (t {}).ae.threads = true ∧ ((z {}).thr 0 0).timer = none
    ∧ (let recs := [(0xFE09, packFields [(16, 16, 0x100), (53, 1, 1)])]
      let sg := mw 0x32 0 0 0 0 9
      let q : Dev := { holding recs sg 0 { st := .run } with ae := { (holding recs sg 0 { st := .run }).ae with threads := [(0, { st := .run }), (9, { st := .run })] } }
      about q 0 sg = true ∧ (q.recOf 0 9).sigInt = true ∧ (q.recOf 0 9).trapVec ≠ 0 ∧ (q.thr 0 9).st = .run ∧ (q.thr 0 9).inTrap = false
      ∧ (q.thr 0 9).fldWait = false)
    ∧ about (before (mw 0x32 0 0 0 0 0) 0 {}) 0 (mw 0x32 0 0 0 0 0) = true ∧ ((before 0 0 {}).recOf 0 0).sigInt = false
    ∧ ((t { st := .run, timerInt := true }).thr 0 0).timerInt = true ∧ ((t {}).recOf 0 0).trapVec = 0
    ∧ (let y : Dev := { holding [(0xFE00, thrWord)] 0 0 {} with ae := { threads := [(0, { st := .run, timer := some 0, timerInt := true })] } }
      (y.recOf 0 0).trapVec ≠ 0 ∧ (y.thr 0 0).timer = some 0) ∧ ({ t {} with now := 9 } : Dev).now < 10 := by decide +kernel

theorem witness_ThreadsAreStoppedRunAndRestarted :
    let w := fun (op : Nat) => mw 0x33 op 1 0 0 3
    let d := fun (op : Nat) (y : Thread) => ({ before (w op) 7 {} with ae := { (before (w op) 7 {}).ae with threads := [(3, y), (7, { st := .run })] } } : Dev)
    let shut : Dev := { d 1 {} with fuses := { log := [⟨5 + 2 ^ 13 + 2 ^ 14, 2, 0, 0, []⟩] } }
    let bp : Dev := (d 1 { st := .run }).wr R.AE_DBG_BP 0 (2 ^ 31 + 3 * 2 ^ 16)
    SMap.wf {} (d 1 { st := .run }).ae.threads = true ∧ (d 1 { st := .run }).regs.wf = true
    ∧ (∀ op ∈ [1, 2, 3, 4, 5, 6], about (d op { st := .run }) 7 (w op) = true) ∧ (mwOf (w 1)).op = 0x33 ∧ (mwOf (w 1)).imm % 256 = 3
    ∧ (S (d 1 { st := .run })).linked 0 ∧ ((d 1 { st := .run }).slc 0).st = .run ∧ (d 1 { st := .run }).policy 1 = false
    ∧ ((d 1 { st := .stopped }).thr 0 3).st = .stopped ∧ SMap.wf {} (d 1 { st := .stopped }).ae.threads = true
    ∧ (d 1 { st := .run }).buf.recs = [] ∧ (S shut).linked 0 ∧ shut.policy 1 = true
    ∧ bp.atBoundary 0 3 = true ∧ bp.breakAt 0 3 = true ∧ (bp.slc 0).st = .run
    ∧ about (before (w 1) 0 {}) 0 (w 1) = true ∧ ((before (w 1) 0 {}).recOf 0 0).trapVec = 0
    ∧ (∀ y ∈ [({ st := .blkWr, staged := [1], sendOwn := true } : Thread), { st := .disabled }, { st := .faulted }, { st := .run, fldWait := true }],
      about (d 1 y) 7 (w 1) = true ∧ y.idleMove = false ∧ y.timerIrq = false ∧ y.sigIrq = false ∧ y.slots = [])
    ∧ about (before (mw 0x33 6 1 0 0 7) 7 {}) 7 (mw 0x33 6 1 0 0 7) = true
    ∧ ((d 1 { st := .run }).recOf 0 3).sigInt = false ∧ bp.slices = [] ∧ (rdy.atBoundary 0 3) = false
    ∧ (d 1 { st := .run }).breakAt 0 3 = false := by decide +kernel
theorem witness_MillerIsToldAndThreadsMove :
    let arr : Array8 := { threads := [(0, { st := .stopped, staged := [1] })], dogs := [(0, { since := some 0 })] }
    let w : Dev := { rdy with now := 10 ^ 12, ae := { arr with chans := [(0xFE, { msgs := [word1] })] } }
    let us := w.wr R.AE_WD_CTRL 0 1
    let asleep : Dev := { w with slices := [(0, { st := .asleep })] }
    let m : Dev := { runs [] with epochs := { run := some 2, old := some 1 }, ae := { threads := [(0, { st := .run, epoch := 3 })] } }
    (w.slc 0).st = .run
    ∧ (let x := w.thr 0 0; x.st = .stopped ∧ x.staged ≠ [] ∧ x.stallPosted = false ∧ x.since + w.fldOf R.AE_DBG_CTRL 0 0 20 * 1000 ≤ w.now)
    ∧ (asleep.slc 0).st ≠ .run ∧ (w.thr 0 1).st ≠ .stopped
    ∧ (us.dog 0 0).since = some 0 ∧ us.fldOf R.AE_WD_CTRL 0 0 20 = 1 ∧ (us.dog 0 0).fired = false ∧ 0 + 1 * 1000 ≤ us.now
    ∧ ¬ 0 + 1 * 1000 ≤ 999 ∧ (us.dog 0 1).since = none
    ∧ (w.chan 0 0xFE).msgs = [] ++ word1 :: [] ∧ word1.stalled = false ∧ word1.at_ + w.fldOf R.AE_MILLER_CTRL 0 0 20 * 1000 ≤ w.now
    ∧ (rdy.chan 0 0xFE).msgs = []
    ∧ m.needsMove 0 0 = true ∧ (m.slc 0).st = .run ∧ (m.thr 0 0).fldWait = false ∧ (m.thr 0 0).idleMove = false
    ∧ ({ m with epochs := { run := some 3 } } : Dev).needsMove 0 0 = false
    ∧ (∀ st ∈ [ThrState.blkRd, .blkWr, .blkShare, .waiting, .idle, .stopped, .disabled], ((m.setThr 0 0 { st := st, epoch := 3 }).thr 0 0).st = st) := by
  decide +kernel

theorem witness_PatchesAreStagedAndInstalled :
    let d := fun (op : Nat) => asked (runs []) .pch 0 op
    let two := fun (d : Dev) => d.setPatch 0 0 [(1, 2), (3, 4)]
    let block := fun (d : Dev) => ({ d.wr R.AE_PCH_CTRL 0 1 with ae := { d.ae with threads := [(0, { st := .run })] } } : Dev)
    let full := fun (op : Nat) => ({ two (d op) with ae := { (two (d op)).ae with overlay := (List.range 64).map (fun k => (k + 10, some 1)) } } : Dev)
    let due := fun (d : Dev) => ({ d.setGuardWait 0 (some 5) with now := 100005 } : Dev)
    (S (d 1)).noUpsets ∧ ((d 1).slc 0).st = .run ∧ (∀ op ∈ [1, 2, 3, 4, 5], (S (d op)).queued .pch 0 op 0 op [])
    ∧ ((d 1).wr R.AE_PCH_ADDR 0 0xFE00).fldOf R.AE_PCH_ADDR 0 0 16 = 0xFE00 ∧ (d 1).fldOf R.AE_PCH_ADDR 0 0 16 < 0xFE00
    ∧ ((d 1).patchStaged 0 0).length < 64 ∧ (let z := (d 1).setPatch 0 0 (List.replicate 64 (9, 9)); (z.patchStaged 0 0).length = 64)
    ∧ (d 4).epochs.run ≠ none ∧ ({ d 2 with epochs := {} } : Dev).epochs.run = none ∧ (d 2).guardSince 0 = none
    ∧ (d 2).guardMet 0 0 = true ∧ (block (d 2)).guardMet 0 0 = false ∧ (two (d 2)).patchStaged 0 0 = [(1, 2), (3, 4)]
    ∧ (two (d 2)).overlayUsed 0 + 2 ≤ 64 ∧ ¬ (full 2).overlayUsed 0 + 2 ≤ 64
    ∧ (due (d 2)).guardSince 0 = some 5 ∧ (due (d 3)).guardSince 0 = some 5 ∧ (due (block (d 2))).guardMet 0 0 = false
    ∧ (due (block (d 2))).now = 5 + 100000 ∧ (S (due (block (d 2)))).queued .pch 0 2 0 2 []
    ∧ rdy.cmdHead .pch 0 1 = none ∧ rdy.cmdQ .pch 0 = [] ∧ rdy.guardSince 0 = none := by decide +kernel

theorem witness_DebugWindowAndRegisterBridge :
    let d := fun (item : Nat) (st : ThrState) => ({ rdy.wr R.AE_DBG_SEL 0 (3 + item * 256) with ae := { threads := [(3, { st := st })] } } : Dev)
    let shut : Dev := { d 1 .stopped with fuses := { log := [⟨5 + 2 ^ 13 + 2 ^ 14, 2, 0, 0, []⟩] } }
    let a : Thread := { st := .run, regs := [(1, BitVec.ofNat 64 (R.VER_DRAIN_LIMIT.addr 0))] }
    let recs := [(0xFE00, packFields [(51, 1, 1)])]
    (S (d 1 .stopped)).linked 0
    ∧ (∀ item ∈ [0, 1, 0x1F, 0x20, 0x21, 0x22, 0x23, 0x27, 0x28, 0x2C, 0x2D], fld ((d item .run).rd R.AE_DBG_SEL 0) 8 8 = item ∧ fld ((d item .run).rd R.AE_DBG_SEL 0) 0 8 = 3)
    ∧ ((d 1 .run).slc 0).st = .run ∧ (d 1 .run).policy 1 = false ∧ ((d 1 .run).thr 0 3).st ≠ .stopped ∧ ((d 1 .stopped).thr 0 3).st = .stopped
    ∧ (S (d 1 .stopped)).noUpsets ∧ shut.policy 1 = true ∧ (S shut).linked 0
    ∧ (∀ op ∈ [0x38, 0x39], about (holding [] (mw op 0 1 1 0 5) 0 a) 0 (mw op 0 1 1 0 5) = true
      ∧ about (holding recs (mw op 0 1 1 0 5) 0 a) 0 (mw op 0 1 1 0 5) = true)
    ∧ ((holding [] 0 0 a).recOf 0 0).bridge = false ∧ ((holding [] 0 0 a).recOf 0 0).trapVec = 0 ∧ ((holding recs 0 0 a).recOf 0 0).bridge = true
    ∧ a.reg 1 % 2 ^ 28 = R.VER_DRAIN_LIMIT.addr 0 ∧ (holding recs 0 0 a).fan.warmRunning = none := by decide +kernel

/-! ## Witnesses: accesses -/

theorem witness_BadAccessesAreDiscardedAndCounted :
    let ver := R.VER_DRAIN_LIMIT.addr 0
    let gone : Dev := { rdy with hbm := [(0, { st := .offline })] }
    (S rdy).linked 0
    ∧ (∀ a ∈ [0, ver, 2], inAperture a = false ∧ rdy.waitsFor (.host 0) a = none ∧ deviceAddr 0 a = some a ∧ a < 0x4000000)
    ∧ 2 % 4 ≠ 0 ∧ deviceAddr 0 0x10000000 = none ∧ inAperture 0x10000000 = false ∧ rdy.waitsFor (.host 0) 0x10000000 = none
    ∧ (let z := 0xFFFFF0; resolve z = none ∧ inAperture z = false ∧ rdy.waitsFor (.host 0) z = none ∧ deviceAddr 0 z = some z)
    ∧ resolve ver = some (R.VER_DRAIN_LIMIT, 0, 0) ∧ R.VER_DRAIN_LIMIT.latched = false ∧ R.VER_DRAIN_LIMIT.id ≠ R.MSIX_TABLE.id
    ∧ rdy.offlineAt ver = false ∧ rdy.fan.warmRunning = none
    ∧ (let m := R.LP_CTRL.addr 0; ∀ z ∈ [m], deviceAddr 0 z = some z ∧ ¬ 0x5000000 ≤ z)
    ∧ gone.offlineAt (R.HBM_EVENTS.addr 0) = true ∧ deviceAddr 0 (R.HBM_EVENTS.addr 0) = some (R.HBM_EVENTS.addr 0)
    ∧ gone.waitsFor (.host 0) (R.HBM_EVENTS.addr 0) = none := by decide +kernel

theorem witness_CounterLowReadsFillTheLatch :
    let b := R.HPL_BAD_ACCESSES.addr 0
    let a := b - 0x10000000
    (S rdy).linked 0 ∧ inAperture a = false ∧ a % 8 = 0
    ∧ deviceAddr 0 a = some b ∧ resolve b = some (R.HPL_BAD_ACCESSES, 0, 0) ∧ rdy.stoppedAt b = none
    ∧ R.HPL_BAD_ACCESSES.kind = .counter ∧ rdy.bitOf R.STAT_VIEW 0 0 = false := by decide +kernel

theorem witness_RegistersFollowTheirAccessType :
    let hop := R.HOP_PEAK_FILL.addr 0
    (∀ r ∈ [R.VER_DRAIN_LIMIT, R.VER_EVENTS, R.IMG_STATUS, R.HOP_PEAK_FILL], resolve (r.addr 0) = some (r, 0, 0) ∧ setOf (r.addr 0) = none
      ∧ rdy.stoppedAt (r.addr 0) = none ∧ rdy.offlineAt (r.addr 0) = false ∧ deviceAddr 0 (r.addr 0) = some (r.addr 0)
      ∧ inAperture (r.addr 0) = false ∧ r.addr 0 % 4 = 0 ∧ effectIn r.id effects = none)
    ∧ (S rdy).linked 0 ∧ R.VER_DRAIN_LIMIT.kind = .rw ∧ R.VER_EVENTS.kind = .w1c ∧ R.IMG_STATUS.kind = .ro
    ∧ R.HOP_PEAK_FILL.kind = .rc ∧ ({ rdy with slices := [(0, { st := .asleep })] } : Dev).stoppedAt hop = some (.slice 0)
    ∧ resolve (R.HBM_TEMP.addr 0) = some (R.HBM_TEMP, 0, 0) ∧ ({ rdy with hbm := [(0, { st := .offline })] } : Dev).offlineAt (R.HBM_TEMP.addr 0) = true ∧ R.HBM_TEMP.id ≠ R.HBM_EVENTS.id := by
  decide +kernel

theorem witness_RegistersFollow_plain (d : Dev) (i o v : Nat) :
    d.rightsWrite (.host 0) R.VER_DRAIN_LIMIT i o v = none ∧ d.rightsWrite (.host 0) R.VER_EVENTS i o v = none
    ∧ d.rightsWrite (.host 0) R.IMG_STATUS i o v = none := ⟨rfl, rfl, rfl⟩
/-! ## Witnesses: the fabric -/

/-- A cell of stream 0 (slice 0, pipeline 0). -/
def cellOf (out : Bool) (seq : Nat) (first last : Bool) : Cell :=
  { outbound := out, slice := 0, pipe := 0, seq := seq, ctx := 0, cidx := 0, first := first, last := last, bad := 0, owner := 0, epoch := 0
    version := 0, plane := 0, data := [1], poison := false, ready := true }

theorem witness_CellsCrossTheMillrace :
    let at_ := fun (c : Cell) (q : Rsq) => ({ rdy with links := [c], rsqs := SMap.set {} [] (streamOf c.outbound 0 0) q, now := 10 ^ 9 } : Dev)
    let d := at_ (cellOf false 5 true true) {}
    let slot := fun (c : Cell) => at_ c { slots := [(c.seq % 4096, some c)], ctx := [(0, {})] }
    let out := fun (v : EgressVerdict) (last : Bool) => ({ slot (cellOf true 0 true last) with copies := [(0, some { verdict := v })] } : Dev)
    (S d).noUpsets ∧ d.endsRun false 0 = true ∧ d.endsRun true 0 = true
    ∧ takeFirst (fun c => decide (c.outbound = false) && decide (c.slice = 0) && decide (c.plane = 0)) d.links = some (cellOf false 5 true true, [])
    ∧ (4095 + 65536 - 0) % 65536 < 4096 ∧ ¬ (4096 + 65536 - 0) % 65536 < 4096
    ∧ 61440 ≤ (0 + 65536 - ((at_ (cellOf false 0 true true) { next := 1 }).rsq 0).next) % 65536
    ∧ SMap.get none ((slot (cellOf false 5 true true)).rsq 0).slots 5 ≠ none
    ∧ d.cellAtNext false 0 0 = none ∧ (slot (cellOf false 0 true true)).cellAtNext false 0 0 = some (cellOf false 0 true true)
    ∧ (out .forward true).cellAtNext true 0 0 = some (cellOf true 0 true true) ∧ (out .forward true).headWaits true (cellOf true 0 true true) = true
    ∧ (out .forward true).cpy 0 = some { verdict := .forward } ∧ (((out .forward true).slotCells 0 { verdict := .forward }).filter (fun y => y.ready)).any (·.last) = true
    ∧ (((out .forward false).slotCells 0 { verdict := .forward }).filter (fun y => y.ready)).any (·.last) = false
    ∧ 0 < (out .forward false).fldOf R.MRS_CTRL 0 16 3
    ∧ ((at_ (cellOf false 0 true true) { gapSince := some 0 }).rsq 0).gapSince = some 0 ∧ 0 + d.rsqTimeout false 0 ≤ d.now
    ∧ ({ d with now := 0 } : Dev).now < 0 + d.rsqTimeout false 0
    ∧ (SMap.get {} ((at_ (cellOf false 0 true true) { ctx := [(0, { st := .inFrame 1 7 })] }).rsq 0).ctx 0).st = .inFrame 1 7 := by
  decide +kernel

theorem witness_CellsCrossTheMillrace_outbound :
    let at_ := fun (c : Cell) (x : Copy) => ({ rdy with rsqs := [(streamOf true 0 0, { slots := [(c.seq, some c)], ctx := [(0, {})] })], copies := [(0, some x)] } : Dev)
    let d := at_ (cellOf true 0 true false) { verdict := .forward }
    let asleep : Dev := { d with slices := [(0, { st := .asleep })] }
    let fab : Dev := { d with fan := { d.fan with fabricAsleep := true } }
    let full : Dev := { at_ { cellOf true 0 true true with data := List.replicate 256 0 } { verdict := .forward, rel := List.replicate 257 0 } with lports := [(0, { txQuiet := true })] }
    let old : Dev := { d with loader := { force := true }, epochs := { old := some 0 } }
    asleep.endsRun true 0 = false ∧ fab.endsRun false 0 = false ∧ d.macBlocked 0 0 = false ∧ d.egressForced { verdict := .forward } = none
    ∧ (at_ (cellOf true 0 true false) { verdict := .discard }).headWaits true (cellOf true 0 true false) = false
    ∧ (at_ (cellOf true 0 false true) {}).cellAtNext true 0 0 = some (cellOf true 0 false true)
    ∧ old.egressForced { verdict := .forward } = some R.IMG_FORCED_DISCARDS ∧ old.headWaits true (cellOf true 0 true false) = true
    ∧ full.cellAtNext true 0 0 ≠ none ∧ full.macBlocked 0 0 = true
    ∧ (d.slotCells 0 { verdict := .forward }).length = 1 ∧ (cellOf false 0 true true).pipe = 0
    ∧ d.cpy 0 = some { verdict := .forward } ∧ ({ verdict := .forward } : Copy).recircTo = none := by decide +kernel

theorem witness_FramesAreAdmittedToTheBuffer :
    let cell : AdmitCell := { owner := 0, first := true, last := true, bad := 0, hasCell := true, data := [1] }
    let f : Frame := { place := .fabric }
    let later : Frame := { f with fate := .admitted, nCopies := 1 }
    let d := fun (x : Dev) (f : Frame) (c : AdmitCell) => ({ x with frames := [(0, some f)], nextFid := 1, admitQ := [c] } : Dev)
    let full := planned.wr R.BPM_POOL_MAX 0 0
    let low := planned.wr R.TMQ_LIMIT 0 0
    (S (d planned f cell)).noUpsets
    ∧ (d planned f cell).fan.fabricAsleep = false ∧ (d planned f cell).admitQ = cell :: [] ∧ (d planned f cell).frame 0 = some f
    ∧ f.dest = .queue ∧ cell.bad = 0 ∧ f.bufBad = 0 ∧ f.atomic = false ∧ planned.buf.take (planned.buf.withheld.length + 1) ≠ none
    ∧ f.fate = .none ∧ f.tag.mcast = false ∧ planned.forced f.tag = none ∧ (let x : Dev := { d planned f cell with admitQ := [] }; x.meter f.tag 1 = ({}, x))
    ∧ f.nCopies = 0 ∧ planned.cpy planned.nextCid = none ∧ planned.freeCells ≠ 0 ∧ (planned.qrec 0).1.pfc = false
    ∧ rdy.lpInUse 0 = false ∧ planned.lpInUse 0 = true ∧ planned.poolCheck 0 0 = .ok ∧ planned.depthOf 0 < planned.queueLimit 0 0
    ∧ planned.bitOf R.TMQ_ECN_CTRL 0 0 = false ∧ low.queueLimit 0 0 ≤ low.depthOf 0 ∧ low.poolCheck 0 0 = .ok
    ∧ full.poolCheck 0 0 = .limit ∧ full.bitOf R.HBM_SPILL_CTRL 0 0 = false
    ∧ later.fate = .admitted ∧ later.fwd = none ∧ later.stack = none ∧ later.nCopies ≠ 0 ∧ later.bufWhole = false
    ∧ ((d planned later { cell with first := false }).allocCell (some 0) 1 partyFrame none 0).1 = some 0 := by decide +kernel

theorem witness_PoolCommandsAndFreesKeepTheCells :
    let d := fun (op : Nat) => asked rdy .bpm 0 op
    let free := fun (r : CellRec) => ({ rdy with buf := { fresh := 1, recs := [(0, r)], freeReq := [(0, partyFrame)] } } : Dev)
    let raw : Dev := { d 2 with buf := { fresh := 1, recs := [(0, { alloc := true, owner := partyHost 0 })], hostCells := [(0, 1)] } }
    let none_ := (d 1).wr R.BPM_HOST_CTRL 0 0
    let held := (d 1).wr R.BPM_HOST_CTRL 0 1
    (S (d 1)).noUpsets ∧ (d 1).fan.fabricAsleep = false ∧ (d 1).buf.freeReq = []
    ∧ (∀ r ∈ [({ alloc := true, owner := partyFrame, ref := 2 } : CellRec), { alloc := true, owner := partyFrame, ref := 1 }, {}],
      (free r).buf.freeReq = (0, partyFrame) :: [] ∧ (free r).cellRec 0 = r) ∧ partyFrame / 8192 = 1 ∧ 0 < cellCount
    ∧ ({} : CellRec).alloc = false ∧ ({ alloc := true, owner := partyHost 1 } : CellRec).owner / 8192 ≠ 1
    ∧ ({ rdy with fan := { rdy.fan with fabricAsleep := true } } : Dev).fan.fabricAsleep = true ∧ rdy.cmdHead .bpm 0 1 = none ∧ rdy.buf.freeReq = []
    ∧ (S (asked rdy .bpm 0 (2 + 16 * cellCount))).queued .bpm 0 2 0 (2 + 16 * cellCount) [] ∧ (2 + 16 * cellCount) / 16 = cellCount
    ∧ (rdy.cellRec (2 / 16)).alloc = false ∧ ((free { alloc := true, owner := partyFrame }).cellRec 0).owner ≠ partyHost 0
    ∧ (∀ op ∈ [1, 2, 3, 4, 5, 6], (S (d op)).queued .bpm 0 op 0 op [])
    ∧ none_.fldOf R.BPM_HOST_CTRL 0 0 20 ≤ SMap.get 0 none_.buf.hostCells 0 ∧ SMap.get 0 held.buf.hostCells 0 < held.fldOf R.BPM_HOST_CTRL 0 0 20
    ∧ held.guard < held.freeCells ∧ (held.allocCell none 1 (partyHost 0) none 0).1 = some 0
    ∧ (raw.cellRec (2 / 16)).alloc = true ∧ (raw.cellRec (2 / 16)).owner = partyHost 0 ∧ (S raw).queued .bpm 0 2 0 2 []
    ∧ (d 3).fldOf R.BPM_CMD_CELL 0 0 20 < cellCount ∧ cellCount ≤ ((d 3).wr R.BPM_CMD_CELL 0 cellCount).fldOf R.BPM_CMD_CELL 0 0 20
    ∧ (d 4).buf.atomicLists.contains ((d 4).fldOf R.BPM_CMD_LIST 0 0 16) = false := by decide +kernel

theorem witness_HbmControllersChangeState :
    let d := fun (x : Hbm) => ({ rdy with hbm := [(0, x)] } : Dev)
    (S rdy).noUpsets ∧ (S rdy).linked 0 ∧ rdy.bridge = []
    ∧ (∀ st ∈ [HbmState.init, .train, .run, .frozen, .trainFail], ((d { st := st }).stk 0).st = st ∧ (d { st := st }).stackCopies 0 = [])
    ∧ (let x := (d { st := .run, sleepReq := true }).stk 0; x.st = .run ∧ x.sleepReq = true)
    ∧ (let x := (d { st := .sleep, wakeReq := true }).stk 0; x.st = .sleep ∧ x.wakeReq = true)
    ∧ (let z : Dev := { (d { st := .run }).wr R.HBM_CTRL 0 1 with now := 2 ^ 40 }
      z.bitOf R.HBM_CTRL 0 0 = true ∧ z.writesWait 0 = false ∧ z.readsWait 0 = false ∧ z.fldOf R.HBM_SR_CTRL 0 0 20 * 1000 ≤ z.now - (z.stk 0).lastReq)
    ∧ (∀ st ∈ [HbmState.off, .offline, .sleep], ((d { st := st }).stk 0).st = st ∧ ((d { st := st }).stk 0).wakeReq = false ∧ (d { st := st }).writesWait 0 = false
      ∧ (d { st := st }).readsWait 0 = false)
    ∧ 840 ≤ sext 12 (840 : BitVec 12).toNat ∧ sext 12 (839 : BitVec 12).toNat < 840 ∧ sext 12 (0x800 : BitVec 12).toNat < 840 := by decide +kernel

theorem witness_HbmMovesLinesAndPages :
    let d := fun (x : Hbm) (c : Copy) (f : Frame) => ({ rdy with hbm := [(0, x)], copies := [(0, some c)], frames := [(0, some f)], now := 10 ^ 12 } : Dev)
    let f : Frame := { stack := some 0, lines := [64], stageData := [[1]], staged := 1, bufWhole := true }
    let w := d { st := .run, writing := true } { spill := 1 } f
    let r := d { st := .run } { spill := 3 } { f with stageData := [], staged := 0 }
    let p := d { st := .run } { spill := 2 } f
    (S w).noUpsets ∧ w.errs.pageReq = [] ∧ SMap.wf none w.copies = true ∧ w.fan.fabricAsleep = false
    ∧ w.writeTurn 0 = some 0 ∧ w.earlierWrite f = false ∧ r.writeTurn 0 = none ∧ r.readTurn 0 = some 0
    ∧ r.earlierRead 0 0 { spill := 3 } = false ∧ (r.stk 0).repair = none
    ∧ (let g : Frame := { f with stageSeq := [5] }
      let two : Dev := { d { st := .run, writing := true } { spill := 1 } g with frames := [(0, some g), (1, some { f with stageSeq := [4] })] }
      two.earlierWrite g = true)
    ∧ (let two : Dev := { r with copies := [(0, some { spill := 3, readSeq := 1 }), (1, some { spill := 3 })] }
      two.earlierRead 0 0 { spill := 3, readSeq := 1 } = true)
    ∧ w.cpy 0 = some { spill := 1 } ∧ w.frame 0 = some f ∧ w.stackCopies 0 = [(0, { spill := 1 }, f)] ∧ (w.stk 0).writing = true
    ∧ (r.stk 0).writing = false ∧ f.lines[0]? = some 64 ∧ (r.buf.take (r.buf.withheld.length + 1)).isSome = true
    ∧ p.fillCopies 0 = [(0, { spill := 2 }, f)] ∧ (∀ e ∈ p.hbm, e.2.st ≠ .frozen)
    ∧ (p.firstCopies 0 (max 1 (p.fldOf R.FLE_PF_CTRL 0 0 4))).contains 0 = true ∧ p.forced {} = none
    ∧ f.lines.length ≤ min 16384 (p.fldOf R.FLE_PF_CELLS 0 0 16) - (f.cells.length - 0) ∧ 25600 ≤ (p.now - (p.spf 0).evalAt) * 135
    ∧ ({ p with now := 189 }.now - 0) * 135 < 25600
    ∧ w.writesWait 0 = true ∧ w.readsWait 0 = false ∧ w.panicAt 0 = false ∧ r.writesWait 0 = false ∧ r.readsWait 0 = true := by decide +kernel

theorem witness_HbmMovesLinesAndPages_upkeep :
    let d := fun (x : Hbm) => ({ rdy with hbm := [(0, x)], now := 10 ^ 12 } : Dev)
    let f : Frame := { stack := some 0, lines := [64], bufWhole := true }
    let mad : Dev := { d { st := .run, postponed := [(0, 7)] } with copies := [(0, some { spill := 3 })], frames := [(0, some f)], spill := [(0, { panic := true })] }
    let pages := fun (x : Page) => d { st := .frozen, pages := [(1, x)] }
    let diag := fun (st : HbmState) (n : Nat) (x : Page) => (d { st := st, diag := n, pages := [(1, x)] }).wr R.HBM_DIAG_COUNT 0 2
    let scrub := (d { st := .run, pages := [(1, { st := .closed, high := 1 })] }).wr R.HBM_CTRL 0 (2 ^ 17) |>.wr R.HBM_SCRUB_CTRL 0 0
    mad.panicAt 0 = true ∧ mad.readsWait 0 = true ∧ (mad.stk 0).st = .run ∧ SMap.get 0 (mad.stk 0).postponed 0 < min 8 ((mad.wr R.HBM_REF_CTRL 0 8).fldOf R.HBM_REF_CTRL 0 0 4)
    ∧ min 8 ((mad.wr R.HBM_REF_CTRL 0 7).fldOf R.HBM_REF_CTRL 0 0 4) ≤ SMap.get 0 (mad.stk 0).postponed 0
    ∧ (let z := (d { st := .run, fails := 255 }); max 1 (z.fldOf R.HBM_CTRL 0 8 8) ≤ (z.stk 0).fails ∧ z.stackCopies 0 = [])
    ∧ (scrub.scrubLines 0).find? (fun a => decide ((scrub.stk 0).scrubPos ≤ a)) = some 64 ∧ scrub.bitOf R.HBM_CTRL 0 17 = true
    ∧ scrub.scrubDue 0 = true ∧ scrub.scrubLine 0 = some 64 ∧ scrub.fillsWait 0 = false ∧ (scrub.stk 0).writing = false ∧ ({ scrub with now := 53 } : Dev).scrubDue 0 = false
    ∧ ({ scrub with now := 54 } : Dev).scrubDue 0 = true ∧ (scrub.setStk 0 { scrub.stk 0 with st := .sleep }).scrubDue 0 = true
    ∧ (let b := d { st := .run, writing := true, repair := some 64 }
      (b.stk 0).repair ≠ none ∧ b.panicAt 0 = false ∧ b.spillsWait 0 = false ∧ b.writesWait 0 = true ∧ (b.setStk 0 { b.stk 0 with writing := false }).spillsWait 0 = false)
    ∧ max 1 ((d { st := .run }).fldOf R.HBM_SCHED 0 0 16) ≤ (d { st := .run }).now - ((d { st := .run }).stk 0).phaseSince
    ∧ (S (pages {})).linked 0 ∧ (∀ x ∈ [({ st := .closed, live := 1 } : Page), { st := .retired }], (pages x).page 0 1 = x)
    ∧ ((d { st := .run }).page 0 1).st = .free
    ∧ (∀ st ∈ [HbmState.run, .frozen], ∀ n ∈ [1, 2], ((diag st n {}).stk 0).st = st ∧ ((diag st n {}).stk 0).diag = n)
    ∧ (diag .frozen 2 { st := .open_ }).fldOf R.HBM_DIAG_COUNT 0 0 21 = 2 ∧ (diag .frozen 2 { st := .open_ }).fldOf R.HBM_DIAG_ADDR 0 6 20 ≤ 1
    ∧ (∀ e ∈ ((diag .frozen 2 { st := .retired }).stk 0).pages, e.2.st = .free ∨ e.2.st = .retired) := by decide +kernel
/-! ## Witnesses: queueing -/

theorem witness_SchedulerAgerAndGovernor :
    let d : Dev := { planned with lports := [(0, { st := .up })], copies := [(0, some {})], frames := [(0, some { bufWhole := true, cells := [0], blen := 64 })], now := 10 ^ 9 }
    let e := d.schedPrep 0 0
    let off : Dev := { d with slices := [(0, { st := .asleep })] }
    (S d).noUpsets ∧ SMap.wf none d.copies = true ∧ d.recircFull 0 0 = false ∧ d.fan.fabricAsleep = false
    ∧ (d.slc 0).st = .run ∧ (off.slc 0).st ≠ .run ∧ (planned.schedPrep 0 0).schedPort 0 0 = none
    ∧ e.schedPort 0 0 = some 0 ∧ ((e.pickClass 0 (e.eligClasses 0)).map (fun x => (x.1, x.2.1))) = some (0, false)
    ∧ ((SMap.get {} e.tm.bins 0).pick (e.eligBins 0) (e.binQuantum 0)).map (·.1) = some 0 ∧ (e.binHead 0 0).map (·.1) = some 0 ∧ ({} : Copy).ended = false
    ∧ rdy.cmdHead .gov 0 1 = none := by
  decide +kernel

theorem witness_AgerAndGovernor :
    let d : Dev := { (planned.wr R.BPM_AGE_CTRL 0 1) with copies := [(0, some {})], frames := [(0, some {})], time := { secs := 100 } }
    let old := d.wr R.BPM_POOL_AGE 0 1
    let young := { old with time := { secs := 0 } }
    let g := fun (op : Nat) => asked planned .gov 0 op
    d.bitOf R.BPM_AGE_CTRL 0 0 = true ∧ (planned.wr R.BPM_AGE_CTRL 0 0).bitOf R.BPM_AGE_CTRL 0 0 = false ∧ d.binHead 0 0 = some (0, {}) ∧ (∀ b ∈ List.range 63, d.binHead 0 (b + 1) = none)
    ∧ d.forced {} = none ∧ d.frame 0 = some {} ∧ SMap.wf none d.copies = true ∧ old.fldOf R.BPM_POOL_AGE 0 0 16 = 1 ∧ 1 * 40000 < old.ageOf 0
    ∧ young.ageOf 0 ≤ 1 * 40000 ∧ (∀ e ∈ d.hbm, e.2.st ≠ .frozen)
    ∧ (∀ op ∈ [1, 2, 3, 4, 5], (S (g op)).queued .gov 0 op 0 op []) ∧ (S (g 1)).noUpsets ∧ (g 1).fan.fabricAsleep = false
    ∧ fld ((g 1).rd R.GOV_FLAGS 0) 2 1 = 0 ∧ (let z := (g 1).wr R.GOV_FLAGS 0 4; fld (z.rd R.GOV_FLAGS 0) 2 1 = 1 ∧ z.rd R.GOV_CBS 0 = 0) := by
  decide +kernel

theorem witness_RefillsGatesAndPause :
    let tm := fun (x : TmPort) => ({ rdy with tm := { ports := [(0, x)] }, now := 10 ^ 9, time := { secs := 1 } } : Dev)
    let adm := (((rdy.wr R.SLU_ADMIN_LEN 0 1).wr R.SLU_ADMIN_CYCLE 0 1000).wr R.SLU_ADMIN_ENT_INTERVAL 0 1000)
    let l : GateList := { cycle := 1000, ents := [(0, 1000)] }
    let good := List.replicate 12 0 ++ [0x88, 0x08, 1, 1] ++ List.replicate 48 0
    let xoff := (tm { xoff := 1 }).wr R.TMP_CTRL 0 (2 ^ 16)
    SMap.wf {} rdy.tm.policers = true ∧ rdy.fan.fabricAsleep = false ∧ (S adm).linked 0
    ∧ rdy.refillsDue = 0 ∧ (tm {}).refillsDue ≠ 0
    ∧ (let z := adm.adminList 0; z.cycle ≠ 0 ∧ (∀ e ∈ z.ents, e.2 ≠ 0) ∧ adm.rd R.SLU_ADMIN_LEN 0 = 1 ∧ z.base < adm.ns64 + 1000)
    ∧ rdy.rd R.SLU_ADMIN_LEN 0 = 0 ∧ adm.ns64 + 1000 ≤ ((adm.wr64 R.SLU_ADMIN_BASE 0 5000).adminList 0).base
    ∧ ((tm { pend := some (l, 5, 0) }).tmp 0).pend = some (l, 5, 0) ∧ 5 ≤ (tm {}).ns64 ∧ ({ tm {} with time := {} } : Dev).ns64 < 5
    ∧ ((tm { oper := some l }).tmp 0).oper ≠ none ∧ ((tm {}).tmp 0).oper = none
    ∧ (beAt good 12 2 = 0x8808 ∧ beAt good 14 2 = 0x0101 ∧ good.length = 64) ∧ good.length ≠ (good ++ [0]).length
    ∧ SMap.get 0 ((tm { pauseEnd := [(0, 5)] }).tmp 0).pauseEnd 0 = 5 ∧ 5 ≤ (tm {}).now ∧ SMap.wf 0 ((tm { pauseEnd := [(0, 5)] }).tmp 0).pauseEnd = true
    ∧ fld (xoff.tmp 0).xoff 0 1 = 1 ∧ xoff.bitOf R.TMP_CTRL 0 16 = true
    ∧ max 1 (xoff.fldOf R.TMP_PFC_TIME 0 16 16) * 512 ≤ (xoff.now - SMap.get 0 (xoff.tmp 0).xoffSent 0) * xoff.macRate 0
    ∧ (∀ q ∈ [false, true], (({ xoff with lports := [(0, { st := .up, txQuiet := q })] } : Dev).lp 0).txQuiet = q) ∧ (xoff.lp 0).st ≠ .up
    ∧ fld ((tm {}).tmp 0).xoff 0 1 = 0 ∧ ({ tm {} with pfcRx := [(0, good, 5)] } : Dev).pfcRx = (0, good, 5) :: [] ∧ rdy.pfcRx = []
    ∧ SMap.get 0 ((tm {}).tmp 0).pauseEnd 0 = 0 ∧ ({ tm { pauseEnd := [(0, 5)] } with now := 4 } : Dev).now < 5
    ∧ (let up := good.set 17 1; fld (beAt up 16 2) 0 1 = 1 ∧ (rdy.wr R.TMP_CTRL 0 (2 ^ 24)).bitOf R.TMP_CTRL 0 24 = true ∧ beAt up 18 2 = 0
      ∧ beAt (up.set 19 1) 18 2 = 1) := by decide +kernel

theorem witness_OversizeDiscard :
    let l : GateList := { cycle := 1000, ents := [(1, 10), (0, 990)] }
    let c : Copy := { ovsSince := some 0 }
    let d : Dev := { planned.wr R.SLU_CTRL 0 1 with
      copies := [(0, some c)], frames := [(0, some { bufWhole := true, blen := 9000 })], tm := { ports := [(0, { oper := some l })] }, time := { secs := 1 } }
    d.binHead 0 0 = some (0, c) ∧ (d.tmp 0).oper = some l ∧ d.oversize c = true ∧ SMap.wf none d.copies = true ∧ c.spill = 0
    ∧ (d.fldOf R.SLU_CTRL 0 8 8 = 0 ∨ d.fldOf R.SLU_CTRL 0 8 8 ≤ l.cyclesIn 0 d.ns64)
    ∧ (let z := d.wr R.SLU_CTRL 0 (1 + 255 * 2 ^ 8); let y : Dev := { z with time := { ns := 1 } }; y.fldOf R.SLU_CTRL 0 8 8 ≠ 0 ∧ l.cyclesIn 0 y.ns64 < y.fldOf R.SLU_CTRL 0 8 8 ∧ y.oversize c = true) := by decide +kernel

/-! ## Witnesses: hosts -/

theorem witness_LeasesAndRingsServeTheHosts :
    let d := fun (l : Lease) => ({ rdy with leases := SMap.set {} [] 0 l, now := 10 } : Dev)
    let q : RingRecord := ⟨0, 0, 1, 0, [1, 2, 3, 4], 0, 0⟩
    let rec_ : Dev := { rdy with ringQ := [q] }
    let on := rec_.wr R.RING_CTRL 0 (2 ^ 8)
    let full := on.wr R.RING_PROD 0 64
    let due : Dev := { on with rings := [(0, { unsignalled := 1 })], now := 10 ^ 12 }
    (S (d {})).linked 0 ∧ ((d {}).lease 0).holder = none ∧ ((d { holder := some 0 }).lease 0).holder = some 0
    ∧ ((d { holder := some 1 }).lease 0).holder = some 1 ∧ (d {}).ringEn 0 = false
    ∧ ((d { holder := some 0, deadline := 10 }).lease 0).deadline ≤ 10 ∧ 10 < ((d { holder := some 0, deadline := 11 }).lease 0).deadline
    ∧ rec_.ringQ = q :: [] ∧ rec_.ringEn 0 = false ∧ on.ringEn 0 = true ∧ (rec_.host 0).bme = true ∧ on.ringWb 0 = 0
    ∧ ceilDiv (16 + q.payload.length) 32 ≤ on.ringRoom 0 ∧ on.rd R.RING_PROD 0 % 2 ^ on.ringLog2 0 + 1 ≤ 2 ^ on.ringLog2 0 ∧ full.ringRoom 0 < 1
    ∧ (due.ring 0).raised = false ∧ 0 < (due.ring 0).unsignalled ∧ max 1 (due.fldOf R.RING_MOD 0 0 16) ≤ (due.ring 0).unsignalled
    ∧ due.msixMasked 0 (due.fldOf R.RING_CTRL 0 16 5) = true ∧ (due.wr R.MSIX_TABLE 3 0).msixMasked 0 (due.fldOf R.RING_CTRL 0 16 5) = false
    ∧ (rdy.ring 0).unsignalled = 0 ∧ ({ holder := none } : Lease).holder ≠ some 0
    ∧ (let z := (on.wr R.RING_CTRL 0 (2 ^ 8 + 6)).wr R.RING_PROD 0 63; let w : RingRecord := { q with payload := List.replicate 20 0 }
      2 ^ z.ringLog2 0 < z.rd R.RING_PROD 0 % 2 ^ z.ringLog2 0 + ceilDiv (16 + w.payload.length) 32
      ∧ ({ rec_ with hosts := [(0, { up := true })] } : Dev).host 0 = { up := true }) ∧ rdy.owns 0 = false := by decide +kernel

theorem witness_PuntAndInject :
    let f : Frame := { place := .punted, bufWhole := true, blen := 64 }
    let d := fun (x : HostPort) => ({ rdy with hosts := [(0, x)], frames := [(0, some f)], nextFid := 1 } : Dev)
    let e := fun (whole : Bool) => ({ fid := 0, cells := 0, whole := whole } : PuntEntry)
    let p := (d { up := true, bme := true, punt := [e true] }).wr R.RING_CTRL 20 (2 ^ 8)
    let desc := leBytes 8 0x1000 ++ leBytes 2 64 ++ List.replicate 22 0
    let inj := fun (bs : List Byte) => ((d { up := true, bme := true, mem := memWrite [] 0 bs }).wr R.RING_CTRL 24 (2 ^ 8)).wr R.RING_PROD 24 1
    (p.host 0).punt = e true :: [] ∧ p.frame 0 = some f ∧ (S p).noUpsets ∧ (e true).whole = true ∧ (e false).whole = false ∧ p.forced f.tag = none
    ∧ p.ringEn 20 = true ∧ p.ringRoom 20 ≠ 0 ∧ p.ringWb 20 = 0 ∧ ((d { punt := [e true] }).host 0).bme = false
    ∧ ((d {}).host 0).punt = [] ∧ (p.wr R.RING_CTRL 20 0).ringEn 20 = false ∧ (d {}).injRing 0 0 4 = none ∧ ({} : HostPort).bme = false
    ∧ (∀ bs ∈ [desc, List.replicate 32 0], ((inj bs).host 0).injHeld = none ∧ (inj bs).injRing 0 0 4 = some 0 ∧ (inj bs).ringWb 24 = 0)
    ∧ leAt ((inj desc).hostRead 0 ((inj desc).ringEntry 24 0 32) 32) 8 2 % 2 ^ 14 = 64 ∧ leAt ((inj desc).hostRead 0 0 32) 12 20 = 0
    ∧ leAt ((inj (List.replicate 32 0)).hostRead 0 0 32) 8 2 % 2 ^ 14 < 64 := by decide +kernel

theorem witness_DmaAndAmilerAct :
    let reg := R.VER_DRAIN_LIMIT.addr 0
    let host := fun (m : List Host.Cell) => ({ rdy with hosts := [(0, { up := true, bme := true, mem := m })] } : Dev)
    let desc := fun (op len : Nat) => leBytes 8 0x1000 ++ leBytes 4 reg ++ leBytes 4 len ++ leBytes 1 op ++ List.replicate 15 0
    let dma := fun (op len : Nat) => ((host (memWrite (memWrite [] 0x1000 (leBytes 4 reg ++ leBytes 4 9)) 0 (desc op len))).wr R.RING_CTRL 40 (2 ^ 8)).wr R.RING_PROD 40 1
    let head := fun (op len : Nat) => dmaDesc (desc op len)
    (S (dma 1 4)).noUpsets ∧ (dma 1 4).fan.warmRunning = none ∧ (dma 1 4).bridge = [] ∧ (host []).dmaHead 0 = none
    ∧ (∀ x ∈ [(1, 4), (2, 4), (3, 8), (1, 2), (2, 0), (3, 4), (0, 4), (4, 4)], (dma x.1 x.2).dmaHead 0 = some (head x.1 x.2) ∧ (dma x.1 x.2).ringWb 40 = 0)
    ∧ (∀ x ∈ [(1, 4), (2, 4), (3, 8)], (head x.1 x.2).good = true ∧ (head x.1 x.2).op = x.1 ∧ (head x.1 x.2).len = x.2 ∧ (head x.1 x.2).bar = reg)
    ∧ (∀ x ∈ [(1, 2), (2, 0), (3, 4), (0, 4), (4, 4)], (head x.1 x.2).good = false ∧ (head x.1 x.2).op = x.1) ∧ (head 1 4).wide = false
    ∧ (dma 1 4).ringEntry 40 0 32 + 20 + 4 ≤ (head 1 4).host ∧ ((dma 3 8).host 0).dma = none ∧ leNat ((dma 3 8).hostRead 0 0x1000 4) = reg := by
  decide +kernel

theorem witness_AmilerRequests :
    let reg := R.VER_DRAIN_LIMIT.addr 0
    let body : List Byte := [1, 2, 0, 1] ++ beBytes 8 1 ++ List.replicate 4 0 ++ beBytes 4 (reg + 2 ^ 30) ++ beBytes 4 0
    let key := List.replicate 32 (0 : Byte)
    let data := fun (body mac : List Byte) => List.replicate 14 (0 : Byte) ++ body ++ mac ++ List.replicate 4 0
    let f : Frame := { place := .punted, bufWhole := true, cells := [0] }
    let d := fun (key : Option (List Byte)) (bs : List Byte) => ({ rdy with
      hosts := [(0, { up := true, key := key })], amlQ := [0], frames := [(0, some f)], nextFid := 1, buf := { data := [(0, bs)] } } : Dev)
    let run := fun (op addr : Nat) => ({ rdy with aml := some ({ (amlRun 0 true body [] [] {}) with todo := [(addr + op * 2 ^ 30, 0xFFFFFFFF)] }) } : Dev)
    let oob := (List.range 6).foldl (fun (d : Dev) j => d.wr R.HPL_AML_REQ j (leAt body (4 * j) 4)) { rdy with hosts := [(0, { up := true, oobBusy := true })] }
    (run 0 reg).aml.isSome = true ∧ rdy.aml = none
    ∧ (oob.host 0).oobBusy = true ∧ amlFormat ((List.range 256).flatMap (fun j => leBytes 4 (oob.rd R.HPL_AML_REQ j))) false = true
    ∧ amlFormat ((List.range 256).flatMap (fun j => leBytes 4 (rdy.rd R.HPL_AML_REQ j))) false = false
    ∧ (∀ k, k < 4 → ((d none (data body key)).host k).oobBusy = false) ∧ (d none (data body key)).amlWhole = some 0
    ∧ (d none (data body key)).frame 0 = some f ∧ f.bufBad = 0 ∧ (let bs := data body (key.take 16); (bs.take (bs.length - 4)).drop (ethLen bs) = body ++ key.take 16)
    ∧ amlFormat body true = true ∧ 16 + 8 * byteAt body 3 + 16 ≤ (body ++ key.take 16).length ∧ byteAt body 2 = 0
    ∧ cmac key (body.take 24) ≠ key.take 16 ∧ slice (body ++ cmac key body) 24 16 = cmac key (body.take 24)
    ∧ rdy.rd64 R.AML_SEQ 0 < beAt body 4 8 ∧ beAt body 4 8 ≤ (rdy.wr64 R.AML_SEQ 0 1).rd64 R.AML_SEQ 0 ∧ amlFormat [] true = false
    ∧ (∀ op ∈ [0, 1, 2, 3], ∀ e, (run op reg).aml.bind (fun a => a.todo.head?) = some e → fld e.1 30 2 = op ∧ fld e.1 0 28 = reg)
    ∧ R.VER_COMMITS.addr 0 < 2 ^ 28 ∧ rdy.bitOf R.STAT_VIEW 0 0 = false
    ∧ rdy.rd R.VER_DRAIN_LIMIT 0 &&& 0 = 0 ∧ rdy.rd R.VER_DRAIN_LIMIT 0 &&& 0xFFFFFFFF ≠ 0 ∧ 0 < rdy.amlWait
    ∧ (∀ a, (run 0 reg).aml = some a → a.abandon = false ∧ a.host = 0 ∧ a.stop = false ∧ a.noReply = true)
    ∧ (let z : Dev := { run 2 reg with now := rdy.amlWait, aml := (run 2 reg).aml.map (fun a => { a with waitSince := some 0 }) }
      ∀ a, z.aml = some a → a.waitSince.getD z.now + z.amlWait ≤ z.now) := by decide +kernel
/-! ## Witnesses: sleep, power, time, errors, statistics -/

theorem witness_SlicesAndTheFabricSleepAndWake :
    let d := fun (x : SliceSt) => (({ rdy with slices := SMap.set {} [] 0 x, now := 10 ^ 12 } : Dev).wr R.FAN_SLEEP_EN 0 1).wr R.FAN_HOLD 0 0
    let f := fun (x : Fan) => ({ rdy with slices := (List.range 8).map (fun k => (k, { st := .asleep })), fan := x, now := 10 ^ 12 } : Dev).wr R.FAN_SLEEP_EN 0 256
    let z := f { st := .ready, fabricIdleSince := some 0 }
    rdy.bridge = [] ∧ rdy.tm.ports = [] ∧ rdy.cmdqs = [] ∧ (d { macRun := false }).slc 0 = { macRun := false } ∧ rdy.fan.fabricAsleep = false
    ∧ (let y := d { idleSince := some 0 }; y.fan.st = .ready ∧ (y.slc 0).st = .run ∧ y.idleRule 0 = true ∧ y.bitOf R.FAN_SLEEP_EN 0 0 = true
      ∧ y.bitOf R.FAN_HOLD 0 0 = false ∧ y.loader.retireWake = false ∧ 0 + max 1 (y.fldOf R.FAN_IDLE 0 0 16) * 1000 ≤ y.now)
    ∧ ((d { st := .entering }).slc 0).wakeReq = false ∧ ((d { st := .asleep, wakeReq := true }).slc 0).wakeReq = true
    ∧ ((d { st := .waking, switchDue := true }).slc 0).st = .waking ∧ (S (d {})).linked 0
    ∧ (let y := d {}; (y.slc 0).macRun = true ∧ y.sliceIdle 0 = true ∧ (y.slc 0).macIdleSince + 10000 ≤ y.now)
    ∧ z.fan.fabricAsleep = false ∧ z.fan.fabricWakeReq = false ∧ z.fabricIdle = true ∧ 0 + max 1 (z.fldOf R.FAN_IDLE 0 16 16) * 1000 ≤ z.now
    ∧ (let y := f { st := .ready, fabricAsleep := true, fabricWakeReq := true }; y.fan.fabricAsleep = true ∧ y.fan.fabricWakeReq = true) := by
  decide +kernel

theorem witness_PowerStatesAndResets :
    let d := fun (f : Fan) => ({ rdy with fan := f } : Dev)
    rdy.epochs.old = none ∧ (rdy.host 0).up = true ∧ (∀ st ∈ [FanState.shutdown, .tripped, .standby], (d { st := st, vsb3 := false }).fan.vsb3 = false)
    ∧ (d { st := .init }).fan.since + 3000000 ≤ 3000000 ∧ (d { st := .ready, warmRunning := some 0 }).fan.warmRunning.isSome = true
    ∧ (d { st := .ready, resetWaiting := some (.cold, 7) }).fan.resetWaiting = some (.cold, 7) ∧ (d { exitHeld := true }).fan.exitHeld = true
    ∧ (d {}).fan.aonOn = true ∧ (d { aonOn := false }).fan.aonOn = false ∧ (d {}).bitOf R.AON_CTRL 0 0 = true
    ∧ ((d {}).wr R.AON_CTRL 0 0).bitOf R.AON_CTRL 0 0 = false ∧ (∀ st ∈ [FanState.standby, .powerUp, .init, .ready, .shutdown, .tripped],
      (S (d { st := st })).linked 0 ∧ (d { st := st }).fan.st = st ∧ (d { st := st }).fan.warmRunning = none)
    ∧ (∀ j : Fin 9, (d { st := .tripped }).dieTemp j < 800) ∧ (d { st := .ready }).fuseBusy = false
    ∧ ({ rdy with fuses := { busy := true } } : Dev).fuseBusy = true ∧ (d { st := .ready, resetWaiting := some (.warm, 0) }).fan.resetWaiting = some (.warm, 0)
    ∧ FanState.live .ready = true ∧ FanState.live .tripped = false ∧ (d { vsb3 := false }).fan.vsb3 = false
    ∧ (d {}).dieTemp 0 < (d {}).fldOf R.FAN_THERM 0 0 8 * 8 ∧ 1000 ≤ (1000 : BitVec 12).toInt ∧ (999 : BitVec 12).toInt < 1000
    ∧ (d { inputHigh := true, st := .shutdown }).fan.inputHigh = true ∧ (d {}).fan.inputHigh = false := by decide +kernel

theorem witness_TimeAndTheSideInterfacesAct :
    let d := fun (f : Fan) => ({ rdy with fan := f, time := { secs := 1 }, now := 10 ^ 12 } : Dev)
    let r : Fan := { st := .ready }
    (S (d r)).linked 0 ∧ (d r).rd R.TIME_SET_NS 0 < 10 ^ 9 ∧ (d r).time.secs < 2 ^ 48
    ∧ 10 ^ 9 ≤ ((d r).wr R.TIME_SET_NS 0 (10 ^ 9)).rd R.TIME_SET_NS 0 ∧ ((d r).ns64 : Int) + sext 32 ((d r).rd R.TIME_STEP_NS 0) = 10 ^ 9
    ∧ (d r).clocksOn = true ∧ (d {}).clocksOn = false ∧ (∀ v ∈ [1, 2, 4], ((d r).wr R.TIME_CTRL 0 v).rd R.TIME_CTRL 0 = v)
    ∧ ((d r).wr R.TIME_CTRL 0 1).bitOf R.TIME_CTRL 0 0 = true ∧ ((d r).wr R.TIME_CTRL 0 2).bitOf R.TIME_CTRL 0 1 = true ∧ (d r).time.ns < 10 ^ 9
    ∧ ((d r).wr R.TIME_CTRL 0 4).bitOf R.TIME_CTRL 0 2 = true ∧ (d r).fan.ppsOut = false ∧ (d r).fldOf R.TIME_PPS_OUT 0 0 30 ≤ (d r).time.ns + 2 ∧ (d r).time.ns ≤ (d r).fldOf R.TIME_PPS_OUT 0 0 30 + 2
    ∧ ((d r).wr R.TIME_PPS_OUT 0 3).time.ns + 2 < ((d r).wr R.TIME_PPS_OUT 0 3).fldOf R.TIME_PPS_OUT 0 0 30
    ∧ (let z := (d r).wr R.TIME_STEP_NS 0 0xC4653600; (z.ns64 : Int) + sext 32 (z.rd R.TIME_STEP_NS 0) = 0)
    ∧ (let z := d { r with ppsOut := true }; z.fan.ppsOut = true ∧ z.fan.ppsOutSince + max 1 (z.fldOf R.TIME_PPS_WIDTH 0 0 10) * 1000000 ≤ z.now)
    ∧ (d { aonOn := false }).fan.aonOn = false ∧ (d {}).fan.aonOn = true ∧ (d {}).i3cReach 0x4000000 = false
    ∧ (d { i3cOffset := R.AON_CTRL.addr 0 }).fan.i3cOffset = R.AON_CTRL.addr 0 ∧ (d {}).fan.st ≠ .ready := by decide +kernel

theorem witness_ErrorsAreTrackedSparedAndInjected :
    let d := fun (e : Errs) => ({ rdy with errs := e } : Dev)
    let one := (d {}).wr R.ERR_CTRL 0 (1 + 1 * 2 ^ 8 + 2 ^ 16)
    let many := (d {}).wr R.ERR_CTRL 0 (1 + 3 * 2 ^ 8)
    let tr : Track := ⟨7, 0, 5, 0, 1⟩
    let job : SpareJob := ⟨7, 0, 5, false, false⟩
    let sel := fun (c loc : Nat) => ((d {}).wr R.ERR_SPARE_SEL 0 c).wr R.ERR_SPARE_LOC 0 loc
    let inj := ((d { armed := true }).wr R.ERR_INJ_SEL 0 0x07).wr R.ERR_INJ_SYM 0 (1 * 2 ^ 8 + 2 ^ 7)
    many.errs.pageReq = [] ∧ many.errs.poisoned = [] ∧ many.errs.tracker = [] ∧ (d { poisoned := [(7, 0, 5)] }).errs.poisoned = [(7, 0, 5)]
    ∧ (let full : List Track := List.replicate 4096 tr; full.length = 4096 ∧ full.any (fun x => decide (x.cls = 8)) = false)
    ∧ ({ d { tracker := [tr] } with time := { secs := 3600 } } : Dev).time.secs = tr.first + 3600 ∧ ([tr] : List Track).any (fun x => decide (x.cls = 7)) = true
    ∧ (∀ c ∈ [1, 2, 3, 4, 7, 8, 9, 0x0A], (many.sparesUsed c 0 5 = 0)) ∧ (many.bank (fld (0 : BitVec 16).toNat 4 1)).st ≠ .running
    ∧ (let used : Dev := d { remaps := (List.range 4).map (fun k => ⟨0x0A, 0, k, k⟩) }; used.sparesUsed 0x0A 0 5 = 4 ∧ spareCount 0x0A = 4)
    ∧ (d { remaps := [⟨7, 0, 5, 0⟩] }).errs.remaps = [⟨7, 0, 5, 0⟩] ∧ (List.replicate 64 (⟨7, 0, 5, true, false, 1, 9⟩ : ErrLog)).length = 64
    ∧ max 1 (many.fldOf R.ERR_CTRL 0 8 4) = 3 ∧ max 1 (one.fldOf R.ERR_CTRL 0 8 4) = 1 ∧ one.bitOf R.ERR_CTRL 0 16 = true
    ∧ (d { tracker := [tr] }).errs.tracker = [] ++ tr :: [] ∧ rdy.time.secs < tr.first + 3600 ∧ tr.count + 1 < 3 ∧ one.sparesUsed 7 0 5 < 2048
    ∧ (d {}).errs.spareJobs = [] ∧ (d { spareJobs := [job] }).errs.spareJobs = job :: [] ∧ (S (d {})).linked 0
    ∧ spareCount ((sel 7 5).fldOf R.ERR_SPARE_SEL 0 0 8) ≠ 0 ∧ (sel 7 5).rd R.ERR_SPARE_LOC 0 < locCount 7 ∧ spareCount 0x14 = 0
    ∧ (sel 7 5).sparesUsed 7 0 5 < spareCount 7 ∧ (d {}).errs.log = []
    ∧ (d { log := [⟨7, 0, 5, true, false, 1, 9⟩] }).errs.log = ⟨7, 0, 5, true, false, 1, 9⟩ :: []
    ∧ inj.errs.armed = true ∧ inj.fldOf R.ERR_INJ_SEL 0 0 8 = 7 ∧ inj.bitOf R.ERR_INJ_SYM 0 7 = true
    ∧ inj.fldOf R.ERR_INJ_SYM 0 0 6 ≠ inj.fldOf R.ERR_INJ_SYM 0 8 6 ∧ (d {}).errs.armed = false := by decide +kernel

theorem witness_StatisticsAndPerformanceCountersAct :
    let d := fun (x : Stats) => ({ rdy with stats := x, time := { ns := 10 } } : Dev)
    let on := (d { next := some 5 }).wr R.STAT_CTRL 0 1
    let sm : Sample := ⟨3, 2, 0x20, 1, 0, false, 9, 8⟩
    let due : SampleDue := ⟨0, 3, 2, 0x20, 1, 0⟩
    SMap.wf 0 on.regs.wides = true ∧ on.tm.ports = [] ∧ (S (d {})).linked 0
    ∧ on.bitOf R.STAT_CTRL 0 0 = true ∧ (d {}).bitOf R.STAT_CTRL 0 0 = false ∧ (d {}).stats.perf = none ∧ (d {}).stats.next = none
    ∧ SMap.get [] (d { samples := [(0, [sm])] }).stats.samples 0 = sm :: [] ∧ ((d {}).slc 0).st = .run
    ∧ on.stats.next = some 5 ∧ 5 ≤ on.ns64 ∧ on.ns64 < 2 ^ 64 ∧ (d { next := some 11 }).ns64 < 11 ∧ on.statGroup 17 = true ∧ (on.slc 0).macRun = true
    ∧ (d { due := [due] }).stats.due = due :: [] ∧ (SMap.get [] (d { samples := [(0, List.replicate 256 sm)] }).stats.samples 0).length = 256
    ∧ (∀ a ∈ [1, 2, 3], (d { perf := some (a, 5) }).stats.perf = some (a, 5)) ∧ (d { perf := some (1, 11) }).ns64 < 11 := by decide +kernel

/-! ## Witnesses: the whole block -/

theorem witness_RunsServeTheQueueInOrder :
    ({ S rdy with pending := [.activation, .fabricSleep] } : State).pending = [.activation] ++ [.fabricSleep] := by decide +kernel

theorem witness_FusesNeverGoBack :
    (∃ t, step (S rdy) = .next t) ∧ State.reset.dev.fuses = {} ∧ (S rdy).dev.fuses = {} := ⟨⟨_, rfl⟩, rfl, rfl⟩

theorem witness_Fuses_sound :
    Fuses.sound {} ∧ Fuses.sound { log := [arbRec 2, ⟨3, 0, 0, 0, []⟩], busy := true, job := some ⟨3 + 2 ^ 14, 5, 0, 0, []⟩ } :=
  ⟨⟨rfl, fun _ h => by cases h⟩, rfl, fun r h => ⟨[arbRec 2], 3, by cases h; decide +kernel⟩⟩
/-! ## Single steps and values that the spec works out -/

/-- What a command does to a device, on an empty queue. -/
def after (d : Dev) (c : Instr) : Dev := match exec c (S d) with | .next t => t.dev | _ => d

/-- 00_scope, "How numbers relate": logical port 309. -/
theorem test_indices_309 : sliceOf 309 = 4 ∧ physOf 309 = 38 ∧ engineOf 309 = 9 ∧ 309 * 16 + 15 = 4959 := by decide

/-- 03, worked example: the registers of physical port 29 and logical port 236; 12 and 14, worked examples. -/
theorem test_register_places :
    R.PP_LMAP_TX.addr 29 = 0x4720004 ∧ R.LP_CTRL.addr 236 = 0x4722000 ∧ R.LP_STATUS.addr 236 = 0x4722004 ∧ R.OE_LMAP_CMD.addr 7 = 0x4700020
    ∧ R.LP_TX_DOWN_DROPS.addr 236 = 0x4722148 ∧ deviceAddr 0 0x205400 = some (R.HPL_AML_REQ.addr 0) ∧ R.ERR_LOG_W0.addr 0 = 0x11020
    ∧ resolve 0x4722000 = some (R.LP_CTRL, 236, 0) := by decide +kernel

/-- 03, worked example: the map with pairs 4 and 5 crossed is valid, one with lane 4 twice is not (R113). -/
theorem test_lane_map : lmapOk 0xFA5688 = true ∧ lmapOk 0xFA4688 = false := by decide

/-- 11, worked example: policer 0x0123, frames 3, 4, 5 and 6 with the buckets as they stood (units of 2^-16 byte). -/
theorem test_policer_colours :
    let p : Policer := { cir := 0xED097B, pir := 0x1DA12F7, cbs := 4000, pbs := 6000, flags := 4 }
    let t := fun (tc tp : Int) => ({ p with tc := tc * 65536, tp := tp * 65536 } : Policer)
    ((t 1237 3474).colour 0 256).1 = 0 ∧ ((t (-262) 1974).colour 0 256).1 = 1 ∧ ((t (-262) 474).colour 0 256).1 = 1
    ∧ ((t (-25) (-551)).colour 0 256).1 = 2 ∧ wholeBytes ((Policer.refill 1 (t 1000 3000)).tc) = 1237
    ∧ wholeBytes ((Policer.refill 1 (t 1000 3000)).tp) = 3474 ∧ wholeBytes ((Policer.refill 9 (t 3990 5990)).tc) = 4000 := by decide +kernel

/-- 11, worked example: the turns of bins 2, 9 and 40; in round 4 bin 2, which owes 1,428 B, is passed. -/
theorem test_deficit_round_robin :
    let q := fun (b : Nat) => if b = 2 then 1024 else if b = 9 then 2048 else 512
    let b1 := Drr.pick {} [2, 9, 40] q
    let r4 : Drr := { ptr := 40, turn := true, deficit := [(2, -1428), (9, -156)] }
    b1.map (·.1) = some 2 ∧ (b1.bind (fun e => Drr.pick (e.2.charge 2 1500) [2, 9, 40] q)).map (·.1) = some 9
    ∧ (Drr.pick r4 [2, 9, 40] q).map (fun e => (e.1, SMap.get 0 e.2.deficit 2, SMap.get 0 e.2.deficit 9)) = some (9, -404, 1892) := by
  decide +kernel

/-- 14, worked example: the third correctable error of word 301 is lasting, and the word is spared. -/
theorem test_third_error_is_lasting :
    let d : Dev := { rdy with time := { secs := 78400 }, errs := { tracker := [⟨0x0A, 0xC970, 301, 10000, 2⟩] } }
    let t := after d (.errorReport 0x0A 0xC970 301 false ⟨false, []⟩)
    unitOf 6 0 2 11 1 0 = 0xC970 ∧ t.rd R.ERR_LAST0 0 = 0x800AC970 ∧ t.rd R.ERR_LAST1 0 = 0x12D ∧ t.rd R.ERR_LAST2 0 = 3
    ∧ t.rd64 R.ERR_LASTING 0x0A = 1 ∧ t.rd64 R.ERR_SPARED 0x0A = 1 ∧ t.errs.tracker = []
    ∧ ((after t (.errLogRead 0)).host 0).readData = 0x800AC970 := by decide +kernel

/-- The same at hour 25: past the window the count restarts at 1. -/
theorem test_error_past_the_window :
    let d : Dev := { rdy with time := { secs := 100000 }, errs := { tracker := [⟨0x0A, 0xC970, 301, 10000, 2⟩] } }
    (after d (.errorReport 0x0A 0xC970 301 false ⟨false, []⟩)).errs.tracker = [⟨0x0A, 0xC970, 301, 100000, 1⟩] := by decide +kernel

/-- 12, worked example: the WRITE clears ADMIN of logical port 236, which PORT_DISABLE then finds no longer eligible (R117). -/
theorem test_amiler_write_stops_the_port :
    let d : Dev := { (rdy.wr R.LP_CTRL 236 0x24000003) with
      lports := [(236, { st := .up })], aml := some ({ (amlRun 2 true [] [] [] {}) with todo := [(0x04722000, 0x24000002)] }) }
    let t := after d .amlWrite
    t.rd R.LP_CTRL 236 = 0x24000002 ∧ ((after t (.portDisable 236)).lp 236).st = .disabled := by decide +kernel

/-- 08: ADD wraps at 2^64, sets C and Z, and leaves g0 at 0 (R297). -/
theorem test_add_wraps :
    let t := (after (before (packFields [(0, 6, 2), (6, 5, 3), (11, 5, 1), (21, 1, 1), (26, 1, 1), (48, 64, 1)]) 0 { regs := [(1, 0xFFFFFFFFFFFFFFFF)] })
      (.aeAdd 0 0)).thr 0 0
    t.reg 3 = 0 ∧ t.c = true ∧ t.z = true ∧ t.v = false ∧ t.pc = 1 := by decide +kernel

/-- 05: an added rule is found by a search of the version of its commit, and not by one of the current version (R192). -/
theorem test_added_entry_waits_for_the_commit :
    let a := after (blt 1) (.bltAdd 0)
    let find := fun (v : Nat) => fld ((after { a with cmdqs := [(0, [(0, v)])] } (.bltSearch 0)).rd R.BLT_CMD_STATUS 0) 8 1
    find 4 = 0 ∧ find (4 + 2 * 16) = 1 := by decide +kernel

end Sys2Proof.Tests
end

section
/-! Accesses of a linked host port at any BAR0 offset: what reaches a running domain, and what that leaves alone. -/
namespace Sys2Proof.Machine

/-! ## What bringing counters up to date leaves alone -/

/-- `d'` has the 32-bit registers, the high-word latches and the warm-reset window of `d`: it may differ in counters, their shadows and the
marks from which they are counted. -/
structure Dev.CountsOnly (d d' : Dev) : Prop where
  words : d'.regs.words = d.regs.words
  latches : d'.regs.latches = d.regs.latches
  warm : d'.fan.warmRunning = d.fan.warmRunning

theorem Dev.CountsOnly.refl (d : Dev) : d.CountsOnly d := ⟨rfl, rfl, rfl⟩

theorem Dev.CountsOnly.trans {d d' d'' : Dev} (h : d.CountsOnly d') (h' : d'.CountsOnly d'') : d.CountsOnly d'' :=
  ⟨h'.words.trans h.words, h'.latches.trans h.latches, h'.warm.trans h.warm⟩

theorem Dev.CountsOnly.bitOf {d d' : Dev} (h : d.CountsOnly d') (r : RegInfo) (i k : Nat) : d'.bitOf r i k = d.bitOf r i k := by
  have rd : d'.rd r i = d.rd r i := by simp only [Dev.rd, h.words]
  simp only [Dev.bitOf, rd]

theorem Dev.CountsOnly.ite {d x y : Dev} (c : Prop) [Decidable c] (hx : d.CountsOnly x) (hy : d.CountsOnly y) :
    d.CountsOnly (if c then x else y) := by
  split
  · exact hx
  · exact hy

theorem Dev.CountsOnly.setSlc {d x : Dev} (h : d.CountsOnly x) (s : Nat) (y : SliceSt) : d.CountsOnly (x.setSlc s y) :=
  ⟨h.words, h.latches, h.warm⟩

theorem Dev.CountsOnly.setEng {d x : Dev} (h : d.CountsOnly x) (k : Nat) (y : Engine) : d.CountsOnly (x.setEng k y) :=
  ⟨h.words, h.latches, h.warm⟩

theorem Dev.CountsOnly.setCounts {d x : Dev} (h : d.CountsOnly x) (wides shadows : SMap DWord) :
    d.CountsOnly { x with regs := { x.regs with wides := wides, shadows := shadows } } :=
  ⟨h.words, h.latches, h.warm⟩

/-- A loop of steps that count keeps everything but counts. -/
theorem forN_countsOnly (n : Nat) (f : Nat → Dev → Dev) (hf : ∀ k (x : Dev), x.CountsOnly (f k x)) (d : Dev) : d.CountsOnly (forN n f d) :=
  forN_keep d.CountsOnly n f (fun k x hx => hx.trans (hf k x)) d (.refl d)

theorem Dev.wr64_countsOnly (d : Dev) (r : RegInfo) (i v : Nat) : d.CountsOnly (d.wr64 r i v) := ⟨rfl, rfl, rfl⟩

theorem Dev.accruePause_countsOnly (d : Dev) (n p : Nat) : d.CountsOnly (d.accruePause n p) := ⟨rfl, rfl, rfl⟩

theorem Dev.accrueLit_countsOnly (d : Dev) (k : Nat) : d.CountsOnly (d.accrueLit k) := by
  unfold Dev.accrueLit
  simp only
  refine .setEng (forN_countsOnly 16 _ (fun n x => ?_) d) _ _
  exact .ite _ ⟨rfl, rfl, rfl⟩ (.refl x)

theorem Dev.counterNow_countsOnly (d : Dev) (r : RegInfo) (i : Nat) : d.CountsOnly (d.counterNow r i) := by
  unfold Dev.counterNow
  split
  · exact d.accrueLit_countsOnly _
  · split
    · exact d.accruePause_countsOnly _ _
    · exact .refl d

/-- The pause counters of every listed port are brought up to date. -/
theorem Dev.foldl_accruePause_countsOnly (ports : SMap TmPort) : ∀ d : Dev,
    d.CountsOnly (ports.foldl (fun d e => forN 8 (fun q d => d.accruePause e.1 q) d) d) := by
  induction ports with
  | nil => exact .refl
  | cons e ports ih =>
    intro d
    rw [List.foldl_cons]
    exact (forN_countsOnly 8 (fun q x => x.accruePause e.1 q) (fun q x => x.accruePause_countsOnly e.1 q) d).trans (ih _)

theorem Dev.latchGroups_countsOnly (d : Dev) (p : Nat → Bool) (lost : Bool) : d.CountsOnly (d.latchGroups p lost) := by
  unfold Dev.latchGroups
  simp only
  refine .setCounts (x := forN 8 _ _) ?_ _ _
  refine .trans ?pauses (forN_countsOnly 8 _ (fun s x => ?empty) _)
  case pauses => exact .ite _ (Dev.foldl_accruePause_countsOnly _ d) (.refl d)
  case empty =>
    refine .ite _ (.setSlc (x := forN 32 _ x) ?_ _ _) (.refl x)
    exact forN_countsOnly 32 _ (fun e y => y.wr64_countsOnly _ _ _) x

theorem Dev.catchUp_countsOnly (d : Dev) (p : Nat → Bool) (n : Nat) : d.CountsOnly (d.catchUp p n) := by
  unfold Dev.catchUp
  split
  · exact .refl d
  · exact d.latchGroups_countsOnly p _

theorem Dev.catchSlice_countsOnly (d : Dev) (s : Nat) : d.CountsOnly (d.catchSlice s) :=
  (d.catchUp_countsOnly _ _).trans ⟨rfl, rfl, rfl⟩

theorem Dev.catchMac_countsOnly (d : Dev) (s : Nat) : d.CountsOnly (d.catchMac s) :=
  (d.catchUp_countsOnly _ _).trans ⟨rfl, rfl, rfl⟩

theorem Dev.catchHbm_countsOnly (d : Dev) (k : Nat) : d.CountsOnly (d.catchHbm k) :=
  (d.catchUp_countsOnly _ _).trans ⟨rfl, rfl, rfl⟩

theorem Dev.catchFabric_countsOnly (d : Dev) : d.CountsOnly d.catchFabric :=
  (d.catchUp_countsOnly _ _).trans ⟨rfl, rfl, rfl⟩

theorem Dev.catchAll_countsOnly (d : Dev) : d.CountsOnly d.catchAll := by
  unfold Dev.catchAll
  simp only
  refine .trans ?hbm (.ite _ (.refl _) (Dev.catchFabric_countsOnly _))
  refine .trans ?slices (forN_countsOnly 4 _ (fun k x => .ite _ (.refl x) (x.catchHbm_countsOnly k)) _)
  refine forN_countsOnly 8 _ (fun s x => ?slice) d
  exact .trans (.ite _ (.refl x) (x.catchSlice_countsOnly s)) (.ite _ (.refl _) (Dev.catchMac_countsOnly _ s))

theorem Dev.wake_countsOnly (d : Dev) (s : Nat) : d.CountsOnly (d.wake s) := by
  unfold Dev.wake
  simp only
  split <;> exact ⟨rfl, rfl, rfl⟩

/-! ## What reaching a domain leaves alone -/

theorem Dev.touch_countsOnly (d : Dev) (b : Nat) : d.CountsOnly (d.touch b) := by
  unfold Dev.touch
  split
  · exact d.wake_countsOnly _
  · split
    · have mac : ∀ s x, d.CountsOnly (d.setSlc s x) := fun s x => ⟨rfl, rfl, rfl⟩
      simp only [Dev.modSlc]
      split
      · exact mac _ _
      · exact (mac _ _).trans (Dev.catchAll_countsOnly _)
    · exact .refl d

/-- An access wakes no controller, so one that is OFFLINE stays so. -/
theorem Dev.offlineAt_touch (d : Dev) (b : Nat) : (d.touch b).offlineAt b = d.offlineAt b := by
  by_cases hm : 0x3000000 ≤ b ∧ b < 0x3400000
  · rw [d.touch_eq b (by omega) (by omega)]
  · simp [Dev.offlineAt, hm]

/-- An access to a register of an OFFLINE controller touches nothing. -/
theorem Dev.touch_offline (d : Dev) (b : Nat) (ho : d.offlineAt b = true) : d.touch b = d := by
  have hm : 0x3000000 ≤ b ∧ b < 0x3400000 := by
    simp only [Dev.offlineAt, Bool.and_eq_true, decide_eq_true_eq] at ho
    exact ho.1
  exact d.touch_eq b (by omega) (by omega)

/-- An OFFLINE controller is none that an access waits for. -/
theorem Dev.stoppedAt_offline (d : Dev) (b : Nat) (ho : d.offlineAt b = true) : d.stoppedAt b = none := by
  simp only [Dev.offlineAt, Bool.and_eq_true, decide_eq_true_eq] at ho
  obtain ⟨hm, off⟩ := ho
  have h1 : ¬ (0x1000000 ≤ b ∧ b < 0x1800000) := by omega
  have h2 : ¬ (0x2000000 ≤ b ∧ b < 0x2400000) := by omega
  simp [Dev.stoppedAt, h1, h2, hm, off]

/-- Where no MAC domain has to start, an access touches the idle timers and wake requests alone. -/
theorem Dev.touch_frame (d : Dev) (b : Nat)
    (mac : 0x4000000 ≤ b → b < 0x5000000 → (d.slc ((b - 0x4000000) / 0x200000)).macRun = true) :
    ∃ slices fan, d.touch b = { d with slices := slices, fan := fan } := by
  unfold Dev.touch
  split
  · unfold Dev.wake
    simp only
    split
    all_goals exact ⟨_, _, rfl⟩
  · split
    · rename_i hb
      rw [if_pos (mac hb.1 hb.2)]
      exact ⟨_, _, rfl⟩
    · exact ⟨_, _, rfl⟩

/-! ## The way of an access to its register -/

/-- An access of a host port whose link is up and whose domain does not have to be started goes to its register at once. -/
theorem Dev.hostAccess_now (d : Dev) (h : Nat) (x : Access) (hx : x.who = .host h) (up : (d.host h).up = true)
    (run : d.waitsFor (.host h) x.addr = none) : d.hostAccess x = d.accessNow x := by
  simp [Dev.hostAccess, hx, up, run]

theorem Dev.waitsFor_host (d : Dev) (h a b : Nat) (hd : deviceAddr h a = some b) : d.waitsFor (.host h) a = d.stoppedAt b := by
  simp [Dev.waitsFor, Accessor.reach, Accessor.rights, hd]

/-- A 4-byte write of a linked host port outside the command sets, whose domain runs and is not OFFLINE. -/
theorem Dev.hostPut_eq (d : Dev) (h a b v hw i o : Nat) (r : RegInfo) (hl : d.linked h) (hap : inAperture a = false) (h4 : a % 4 = 0)
    (hd : deviceAddr h a = some b) (hset : setOf b = none) (hr : resolve b = some (r, i, o)) (run : d.stoppedAt b = none)
    (on : d.offlineAt b = false) : d.hostPut h a v hw = ((d.touch b).regWrite (.host h) r i o (v % 2 ^ 32) hw).2 := by
  obtain ⟨up, warm⟩ := hl
  have warm' : (d.touch b).fan.warmRunning = none := (d.touch_countsOnly b).warm.trans warm
  rw [Dev.hostPut, d.hostAccess_now h _ rfl up ((d.waitsFor_host h a b hd).trans run)]
  simp [Dev.accessNow, Dev.busWrite, warm, hap, aligned, h4, Accessor.reach, Accessor.rights, hd, Dev.deviceWrite, hr, warm',
    d.offlineAt_touch, on, hset]

/-- A 4-byte write of a linked host port to a register of an OFFLINE controller, but for HBM_EVENTS, changes nothing (R42). -/
theorem Dev.hostPut_offline (d : Dev) (h a b v hw i o : Nat) (r : RegInfo) (hl : d.linked h) (hap : inAperture a = false)
    (h4 : a % 4 = 0) (hd : deviceAddr h a = some b) (hr : resolve b = some (r, i, o)) (off : d.offlineAt b = true)
    (hid : r.id ≠ R.HBM_EVENTS.id) : d.hostPut h a v hw = d := by
  obtain ⟨up, warm⟩ := hl
  rw [Dev.hostPut, d.hostAccess_now h _ rfl up ((d.waitsFor_host h a b hd).trans (d.stoppedAt_offline b off))]
  simp [Dev.accessNow, Dev.busWrite, warm, hap, aligned, h4, Accessor.reach, Accessor.rights, hd, d.touch_offline b off,
    Dev.deviceWrite, hr, off, hid]

/-- A 4-byte read of a linked host port whose domain runs. -/
theorem Dev.hostGet_eq_gotData (d : Dev) (h a b i o : Nat) (r : RegInfo) (upd : Option Nat) (hl : d.linked h)
    (hap : inAperture a = false) (h4 : a % 4 = 0) (hd : deviceAddr h a = some b) (hr : resolve b = some (r, i, o))
    (run : d.stoppedAt b = none) : d.hostGet h a upd = gotData h ((d.touch b).regRead (.host h) r i o upd) := by
  obtain ⟨up, warm⟩ := hl
  rw [Dev.hostGet, d.hostAccess_now h _ rfl up ((d.waitsFor_host h a b hd).trans run)]
  simp [Dev.accessNow, Dev.busRead, warm, hap, aligned, h4, Accessor.reach, Accessor.rights, hd, Dev.deviceRead, hr, gotData]

/-! ## Registers of the map -/

theorem resolveIn_mem {t : List RegInfo} {a : Nat} {x : RegInfo × Nat × Nat} (h : resolveIn t a = some x) : x.1 ∈ t := by
  induction t with
  | nil => cases h
  | cons r t ih =>
    simp only [resolveIn] at h
    split at h
    · cases h
      exact List.mem_cons_self
    · exact List.mem_cons_of_mem _ (ih h)

/-- The registers whose reads do something of their own: the time words, the debug window and FAN_INPUT. -/
def specialReads : List RegInfo :=
  [R.TIME_NOW_NS, R.TIME_NOW_SL, R.TIME_NOW_SH, R.TIME_PPS_IN_NS, R.TIME_PPS_IN_SL, R.TIME_PPS_IN_SH, R.AE_DBG_DATA_LO, R.FAN_INPUT]

/-- No counter and no RC register is among them. -/
theorem specialReads_kind : ∀ r ∈ regTable, r.kind = .counter ∨ r.kind = .rc → ∀ x ∈ specialReads, r.id ≠ x.id := by decide +kernel

/-- A read of a register without a read effect of its own goes by its access type. -/
theorem Dev.regRead_plain (d : Dev) (w : Accessor) (r : RegInfo) (i o : Nat) (upd : Option Nat) (hr : ∀ x ∈ specialReads, r.id ≠ x.id) :
    d.regRead w r i o upd = match r.kind with
      | .rc => d.readClear r i upd
      | .counter | .ro64 | .rw64 => d.readWide4 w r i o
      | _ => (d.wordView r i, d) := by
  simp only [specialReads, List.forall_mem_cons] at hr
  obtain ⟨h1, h2, h3, h4, h5, h6, h7, h8, -⟩ := hr
  cases hk : r.kind <;> simp only [Dev.regRead, h1, h2, h3, h4, h5, h6, h7, h8, if_false, hk]

end Sys2Proof.Machine
end

section
/-! BAD_ACCESS: an access that R7 discards leaves its trace in HPL_BAD_ACCESSES alone. -/
namespace Sys2Proof.Machine

/-! ## Which accesses fall under R7 -/

/-- No access of `size` bytes reaches a register at device address `b` (R6): none lies there, or one that takes 4 bytes only. -/
def noRegister (b size : Nat) : Prop :=
  resolve b = none ∨ ∃ r i o, resolve b = some (r, i, o) ∧ size = 8 ∧ r.latched = false ∧ r.id ≠ R.MSIX_TABLE.id

/-- How an access of `size` bytes at BAR0 offset `a` of host port `h` falls under R7. A register that 8 bytes do not reach is not one of
an OFFLINE controller, whose writes R42 discards. -/
inductive BadAt (d : Dev) (h a size : Nat) : Prop
  | misaligned (hs : aligned a size = false)
  | unreached (hs : aligned a size = true) (hd : deviceAddr h a = none)
  | noRegister (b : Nat) (hs : aligned a size = true) (hd : deviceAddr h a = some b) (hb : noRegister b size)
      (on : resolve b = none ∨ d.offlineAt b = false)

/-- The three ways are those of R7: a wrong size or alignment, no device address, no register of that size. -/
theorem BadAt.of_cases {d : Dev} {h a size : Nat} (hbad : (size ≠ 4 ∧ size ≠ 8) ∨ a % size ≠ 0 ∨ deviceAddr h a = none
    ∨ (∃ b, deviceAddr h a = some b ∧ (resolve b = none ∨ (∃ r i o, resolve b = some (r, i, o) ∧ size = 8 ∧ r.latched = false
      ∧ r.id ≠ R.MSIX_TABLE.id ∧ d.offlineAt b = false ∧ d.fan.warmRunning = none)))) : BadAt d h a size := by
  cases hs : aligned a size with
  | false => exact .misaligned hs
  | true =>
    have hs' := hs
    simp only [aligned, Bool.and_eq_true, Bool.or_eq_true, decide_eq_true_eq] at hs'
    rcases hbad with hsize | hmod | hd | ⟨b, hd, hr | ⟨r, i, o, hr, h8, hl, hm, on, -⟩⟩
    · omega
    · exact absurd hs'.2 hmod
    · exact .unreached hs hd
    · exact .noRegister b hs hd (.inl hr) (.inl hr)
    · exact .noRegister b hs hd (.inr ⟨r, i, o, hr, h8, hl, hm⟩) (.inr on)

/-! ## What counting one leaves alone -/

theorem Dev.rd64_inc_mod (d : Dev) (r : RegInfo) (i n : Nat) : (d.inc r i n).rd64 r i = (d.rd64 r i + n) % 2 ^ 64 := by
  simp only [Dev.inc, Dev.wr64, Dev.rd64, SMap.get_set_same, BitVec.toNat_ofNat]

theorem Dev.wides_inc_ne (d : Dev) (r : RegInfo) (i n k : Nat) (hk : k ≠ r.key i) :
    SMap.get 0 (d.inc r i n).regs.wides k = SMap.get 0 d.regs.wides k :=
  SMap.get_set_ne _ _ _ _ _ hk

/-- What an access of host port `h` under R7 leaves of `d`: HPL_BAD_ACCESSES counts it, and every other register, the array, the frames,
the buffer, the loader and the fuses stand. -/
structure Dev.CountedBad (d : Dev) (h : Nat) (t : Dev) : Prop where
  counted : t.rd64 R.HPL_BAD_ACCESSES h = (d.rd64 R.HPL_BAD_ACCESSES h + 1) % 2 ^ 64
  words : t.regs.words = d.regs.words
  wides : ∀ k, k ≠ R.HPL_BAD_ACCESSES.key h → SMap.get 0 t.regs.wides k = SMap.get 0 d.regs.wides k
  ae : t.ae = d.ae
  frames : t.frames = d.frames
  buf : t.buf = d.buf
  loader : t.loader = d.loader
  fuses : t.fuses = d.fuses

theorem Dev.badAccess_counted (d : Dev) (h : Nat) : d.CountedBad h (d.badAccess h) :=
  ⟨d.rd64_inc_mod _ h 1, rfl, fun k => d.wides_inc_ne _ h 1 k, rfl, rfl, rfl, rfl, rfl⟩

/-- The MAC domain of a device address, if it is of one, runs. -/
def Dev.macRunsAt (d : Dev) (b : Nat) : Prop :=
  0x4000000 ≤ b → b < 0x5000000 → (d.slc ((b - 0x4000000) / 0x200000)).macRun = true

theorem Dev.touch_badAccess_counted (d : Dev) (h b : Nat) (mac : d.macRunsAt b) : d.CountedBad h ((d.touch b).badAccess h) := by
  obtain ⟨slices, fan, ht⟩ := d.touch_frame b mac
  rw [ht]
  exact ⟨d.rd64_inc_mod _ h 1, rfl, fun k => d.wides_inc_ne _ h 1 k, rfl, rfl, rfl, rfl, rfl⟩

theorem Dev.CountedBad.setHost {d t : Dev} {h : Nat} (c : d.CountedBad h t) (k : Nat) (p : HostPort) : d.CountedBad h (t.setHost k p) :=
  ⟨c.counted, c.words, c.wides, c.ae, c.frames, c.buf, c.loader, c.fuses⟩

/-! ## Reads and writes where no register is reached -/

theorem deviceRead_noRegister (d : Dev) (h b size : Nat) (upd : Option Nat) (hb : noRegister b size) :
    d.deviceRead (.host h) b size upd = (.unassigned, 0, d.badAccess h) := by
  rcases hb with hr | ⟨r, i, o, hr, rfl, hl, hm⟩
  · simp [Dev.deviceRead, hr, Dev.countBad, Accessor.rights]
  · simp [Dev.deviceRead, hr, Dev.regRead8, hl, hm, Dev.countBad, Accessor.rights]

/-- Every register that takes an 8-byte write is read as a counter or is the MSI-X table. -/
theorem regWrite8_not_latched (d : Dev) (h i o v : Nat) (r : RegInfo) (hl : r.latched = false) (hm : r.id ≠ R.MSIX_TABLE.id) :
    d.regWrite8 (.host h) r i o v = (.unassigned, d.badAccess h) := by
  simp only [RegInfo.latched, List.any_cons, Bool.or_eq_false_iff, decide_eq_false_iff_not] at hl
  obtain ⟨hc, hp, hf, -⟩ := hl
  simp [Dev.regWrite8, Ne.symm hp, Ne.symm hf, hc, hm, Dev.badWrite, Dev.countBad, Accessor.rights]

theorem deviceWrite_noRegister (d : Dev) (h b size v hw : Nat) (warm : d.fan.warmRunning = none) (on : d.offlineAt b = false)
    (hb : noRegister b size) : (d.deviceWrite (.host h) b size v hw).2 = d.badAccess h := by
  rcases hb with hr | ⟨r, i, o, hr, rfl, hl, hm⟩
  · simp [Dev.deviceWrite, hr, on, Dev.badWrite, Dev.countBad, Accessor.rights]
  · simp only [Dev.deviceWrite, hr, warm, on, regWrite8_not_latched _ _ _ _ _ _ hl hm, Option.isSome_none, Bool.false_and,
      Bool.false_eq_true, if_false, if_true]
    -- in a command set of another host port the write is denied, which counts it as well (R202)
    split
    · split <;> rfl
    · rfl

/-- A write under R7 to an OFFLINE controller is discarded and not counted (R42). -/
theorem busWrite_bad_offline (d : Dev) (h a b size v hw : Nat) (hbad : BadAt d h a size) (warm : d.fan.warmRunning = none)
    (hap : inAperture a = false) (hd : deviceAddr h a = some b) (off : d.offlineAt b = true) :
    (d.busWrite (.host h) a size v hw).2 = d := by
  cases hbad with
  | misaligned hs => simp [Dev.busWrite, warm, hap, hs, Accessor.reach, Accessor.rights, hd, off]
  | unreached hs hd' => cases hd.symm.trans hd'
  | noRegister b' hs hd' hb on =>
    cases hd.symm.trans hd'
    have hr : resolve b = none := on.resolve_right (by simp [off])
    simp [Dev.busWrite, warm, hap, hs, Accessor.reach, Accessor.rights, hd, d.touch_offline b off, Dev.deviceWrite, hr, off]

/-- Any other write under R7 is counted. -/
theorem busWrite_bad (d : Dev) (h a size v hw : Nat) (hbad : BadAt d h a size) (warm : d.fan.warmRunning = none)
    (hap : inAperture a = false) (mac : ∀ b, deviceAddr h a = some b → d.macRunsAt b)
    (on : ∀ b, deviceAddr h a = some b → d.offlineAt b = false) : d.CountedBad h (d.busWrite (.host h) a size v hw).2 := by
  cases hbad with
  | misaligned hs =>
    have none_off : (deviceAddr h a).any d.offlineAt = false := by
      cases hd : deviceAddr h a with
      | none => rfl
      | some b => exact on b hd
    simpa [Dev.busWrite, warm, hap, hs, Accessor.reach, Accessor.rights, none_off, Dev.badWrite, Dev.countBad]
      using d.badAccess_counted h
  | unreached hs hd =>
    simpa [Dev.busWrite, warm, hap, hs, Accessor.reach, Accessor.rights, hd, Dev.badWrite, Dev.countBad] using d.badAccess_counted h
  | noRegister b hs hd hb =>
    have e := deviceWrite_noRegister (d.touch b) h b size v hw ((d.touch_countsOnly b).warm.trans warm)
      ((d.offlineAt_touch b).trans (on b hd)) hb
    simpa [Dev.busWrite, warm, hap, hs, Accessor.reach, Accessor.rights, hd, e] using d.touch_badAccess_counted h b (mac b hd)

/-- A read under R7 returns zeros and is counted. -/
theorem busRead_bad (d : Dev) (h a size : Nat) (upd : Option Nat) (hbad : BadAt d h a size) (warm : d.fan.warmRunning = none)
    (hap : inAperture a = false) (mac : ∀ b, deviceAddr h a = some b → d.macRunsAt b) :
    ∃ t, d.busRead (.host h) a size upd = (.unassigned, 0, t) ∧ d.CountedBad h t := by
  cases hbad with
  | misaligned hs =>
    refine ⟨_, ?_, d.badAccess_counted h⟩
    simp [Dev.busRead, warm, hap, hs, Dev.countBad, Accessor.rights]
  | unreached hs hd =>
    refine ⟨_, ?_, d.badAccess_counted h⟩
    simp [Dev.busRead, warm, hap, hs, Accessor.reach, Accessor.rights, hd, Dev.countBad]
  | noRegister b hs hd hb =>
    refine ⟨_, ?_, d.touch_badAccess_counted h b (mac b hd)⟩
    simp [Dev.busRead, warm, hap, hs, Accessor.reach, Accessor.rights, hd, deviceRead_noRegister _ _ _ _ _ hb]

/-! ## The row -/

/-- BAD_ACCESS of a linked host port whose domain does not have to be started. -/
theorem exec_badAccess_now (h : HostNo) (a : Offset) (size : Nat) (write : Bool) (v : DWord) (s : State) (up : (s.dev.host h).up = true)
    (run : s.dev.waitsFor (.host h) a.toNat = none) : exec (.badAccess h a size write v) s = .next (s.on (fun d => d.accessNow
      { who := .host h, addr := a.toNat, write := write, size := size, value := v.toNat, hwSet := 0, upd := none })) :=
  congrArg (fun d => (.next { s with dev := d } : Answer)) (s.dev.hostAccess_now h
    { who := .host h, addr := a.toNat, write := write, size := size, value := v.toNat, hwSet := 0, upd := none } rfl up run)

/-- Settles O41: by the way the access falls under R7, a write being discarded and a read returning zeros. -/
theorem badAccessesAreDiscardedAndCounted : Obligations.BadAccessesAreDiscardedAndCounted := by
  unfold Obligations.BadAccessesAreDiscardedAndCounted
  intro h a size write v s ⟨up, warm⟩ hap run mac hbad
  have bad := BadAt.of_cases hbad
  rw [exec_badAccess_now h a size write v s up run]
  constructor
  · rintro rfl ⟨b, hd, off⟩
    simp only [State.on, Dev.accessNow, if_true, busWrite_bad_offline _ _ _ _ _ _ _ bad warm hap hd off]
  · intro on
    refine ⟨_, rfl, rfl, ?_⟩
    cases write with
    | true =>
      have c := busWrite_bad s.dev h a.toNat size v.toNat 0 bad warm hap mac (fun b hd => on b hd rfl)
      exact ⟨nofun, c.counted, c.words, c.wides, c.ae, c.frames, c.buf, c.loader, c.fuses⟩
    | false =>
      obtain ⟨t, ht, c⟩ := busRead_bad s.dev h a.toNat size none bad warm hap mac
      have c' := c.setHost h { t.host h with readData := 0 }
      simp only [State.on, Dev.accessNow, ht]
      exact ⟨fun _ => by simp, c'.counted, c'.words, c'.wides, c'.ae, c'.frames, c'.buf, c'.loader, c'.fuses⟩

end Sys2Proof.Machine
end

section
/-! COUNTER_LOW_READ: the low word of a counter and its high-word latch (R12). -/
namespace Sys2Proof.Machine

theorem exec_counterLowRead (h : HostNo) (a : Offset) (s : State) :
    exec (.counterLowRead h a) s = .next (s.on (fun d => d.hostGet h a.toNat none)) := rfl

/-- Outside a statistics shadow view every host port sees a counter as it is (R586). -/
theorem Dev.wideView_unshadowed (d : Dev) (h i : Nat) (r : RegInfo) (hv : d.bitOf R.STAT_VIEW h 0 = false) :
    d.wideView (some h) r i = d.wideView none r i := by
  simp [Dev.wideView, hv]

theorem Dev.wideView_lt (d : Dev) (r : RegInfo) (i : Nat) : d.wideView none r i < 2 ^ 64 := by
  simp only [Dev.wideView, Bool.false_eq_true, if_false]
  split
  · exact Nat.mod_lt _ (by decide)
  · exact BitVec.isLt _

/-- A latch is no part of what a 64-bit register reports. -/
theorem Dev.wideView_setLatch (d : Dev) (k key v : Nat) (r : RegInfo) (i : Nat) :
    (d.setLatch k key v).wideView none r i = d.wideView none r i := rfl

/-- Nor are a host port's data. -/
theorem Dev.wideView_setHost (d : Dev) (h : Nat) (p : HostPort) (r : RegInfo) (i : Nat) :
    (d.setHost h p).wideView none r i = d.wideView none r i := rfl

theorem Dev.latch_setLatch_same (d : Dev) (k key v : Nat) (hv : v < 2 ^ 32) : (d.setLatch k key v).latch k key = v := by
  simp only [Dev.latch, Dev.setLatch, SMap.get_set_same, BitVec.toNat_ofNat, Nat.mod_eq_of_lt hv]

theorem Dev.latches_setLatch_ne (d : Dev) (k key v k' : Nat) (hk : k' ≠ k * 2 ^ 40 + key) :
    SMap.get 0 (d.setLatch k key v).regs.latches k' = SMap.get 0 d.regs.latches k' :=
  SMap.get_set_ne _ _ _ _ _ hk

/-- A read of a counter's low word returns it and fills the reader's latch with the high word. -/
theorem Dev.regRead_counter_low (d : Dev) (h i : Nat) (r : RegInfo) (upd : Option Nat) (hm : r ∈ regTable) (hk : r.kind = .counter)
    (hv : d.bitOf R.STAT_VIEW h 0 = false) :
    d.regRead (.host h) r i 0 upd = (((d.counterNow r i).wideView none r i) % 2 ^ 32,
      (d.counterNow r i).setLatch h (r.key i) ((d.counterNow r i).wideView none r i / 2 ^ 32)) := by
  have hv' : (d.counterNow r i).bitOf R.STAT_VIEW h 0 = false := ((d.counterNow_countsOnly r i).bitOf _ _ _).trans hv
  rw [d.regRead_plain _ r i 0 upd (specialReads_kind r hm (.inl hk)), hk]
  simp [Dev.readWide4, RegInfo.latched, hk, Accessor.rights, Accessor.latch, Dev.wideView_unshadowed _ h i r hv']

/-- Settles O42: the read touches the domain and brings the counter up to date, neither of which writes a latch. -/
theorem counterLowReadsFillTheLatch : Obligations.CounterLowReadsFillTheLatch := by
  unfold Obligations.CounterLowReadsFillTheLatch
  intro h a r i b s hl hap h8 hd hr hk run hv n
  have counts := (s.dev.touch_countsOnly b).trans ((s.dev.touch b).counterNow_countsOnly r i)
  have hn : n / 2 ^ 32 < 2 ^ 32 := by
    have : n < 2 ^ 64 := Dev.wideView_lt _ r i
    omega
  rw [exec_counterLowRead]
  refine ⟨_, rfl, rfl, ?_⟩
  rw [State.on_dev, s.dev.hostGet_eq_gotData h _ b i 0 r none hl hap (by omega) hd hr run,
    Dev.regRead_counter_low _ h i r none (resolveIn_mem hr) hk (((s.dev.touch_countsOnly b).bitOf _ _ _).trans hv)]
  refine ⟨?_, ?_, ?_, ?_⟩
  · simp [gotData, n]
  · exact Dev.latch_setLatch_same _ h _ _ hn
  · intro k hk
    rw [← counts.latches]
    exact Dev.latches_setLatch_ne _ h _ _ k hk
  · exact (Dev.wideView_setHost _ h _ r i).trans (Dev.wideView_setLatch _ h _ _ r i)

end Sys2Proof.Machine
end

section
/-! REGISTER_WRITE, RC_READ and STOPPED_DOMAIN_ACCESS: what an access does by the register's access type (R9, R40, R505 to R507). -/
namespace Sys2Proof.Machine

theorem exec_registerWrite (h : HostNo) (a : Offset) (v hw : Word) (s : State) :
    exec (.registerWrite h a v hw) s = .next (s.on (fun d => d.hostPut h a.toNat v.toNat hw.toNat)) := rfl

theorem exec_rcRead (h : HostNo) (a : Offset) (upd : Option Word) (s : State) :
    exec (.rcRead h a upd) s = .next (s.on (fun d => d.hostGet h a.toNat (upd.map BitVec.toNat))) := rfl

/-! ## Words -/

theorem Dev.rd_lt (d : Dev) (r : RegInfo) (i : Nat) : d.rd r i < 2 ^ 32 := BitVec.isLt _

theorem Dev.rd_wr_mod (d : Dev) (r : RegInfo) (i v : Nat) : (d.wr r i v).rd r i = v % 2 ^ 32 := by
  simp only [Dev.rd, Dev.wr, SMap.get_set_same, BitVec.xor_assoc, BitVec.xor_self, BitVec.xor_zero, BitVec.toNat_ofNat]

theorem Dev.words_wr_ne (d : Dev) (r : RegInfo) (i v k : Nat) (hk : k ≠ r.key i) :
    SMap.get 0 (d.wr r i v).regs.words k = SMap.get 0 d.regs.words k :=
  SMap.get_set_ne _ _ _ _ _ hk

theorem fld_one (n k : Nat) : fld n k 1 = (n.testBit k).toNat := (Nat.toNat_testBit n k).symm

theorem fld_one_eq_one (n k : Nat) : fld n k 1 = 1 ↔ n.testBit k = true := by
  rw [fld_one]
  cases n.testBit k <;> decide

theorem testBit_word (k : Nat) (hk : k < 32) : Nat.testBit 0xFFFFFFFF k = true :=
  (Nat.testBit_two_pow_sub_one 32 k).trans (decide_eq_true hk)

/-! ## Companion counts (R506) -/

theorem Dev.companions_bump (d : Dev) (r : RegInfo) (i b k : Nat) :
    SMap.get 0 (d.bump r i b).regs.companions (r.key i * 32 + k)
      = SMap.get 0 d.regs.companions (r.key i * 32 + k) + if k = b then 1 else 0 := by
  by_cases hk : k = b
  · subst hk
    simp [Dev.bump]
  · have : r.key i * 32 + k ≠ r.key i * 32 + b := by omega
    simp [Dev.bump, SMap.get_set_ne _ _ _ _ _ this, hk]

theorem forN_succ (n : Nat) (f : Nat → Dev → Dev) (d : Dev) : forN (n + 1) f d = f n (forN n f d) := by
  simp [forN, List.range_succ]

/-- The companion counts of the bits below `n` of a mask each gain 1. -/
theorem companions_forN_bump (r : RegInfo) (i m k : Nat) (d : Dev) : ∀ n,
    SMap.get 0 (forN n (fun b d => if fld m b 1 = 1 then d.bump r i b else d) d).regs.companions (r.key i * 32 + k)
      = SMap.get 0 d.regs.companions (r.key i * 32 + k) + if k < n ∧ fld m k 1 = 1 then 1 else 0 := by
  intro n
  induction n with
  | zero => simp [forN]
  | succ n ih =>
    have below : k ≠ n → (k < n + 1 ↔ k < n) := by omega
    simp only [forN_succ]
    split
    next hm =>
      rw [Dev.companions_bump, ih]
      by_cases hk : k = n
      · simp [hk, hm]
      · simp [hk, below hk]
    next hm =>
      rw [ih]
      by_cases hk : k = n
      · simp [hk, hm]
      · simp [below hk]

theorem Dev.companions_bumpAll (d : Dev) (r : RegInfo) (i m k : Nat) (hk : k < 32) (hm : fld m k 1 = 1) :
    SMap.get 0 (d.bumpAll r i m).regs.companions (r.key i * 32 + k) = SMap.get 0 d.regs.companions (r.key i * 32 + k) + 1 :=
  (companions_forN_bump r i m k d 32).trans (by rw [if_pos ⟨hk, hm⟩])

/-! ## A write of a W1C register (R505, R506) -/

/-- What the register holds after a write of `v` while hardware sets `hw`: a set wins over a clear. -/
def w1cAfter (m old v hw : Nat) : Nat := (old &&& ((v &&& m) ^^^ 0xFFFFFFFF)) ||| (hw &&& m)

theorem w1cAfter_lt (m old v hw : Nat) (ho : old < 2 ^ 32) (hh : hw < 2 ^ 32) : w1cAfter m old v hw < 2 ^ 32 :=
  Nat.or_lt_two_pow (Nat.lt_of_le_of_lt Nat.and_le_left ho) (Nat.lt_of_le_of_lt Nat.and_le_left hh)

/-- Of a bit that exists: 1 where hardware sets it, else 0 where a 1 is written, else what it was. -/
theorem fld_w1cAfter (m old v hw k : Nat) (hk : k < 32) (hm : fld m k 1 = 1) :
    fld (w1cAfter m old v hw) k 1 = if fld hw k 1 = 1 then 1 else if fld v k 1 = 1 then 0 else fld old k 1 := by
  rw [fld_one_eq_one] at hm
  rw [fld_one (w1cAfter m old v hw), fld_one old]
  simp only [fld_one_eq_one, w1cAfter, Nat.testBit_or, Nat.testBit_and, Nat.testBit_xor, testBit_word k hk, hm]
  cases hw.testBit k <;> cases v.testBit k <;> simp

/-- The written bits that hardware sets as well. -/
theorem and_masked (v hw m : Nat) : (v &&& m) &&& (hw &&& m) = v &&& hw &&& m := by
  apply Nat.eq_of_testBit_eq
  intro k
  simp only [Nat.testBit_and]
  cases m.testBit k <;> simp

/-- The register bank after a write of a W1C register by a host port: the register, the companion counts, and one collision. -/
theorem Dev.w1cWrite_regs (d : Dev) (h i v hw : Nat) (r : RegInfo) :
    let x := (d.wr r i (w1cAfter r.mask (d.rd r i) v hw)).bumpAll r i (hw &&& r.mask)
    (d.w1cWrite (.host h) r i v hw).regs = (if v &&& hw &&& r.mask = 0 then x else x.inc R.HPL_W1C_COLLISIONS h 1).regs := by
  simp only [Dev.w1cWrite, and_masked, w1cAfter, Accessor.rights]
  split
  · rfl
  · exact Dev.postFlag_regs _ _ _ _ _ _

theorem Dev.w1cWrite_words (d : Dev) (h i v hw : Nat) (r : RegInfo) :
    (d.w1cWrite (.host h) r i v hw).regs.words = (d.wr r i (w1cAfter r.mask (d.rd r i) v hw)).regs.words := by
  rw [Dev.w1cWrite_regs]
  split
  · exact Dev.bumpAll_words _ _ _ _
  · exact Dev.bumpAll_words _ _ _ _

theorem Dev.rd_w1cWrite (d : Dev) (h i v hw : Nat) (r : RegInfo) (hh : hw < 2 ^ 32) :
    (d.w1cWrite (.host h) r i v hw).rd r i = w1cAfter r.mask (d.rd r i) v hw := by
  have e := d.rd_wr_same r i _ (w1cAfter_lt r.mask _ v hw (d.rd_lt r i) hh)
  simp only [Dev.rd, Dev.w1cWrite_words] at e ⊢
  exact e

theorem Dev.companions_w1cWrite (d : Dev) (h i v hw k : Nat) (r : RegInfo) (hk : k < 32) (hm : fld (hw &&& r.mask) k 1 = 1) :
    SMap.get 0 (d.w1cWrite (.host h) r i v hw).regs.companions (r.key i * 32 + k)
      = SMap.get 0 d.regs.companions (r.key i * 32 + k) + 1 := by
  have e := (d.wr r i (w1cAfter r.mask (d.rd r i) v hw)).companions_bumpAll r i (hw &&& r.mask) k hk hm
  rw [Dev.w1cWrite_regs]
  split
  · exact e
  · exact e

/-- A write in which a set wins over a clear counts one collision of the host port, however many bits collide (DEDUCED, log 60). -/
theorem Dev.rd64_collisions_w1cWrite (d : Dev) (h i v hw : Nat) (r : RegInfo) :
    (d.w1cWrite (.host h) r i v hw).rd64 R.HPL_W1C_COLLISIONS h
      = if v &&& hw &&& r.mask = 0 then d.rd64 R.HPL_W1C_COLLISIONS h else (d.rd64 R.HPL_W1C_COLLISIONS h + 1) % 2 ^ 64 := by
  have e : ∀ x y : Dev, x.regs = y.regs → x.rd64 R.HPL_W1C_COLLISIONS h = y.rd64 R.HPL_W1C_COLLISIONS h :=
    fun x y hxy => by simp only [Dev.rd64, hxy]
  have same : ((d.wr r i (w1cAfter r.mask (d.rd r i) v hw)).bumpAll r i (hw &&& r.mask)).rd64 R.HPL_W1C_COLLISIONS h
      = d.rd64 R.HPL_W1C_COLLISIONS h := by
    simp only [Dev.rd64, Dev.bumpAll_wides]
    rfl
  rw [e _ _ (d.w1cWrite_regs h i v hw r)]
  split
  · exact same
  · rw [Dev.rd64_inc_mod, same]

/-! ## By access type (R9) -/

/-- A write to element `i` of `r` by host port `h` starts nothing: it does what its access type says. -/
def Dev.startsNothing (d : Dev) (h : Nat) (r : RegInfo) (v : Nat) : Prop :=
  effectIn r.id effects = none ∧ ∀ i o, d.rightsWrite (.host h) r i o v = none

theorem Dev.regWrite_plain (d : Dev) (h i o v hw : Nat) (r : RegInfo) (hp : d.startsNothing h r v) :
    (d.regWrite (.host h) r i o v hw).2 = match r.kind with
      | .rw => d.wr r i ((d.rd r i &&& (r.mask ^^^ 0xFFFFFFFF)) ||| (v &&& r.mask))
      | .w1c => d.w1cWrite (.host h) r i v hw
      | .rw64 => d.wideWord r i o v
      | _ => d := by
  obtain ⟨he, hr⟩ := hp
  simp only [Dev.regWrite, he, hr i o]
  cases r.kind <;> rfl

/-- A read of an RC register that is no FIFO returns it; it then holds what hardware updates it to, or restarts. -/
theorem Dev.regRead_rc (d : Dev) (h i o : Nat) (r : RegInfo) (upd : Option Nat) (hm : r ∈ regTable) (hk : r.kind = .rc)
    (h1 : r.id ≠ R.LP_TSFIFO_W0.id) (h2 : r.id ≠ R.ERR_LOG_W0.id) (h3 : r.id ≠ R.PMS_W0.id) :
    d.regRead (.host h) r i o upd = (d.rd r i, d.wr r i (upd.getD (d.restartAt r i) &&& r.mask)) := by
  rw [d.regRead_plain _ r i o upd (specialReads_kind r hm (.inr hk)), hk]
  simp only [Dev.readClear, h1, h2, h3, if_false]

/-- An access of a linked host port to a stopped domain waits in the register bridge (R40). -/
theorem Dev.hostAccess_stopped (d : Dev) (h : Nat) (x : Access) (p : Stopped) (hx : x.who = .host h) (up : (d.host h).up = true)
    (wait : d.waitsFor (.host h) x.addr = some p) : d.hostAccess x = { d.askStart p with bridge := d.bridge ++ [x] } := by
  simp [Dev.hostAccess, hx, up, wait]

/-- Settles O43: by the access type of the register, once the access has reached its running domain. -/
theorem registersFollowTheirAccessType : Obligations.RegistersFollowTheirAccessType := by
  unfold Obligations.RegistersFollowTheirAccessType
  intro h a v hw b s hl hap h4 hd hset d plain
  refine ⟨?running, ?offline, ?stopped⟩
  case running =>
    intro r i o hr run on
    have put : plain r → exec (.registerWrite h a v hw) s
        = .next (s.on (fun _ => (d.regWrite (.host h) r i o v.toNat hw.toNat).2)) := by
      intro hp
      rw [exec_registerWrite]
      simp only [State.on, s.dev.hostPut_eq h _ b _ _ i o r hl hap h4 hd hset hr run on, Nat.mod_eq_of_lt v.isLt, d]
    refine ⟨?rw, ?ro, ?w1c, ?rc⟩
    case rw =>
      intro hk hp
      rw [put hp, d.regWrite_plain h i o _ _ r hp, hk]
      refine ⟨_, rfl, rfl, d.rd_wr_same r i _ ?_, fun k hne => d.words_wr_ne r i _ k hne, rfl⟩
      exact Nat.or_lt_two_pow (Nat.lt_of_le_of_lt Nat.and_le_left (d.rd_lt r i)) (Nat.lt_of_le_of_lt Nat.and_le_left v.isLt)
    case ro =>
      intro hk hp
      rw [put hp, d.regWrite_plain h i o _ _ r hp]
      rcases hk with hk | hk | hk | hk
      all_goals
        rw [hk]
        rfl
    case w1c =>
      intro hk hp
      rw [put hp, d.regWrite_plain h i o _ _ r hp, hk]
      refine ⟨_, rfl, rfl, ?bits, ?companions, ?others, d.rd64_collisions_w1cWrite h i v.toNat hw.toNat r⟩
      case bits =>
        intro k hk hm
        rw [State.on_dev, d.rd_w1cWrite h i _ _ r hw.isLt]
        exact fld_w1cAfter _ _ _ _ k hk hm
      case companions =>
        intro k hk hm hs
        refine d.companions_w1cWrite h i _ _ k r hk ?_
        rw [fld_one_eq_one] at hm hs ⊢
        rw [Nat.testBit_and, hs, hm, Bool.and_self]
      case others =>
        intro k hne
        rw [State.on_dev, d.w1cWrite_words]
        exact d.words_wr_ne r i _ k hne
    case rc =>
      intro hk h1 h2 h3 upd
      rw [exec_rcRead]
      refine ⟨_, rfl, rfl, ?_⟩
      rw [State.on_dev, s.dev.hostGet_eq_gotData h _ b i o r _ hl hap h4 hd hr run,
        Dev.regRead_rc _ h i o r _ (resolveIn_mem hr) hk h1 h2 h3]
      exact ⟨by simp [gotData, d], d.rd_wr_mod r i _, fun k hne => d.words_wr_ne r i _ k hne⟩
  case offline =>
    intro r i o hr off hid
    rw [exec_registerWrite]
    simp only [State.on, s.dev.hostPut_offline h _ b _ _ i o r hl hap h4 hd hr off hid]
  case stopped =>
    intro p write wait
    exact congrArg (fun d => (.next { s with dev := d } : Answer)) (s.dev.hostAccess_stopped h
      { who := .host h, addr := a.toNat, write := write, size := 4, value := v.toNat, hwSet := 0, upd := none } p rfl hl.1
      ((s.dev.waitsFor_host h _ b hd).trans wait))

end Sys2Proof.Machine
end

section
/-! DROP_REM: the frame in progress on a sub-port, cut short at its hopper (R151, R152). -/
namespace Sys2Proof.Machine

/-! ## What counting and reporting leave of the forwarding state -/

/-- `d'` has the frames, the hoppers and the slot arbiters of `d`. -/
structure Dev.SameForwarding (d d' : Dev) : Prop where
  frames : d'.frames = d.frames
  hoppers : d'.hoppers = d.hoppers
  isas : d'.isas = d.isas

theorem Dev.SameForwarding.trans {d d' d'' : Dev} (e : d.SameForwarding d') (e' : d'.SameForwarding d'') : d.SameForwarding d'' :=
  ⟨e'.frames.trans e.frames, e'.hoppers.trans e.hoppers, e'.isas.trans e.isas⟩

theorem Dev.SameForwarding.frame {d d' : Dev} (e : d.SameForwarding d') (fid : Nat) : d'.frame fid = d.frame fid := by
  simp only [Dev.frame, e.frames]

theorem Dev.SameForwarding.hop {d d' : Dev} (e : d.SameForwarding d') (q : Nat) : d'.hop q = d.hop q := by
  simp only [Dev.hop, e.hoppers]

theorem Dev.SameForwarding.isa {d d' : Dev} (e : d.SameForwarding d') (p : Nat) : d'.isa p = d.isa p := by
  simp only [Dev.isa, e.isas]

theorem Dev.raiseBit_forwarding (d : Dev) (r : RegInfo) (i b : Nat) : d.SameForwarding (d.raiseBit r i b) := by
  obtain ⟨regs, q, e⟩ := d.raise_frame r i (2 ^ b)
  rw [Dev.raiseBit, e]
  exact ⟨rfl, rfl, rfl⟩

/-- An event of a slice reaches its performance counters alone. -/
theorem Dev.pmc_forwarding (d : Dev) (s ev unit n : Nat) : d.SameForwarding (d.pmc s ev unit n) := by
  unfold Dev.pmc Dev.pmcIn
  split
  · exact ⟨rfl, rfl, rfl⟩
  · refine forN_keep d.SameForwarding 32 _ ?_ d ⟨rfl, rfl, rfl⟩
    intro k x e
    simp only
    split
    · exact e.trans ⟨rfl, rfl, rfl⟩
    · exact e

theorem Dev.rd64_inc_ne (d : Dev) (r r' : RegInfo) (i i' n : Nat) (hk : r'.key i' ≠ r.key i) : (d.inc r i n).rd64 r' i' = d.rd64 r' i' :=
  d.rd64_wr64_ne r r' i i' _ hk

theorem Dev.rd64_pmc (d : Dev) (s ev unit n : Nat) (r : RegInfo) (i : Nat) (hk : ∀ j, r.key i ≠ R.PMC.key j) :
    (d.pmc s ev unit n).rd64 r i = d.rd64 r i := by
  unfold Dev.pmc Dev.pmcIn
  split
  · rfl
  · refine forN_keep (fun x => x.rd64 r i = d.rd64 r i) 32 _ ?_ d rfl
    intro k x e
    simp only
    split
    · exact (x.rd64_inc_ne _ _ _ _ n (hk _)).trans e
    · exact e

/-- A hopper's count of drop-remainders is no performance counter. -/
theorem key_HOP_DROPREM_FRAMES_ne (q : HopperNo) (j : Nat) : R.HOP_DROPREM_FRAMES.key q ≠ R.PMC.key j := by
  simp only [RegInfo.key, R.HOP_DROPREM_FRAMES, R.PMC]
  omega

/-- A drop-remainder counts once and raises DROPREM_DONE (R152), which moves no frame. -/
theorem Dev.dropRem_counted (d : Dev) (q : Nat) :
    d.SameForwarding ((d.inc R.HOP_DROPREM_FRAMES q 1).raiseBit R.HOP_EVENTS q 3)
    ∧ ((d.inc R.HOP_DROPREM_FRAMES q 1).raiseBit R.HOP_EVENTS q 3).rd64 R.HOP_DROPREM_FRAMES q
      = (d.rd64 R.HOP_DROPREM_FRAMES q + 1) % 2 ^ 64 :=
  have counted : d.SameForwarding (d.inc R.HOP_DROPREM_FRAMES q 1) := ⟨rfl, rfl, rfl⟩
  ⟨counted.trans (Dev.raiseBit_forwarding _ _ _ _), (Dev.rd64_raise _ _ _ _ _ _).trans (d.rd64_inc_mod _ _ _)⟩

/-! ## The deferred byte counts of a frame while no memory is in error -/

/-- No location of a memory is wrong or poisoned and no injection waits: what reads and writes of the memories look at. -/
def Dev.memClean (d : Dev) : Prop := d.errs.upsets = [] ∧ d.errs.poisoned = [] ∧ d.errs.armed = false

theorem Dev.memCheck_clean (d : Dev) (c : d.memClean) (cls unit loc : Nat) : d.memCheck cls unit loc = (false, d) := by
  simp [Dev.memCheck, c.1]

theorem Dev.memWritten_clean (d : Dev) (c : d.memClean) (cls unit loc : Nat) : d.memWritten cls unit loc = d := by
  obtain ⟨hu, hp, ha⟩ := c
  have same : { d.errs with upsets := [], poisoned := [] } = d.errs := by rw [← hu, ← hp]
  simp only [Dev.memWritten, hu, hp, List.filter_nil]
  rw [if_neg (by simp [ha])]
  exact congrArg (fun e => { d with errs := e }) same

theorem Dev.stageTouch_clean (d : Dev) (c : d.memClean) (egress : Bool) (s p n loc : Nat) : d.stageTouch egress s p n loc = d := by
  rw [Dev.stageTouch, d.memCheck_clean c, d.memWritten_clean c]

/-- Settling deferred counts writes the byte counters of stages alone. -/
theorem Dev.settle_clean (xs : List Deferred) (n : Nat) : ∀ d : Dev, d.memClean → ∃ b, d.settle xs n = { d with stageBytes := b } := by
  induction xs with
  | nil => exact fun d _ => ⟨d.stageBytes, rfl⟩
  | cons x xs ih =>
    intro d c
    obtain ⟨b, e⟩ := ih (d.addStageBytes x n) c
    refine ⟨b, ?_⟩
    rw [Dev.settle, List.foldl_cons, d.stageTouch_clean c]
    exact e

/-- Removing a frame's tag changes the counts of live tags alone. -/
theorem Dev.frameTagDown_frame (d : Dev) (f : Frame) : ∃ e v, d.frameTagDown f = { d with epochs := e, vers := v } := by
  unfold Dev.frameTagDown
  split
  · exact ⟨_, _, rfl⟩
  · exact ⟨d.epochs, d.vers, rfl⟩

/-! ## A frame that ends while its bytes still come in -/

/-- What a hopper keeps when frame `fid` leaves it: the frame's segments, its reservation and its place in the order are free. -/
def Hopper.without (hop : Hopper) (fid : Nat) (f : Frame) : Hopper :=
  { hop with fill := hop.fill - f.held, resv := hop.resv - f.resv, order := hop.order.filter (· ≠ fid) }

/-- The device with frame `fid` out of its hopper, and what is still to come of it to be discarded. -/
def Dev.cutFrame (d : Dev) (fid : Nat) (f : Frame) : Dev :=
  (d.modHop (hopOf f.lport) (·.without fid f)).setFrame fid f.remnant

@[simp] theorem Dev.frame_cutFrame (d : Dev) (fid : Nat) (f : Frame) : (d.cutFrame fid f).frame fid = some f.remnant :=
  Dev.frame_setFrame _ _ _

@[simp] theorem Dev.hop_cutFrame (d : Dev) (fid : Nat) (f : Frame) :
    (d.cutFrame fid f).hop (hopOf f.lport) = (d.hop (hopOf f.lport)).without fid f :=
  Dev.hop_setHop _ _ _

@[simp] theorem Dev.isa_cutFrame (d : Dev) (fid : Nat) (f : Frame) (p : Nat) : (d.cutFrame fid f).isa p = d.isa p := rfl

section
variable {d : Dev} {fid : Nat} {f : Frame} (c : d.memClean) (hf : d.frame fid = some f) (port : f.src = .port) (part : f.whole = false)
include c hf port part

/-- Such a frame leaves its hopper with its counts settled; no register is written. -/
theorem Dev.endFrame_part : (d.cutFrame fid f).SameForwarding (d.endFrame fid) ∧ (d.endFrame fid).regs = d.regs := by
  obtain ⟨b, settled⟩ := Dev.settle_clean f.deferred f.atInput d c
  obtain ⟨e, v, untagged⟩ := Dev.frameTagDown_frame { d with stageBytes := b } f
  simp only [Dev.endFrame, hf, port, part, settled, untagged, if_true, Bool.false_eq_true, if_false]
  exact ⟨⟨rfl, rfl, rfl⟩, rfl⟩

/-- A drop-remainder of such a frame ends it and counts once. -/
theorem Dev.dropRem_part : (d.cutFrame fid f).SameForwarding (d.dropRem fid)
    ∧ (d.dropRem fid).rd64 R.HOP_DROPREM_FRAMES (hopOf f.lport) = (d.rd64 R.HOP_DROPREM_FRAMES (hopOf f.lport) + 1) % 2 ^ 64 := by
  obtain ⟨ended, regs⟩ := Dev.endFrame_part c hf port part
  obtain ⟨same, count⟩ := (d.endFrame fid).dropRem_counted (hopOf f.lport)
  have before : (d.endFrame fid).rd64 R.HOP_DROPREM_FRAMES (hopOf f.lport) = d.rd64 R.HOP_DROPREM_FRAMES (hopOf f.lport) := by
    simp only [Dev.rd64, regs]
  rw [before] at count
  simp only [Dev.dropRem, hf, port, if_true]
  exact ⟨ended.trans same, count⟩

end

/-! ## The software drop-remainder, by how far the frame is -/

/-- What a drop-remainder leaves of a released frame: no byte is still to come, and it ends bad (R152). -/
def Frame.stomped (f : Frame) : Frame := { f with mac := [], whole := true, resv := 0, bad := if f.bad = 0 then 4 else f.bad }

/-- The device with frame `fid` ended so, a frame of its own being discarded in its place on the sub-port. -/
def Dev.stompFrame (d : Dev) (q sub fid : Nat) (f : Frame) : Dev :=
  let x := d.modHop q (fun h => { h with resv := h.resv - f.resv, inProg := SMap.set 0 h.inProg sub (d.nextFid + 1) })
  { x.setFrame d.nextFid f.remnant with nextFid := d.nextFid + 1 }.setFrame fid f.stomped

@[simp] theorem Dev.frame_stompFrame (d : Dev) (q sub fid : Nat) (f : Frame) : (d.stompFrame q sub fid f).frame fid = some f.stomped :=
  Dev.frame_setFrame _ _ _

@[simp] theorem Dev.hop_stompFrame (d : Dev) (q sub fid : Nat) (f : Frame) : (d.stompFrame q sub fid f).hop q
    = { d.hop q with resv := (d.hop q).resv - f.resv, inProg := SMap.set 0 (d.hop q).inProg sub (d.nextFid + 1) } :=
  Dev.hop_setHop _ _ _

/-- The frame has a lane of its pipeline: granted and not yet parsed, or in the ingress stages. -/
def Frame.hasLane (f : Frame) : Prop := ∃ n, f.place = .granted n ∨ f.place = .ingress n

section
variable {d : Dev} {q sub fid : Nat} {f : Frame} (prog : SMap.get 0 (d.hop q).inProg sub = fid + 1) (hf : d.frame fid = some f)
include prog hf

theorem Dev.swDropRem_dropping (drop : f.dropping = true) : d.swDropRem q sub = d := by
  simp [Dev.swDropRem, prog, hf, drop]

/-- A released frame ends bad; its hopper counts one drop-remainder and has its reservation back. -/
theorem Dev.swDropRem_released (keep : f.dropping = false) (rel : f.released = true) :
    (d.stompFrame q sub fid f).SameForwarding (d.swDropRem q sub)
    ∧ (d.swDropRem q sub).rd64 R.HOP_DROPREM_FRAMES q = (d.rd64 R.HOP_DROPREM_FRAMES q + 1) % 2 ^ 64 := by
  have e : d.swDropRem q sub
      = ((d.stompFrame q sub fid f).inc R.HOP_DROPREM_FRAMES q 1).raiseBit R.HOP_EVENTS q 3 := by
    simp only [Dev.swDropRem, prog, hf, if_neg (Bool.eq_false_iff.mp keep), if_pos rel]
    rfl
  rw [e]
  exact (d.stompFrame q sub fid f).dropRem_counted q

theorem Dev.swDropRem_held_lane (keep : f.dropping = false) (rel : f.released = false) (lane : f.hasLane) :
    let x := d.dropRem fid
    let p := f.slice * 4 + f.pipe
    d.swDropRem q sub
      = (x.setIsa p { x.isa p with granted := (x.isa p).granted.filter (· ≠ fid) }).pmc f.slice 0x011 f.pipe 1 := by
  obtain ⟨n, place | place⟩ := lane
  all_goals simp [Dev.swDropRem, prog, hf, keep, rel, place]

theorem Dev.swDropRem_held_noLane (keep : f.dropping = false) (rel : f.released = false) (lane : ¬ f.hasLane) :
    d.swDropRem q sub = d.dropRem fid := by
  simp only [Dev.swDropRem, prog, hf, keep, rel, Bool.false_eq_true, if_false]
  split
  next place => exact absurd ⟨_, .inl place⟩ lane
  next place => exact absurd ⟨_, .inr place⟩ lane
  next => rfl

/-- A frame still held is cut and counted; what it had of a lane is taken from it. -/
theorem Dev.swDropRem_held (c : d.memClean) (port : f.src = .port) (part : f.whole = false) (at_q : hopOf f.lport = q)
    (notPmc : ∀ j, R.HOP_DROPREM_FRAMES.key q ≠ R.PMC.key j) (keep : f.dropping = false) (rel : f.released = false) :
    (d.swDropRem q sub).hop q = (d.hop q).without fid f ∧ (d.swDropRem q sub).frame fid = some f.remnant
    ∧ (f.hasLane → ((d.swDropRem q sub).isa (f.slice * 4 + f.pipe)).granted = (d.isa (f.slice * 4 + f.pipe)).granted.filter (· ≠ fid))
    ∧ (d.swDropRem q sub).rd64 R.HOP_DROPREM_FRAMES q = (d.rd64 R.HOP_DROPREM_FRAMES q + 1) % 2 ^ 64 := by
  obtain ⟨cut, count⟩ := Dev.dropRem_part c hf port part
  have hop := (cut.hop (hopOf f.lport)).trans (d.hop_cutFrame fid f)
  have frame := (cut.frame fid).trans (d.frame_cutFrame fid f)
  rw [at_q] at count hop
  by_cases lane : f.hasLane
  · rw [Dev.swDropRem_held_lane prog hf keep rel lane]
    have same := fun y : Dev => y.pmc_forwarding f.slice 0x011 f.pipe 1
    refine ⟨((same _).hop q).trans hop, ((same _).frame fid).trans frame, fun _ => ?_, (Dev.rd64_pmc _ _ _ _ _ _ _ notPmc).trans count⟩
    rw [(same _).isa, Dev.isa_setIsa, cut.isa, Dev.isa_cutFrame]
  · rw [Dev.swDropRem_held_noLane prog hf keep rel lane]
    exact ⟨hop, frame, fun yes => absurd yes lane, count⟩

end

/-! ## The row -/

theorem Dev.wake_errs (d : Dev) (s : Nat) : (d.wake s).errs = d.errs := by
  simp only [Dev.wake]
  split <;> rfl

/-- DROP_REM of a linked host port on a hopper of a running slice, with the link edge behind it. -/
theorem exec_dropRem_running (h : HostNo) (k : HopperNo) (sub : Fin 8) (s : State) (hl : s.linked h)
    (run : (s.dev.slc (k / 8)).st = .run) : exec (.dropRem h k sub) s
      = .next { s with dev := ((s.dev.wake (k / 8)).swDropRem k sub).pumpIn (k / 8) (k % 8 / 2) } := by
  have op : fld ((0x100 + sub.val) % 2 ^ 32) 8 1 = 1 ∧ (0x100 + sub.val) % 2 ^ 32 % 8 = sub := by revert sub; decide
  have cmd := s.dev.hostReg_HOP_CMD h (0x100 + sub) k hl run
  rw [Dev.hopCmd, if_pos op.1, op.2] at cmd
  exact congrArg (fun d => (.next { s with dev := d } : Answer)) cmd

/-- Settles O19: by whether the frame is being discarded, has been released or is still held. -/
theorem dropRemCutsTheFrameInProgress : Obligations.DropRemCutsTheFrameInProgress := by
  unfold Obligations.DropRemCutsTheFrameInProgress
  rintro h k sub fid f s hl run ⟨hu, hp, ha, -⟩ d hop prog hf port at_k part _ _
  have c : d.memClean := by
    rw [Dev.memClean, Dev.wake_errs]
    exact ⟨hu, hp, ha⟩
  rw [exec_dropRem_running h k sub s hl run]
  refine ⟨fun drop => by rw [Dev.swDropRem_dropping prog hf drop], fun keep => ⟨d.swDropRem k sub, rfl, ?_⟩⟩
  by_cases rel : f.released = true
  · obtain ⟨same, count⟩ := Dev.swDropRem_released prog hf keep rel
    have left := (same.hop k).trans (d.hop_stompFrame k sub fid f)
    have ended := (same.frame fid).trans (d.frame_stompFrame k sub fid f)
    refine ⟨count, fun held => absurd rel (Bool.eq_false_iff.mp held), fun _ _ => ?_⟩
    rw [left]
    exact ⟨rfl, rfl, ended⟩
  · have held := Bool.eq_false_iff.mpr rel
    obtain ⟨left, cut, lane, count⟩ := Dev.swDropRem_held prog hf c port part at_k (key_HOP_DROPREM_FRAMES_ne k) keep held
    exact ⟨count, fun _ => ⟨left, cut, rfl, rfl, lane⟩, fun yes => absurd yes rel⟩

end Sys2Proof.Machine
end

section
/-! DEPARSE and COUNT_BYTES_DEFERRED: the head that leaves a pipeline (R273, R276), and byte counts that wait for a length (R644). -/
namespace Sys2Proof.Machine

/-! ## The head put together, by input position (R276 step 2) -/

/-- The bytes that the edits put in before input byte `p`, in the order of the edits. -/
def pushed (es : List Edit) (p : Nat) : List Byte := (pushesAt es p).flatMap (·.2)

/-- What becomes of the input bytes that stand from position `n` on. -/
def edited (es : List Edit) (n : Nat) : List Byte → List Byte
  | [] => pushed es n
  | b :: bs => pushed es n ++ (if popped es n then [] else [b]) ++ edited es (n + 1) bs

/-- The step of `build` for one input byte. -/
def Built.step (es : List Edit) (b : Built) (x : Byte × Nat) : Built :=
  let b := b.insert es x.2
  let b := { b with places := b.places ++ [b.out.length] }
  if popped es x.2 then b else { b with out := b.out ++ [x.1] }

@[simp] theorem Built.insert_out (b : Built) (es : List Edit) (p : Nat) : (b.insert es p).out = b.out ++ pushed es p := by
  unfold Built.insert pushed
  generalize pushesAt es p = xs
  induction xs generalizing b with
  | nil => simp
  | cons x xs ih => simp [ih]

@[simp] theorem Built.step_out (es : List Edit) (b : Built) (x : Byte × Nat) :
    (b.step es x).out = b.out ++ (pushed es x.2 ++ if popped es x.2 then [] else [x.1]) := by
  unfold Built.step
  split <;> simp

theorem Built.foldl_step_out (es : List Edit) (xs : List Byte) (n : Nat) (b : Built) :
    (((xs.zipIdx n).foldl (Built.step es) b).insert es (n + xs.length)).out = b.out ++ edited es n xs := by
  induction xs generalizing n b with
  | nil => simp [edited]
  | cons x xs ih =>
    have next := ih (n + 1) (b.step es (x, n))
    rw [show n + 1 + xs.length = n + (x :: xs).length by simp; omega] at next
    rw [List.zipIdx_cons, List.foldl_cons, next]
    simp [edited]

theorem build_out (es : List Edit) (head : List Byte) : (build es head).out = edited es 0 head := by
  have whole := Built.foldl_step_out es head 0 {}
  rw [Nat.zero_add] at whole
  exact whole

/-- Bytes among which nothing is put in stay, or go, together. -/
theorem edited_append (es : List Edit) (gone : Bool) (xs ys : List Byte) (n : Nat)
    (span : ∀ k, n ≤ k → k < n + xs.length → pushed es k = [] ∧ popped es k = gone) :
    edited es n (xs ++ ys) = (if gone then [] else xs) ++ edited es (n + xs.length) ys := by
  induction xs generalizing n with
  | nil => simp
  | cons x xs ih =>
    rw [List.length_cons] at span ⊢
    obtain ⟨noPush, fate⟩ := span n (Nat.le_refl n) (by omega)
    have rest := ih (n + 1) (fun k lo hi => span k (by omega) (by omega))
    rw [Nat.add_right_comm, Nat.add_assoc] at rest
    rw [List.cons_append, edited, noPush, fate, rest]
    cases gone <;> rfl

/-- Bytes past the last edit stay. -/
theorem edited_last (es : List Edit) (ys : List Byte) (n : Nat) (keep : ∀ k, n ≤ k → popped es k = false)
    (noPush : ∀ k, n < k → pushed es k = []) : edited es n ys = pushed es n ++ ys := by
  induction ys generalizing n with
  | nil => simp [edited]
  | cons y ys ih =>
    have rest := ih (n + 1) (fun k lo => keep k (by omega)) (fun k lo => noPush k (by omega))
    rw [edited, rest, keep n (Nat.le_refl n), noPush (n + 1) (Nat.lt_succ_self n)]
    simp

/-! ## No edit, one PUSH, one POP (R273) -/

theorem edited_noEdit (head : List Byte) : edited [] 0 head = head :=
  edited_last [] head 0 (fun _ _ => rfl) (fun _ _ => rfl)

theorem pushed_push (p : Nat) (bs : List Byte) (k : Nat) : pushed [.push p bs] k = if p = k then bs else [] := by
  by_cases at_k : p = k <;> simp [pushed, pushesAt, at_k]

theorem popped_pop (p len k : Nat) : popped [.pop p len] k = decide (p ≤ k ∧ k < p + len) := by
  simp [popped]

theorem edited_push (p : Nat) (bs head : List Byte) (inside : p ≤ head.length) :
    edited [.push p bs] 0 head = head.take p ++ bs ++ head.drop p := by
  have len : (head.take p).length = p := List.length_take_of_le inside
  have before := edited_append [.push p bs] false (head.take p) (head.drop p) 0
    (fun k _ hi => ⟨by rw [pushed_push, if_neg (by omega)], rfl⟩)
  have after := edited_last [.push p bs] (head.drop p) p (fun _ _ => rfl)
    (fun k lo => by rw [pushed_push, if_neg (by omega)])
  rw [List.take_append_drop, len, Nat.zero_add, after, pushed_push, if_pos rfl] at before
  simpa using before

theorem edited_pop (p len : Nat) (head : List Byte) (inside : p + len ≤ head.length) :
    edited [.pop p len] 0 head = head.take p ++ head.drop (p + len) := by
  have noPush : ∀ k, pushed [.pop p len] k = [] := fun _ => rfl
  have len_before : (head.take p).length = p := List.length_take_of_le (by omega)
  have len_cut : ((head.drop p).take len).length = len := List.length_take_of_le (by rw [List.length_drop]; omega)
  have before := edited_append [.pop p len] false (head.take p) (head.drop p) 0
    (fun k _ hi => ⟨noPush k, by rw [popped_pop, decide_eq_false]; omega⟩)
  have cut := edited_append [.pop p len] true ((head.drop p).take len) ((head.drop p).drop len) p
    (fun k lo hi => ⟨noPush k, by rw [popped_pop, decide_eq_true]; omega⟩)
  have after := edited_last [.pop p len] ((head.drop p).drop len) (p + len)
    (fun k lo => by rw [popped_pop, decide_eq_false]; omega) (fun k _ => noPush k)
  rw [List.take_append_drop, len_cut, after, noPush] at cut
  rw [List.take_append_drop, len_before, Nat.zero_add, cut] at before
  simpa using before

/-! ## The deparser of a head without dirty containers, patches and checksums -/

/-- A pass leaves its deparser pushes and pops alone: no write-back, no patch, no checksum (R276 steps 1, 3 and 4). -/
structure Pass.Plain (ps : Pass) : Prop where
  clean : ps.dirty = []
  unpatched : ps.patches = []
  noCsum : ∀ p ins len, Edit.csum p ins len ∉ ps.edits

theorem Pass.writeBack_clean (ps : Pass) (n : Nat) (head : List Byte) (clean : ps.dirty = []) : ps.writeBack n head = head := by
  unfold Pass.writeBack
  refine List.foldlRecOn (motive := fun h => h = head) (List.range n) _ rfl ?_
  rintro _ rfl c _
  rw [clean]
  rfl

/-- Such a head is put together from its bytes and edits, and no checksum is left out. -/
theorem deparseHead_plain (ps : Pass) (plain : ps.Plain) (n rest : Nat) (head : List Byte) :
    deparseHead ps n rest head = (edited ps.edits 0 head, 0) := by
  unfold deparseHead
  rw [ps.writeBack_clean n head plain.clean, plain.unpatched, ← build_out]
  refine congrArg (fun r : Built × Nat => (r.1.out, r.2)) (?_ : _ = (build ps.edits head, 0))
  refine List.foldlRecOn (motive := fun r => r = (build ps.edits head, 0)) ps.edits _ rfl ?_
  rintro _ rfl e mem
  cases e with
  | csum p ins len => exact absurd mem (plain.noCsum p ins len)
  | push p bs => rfl
  | pop p len => rfl

/-! ## DEPARSE of an ingress frame (R276) -/

theorem exec_deparse (egress : Bool) (id : Nat) (s : State) :
    exec (.deparse egress id) s = .next { s with dev := s.dev.deparse egress id } := rfl

/-- Bytes of a frame's head, as its deparser takes them. -/
def Dev.headLen (d : Dev) (fid : Nat) : Nat := min 256 (d.frameLen 16 fid - 4)

/-- Frame `fid` with the head `out`, bound for the fabric. -/
def Dev.headDone (d : Dev) (fid : Nat) (f : Frame) (out : List Byte) : Dev :=
  d.setFrame fid { f with place := .fabric, head := out, headIn := d.headLen fid }

section
variable {d : Dev} {fid : Nat} {f : Frame} (hf : d.frame fid = some f)
include hf

/-- A frame that is not past its verdict, or that must wait, stays; the link edge sends what it can. -/
theorem Dev.deparse_waits (waits : f.place ≠ .deparse ∨ (d.slc f.slice).st ≠ .run ∨ d.mustWait f = true) :
    d.deparse false fid = d.pumpIn f.slice f.pipe := by
  have stays : d.deparseIngress fid = d := by simp only [Dev.deparseIngress, hf, if_pos waits]
  simp only [Dev.deparse, Bool.false_eq_true, if_false, stays, hf]

/-- A frame whose turn has come crosses with its bytes and edits put together. -/
theorem Dev.deparse_plain (ready : f.place = .deparse) (run : (d.slc f.slice).st = .run) (turn : d.mustWait f = false)
    (plain : f.ps.Plain) {out : List Byte} (gives : edited f.ps.edits 0 (f.bytes.take (d.headLen fid)) = out) :
    d.deparse false fid = (d.headDone fid f out).pumpIn f.slice f.pipe := by
  have goes : ¬ (f.place ≠ .deparse ∨ (d.slc f.slice).st ≠ .run ∨ d.mustWait f = true) := by simp [ready, run, turn]
  have done : d.deparseIngress fid = d.headDone fid f out := by
    simp only [Dev.deparseIngress, hf, if_neg goes, deparseHead_plain f.ps plain, ← gives]
    rfl
  simp only [Dev.deparse, Bool.false_eq_true, if_false, done, Dev.headDone, Dev.frame_setFrame]

end

/-! ## DEPARSE of a copy (R276, R279) -/

/-- Bytes of a copy's head, as its deparser takes them: its frame's length is known, or stands as far as it is held. -/
def Dev.copyHeadLen (d : Dev) (cid : Nat) (c : Copy) : Nat :=
  min c.ps.head.length ((if d.copyLen cid c = 0 then d.heldLen c else d.copyLen cid c) - 4)

section
variable {d : Dev} {cid : Nat} {c : Copy} (hc : d.cpy cid = some c)
include hc

/-- The account of BUSY moves no frame, and changes of the copy only what the MAC has charged. -/
theorem Dev.busyTo_cpy : (d.busyTo cid).frames = d.frames ∧ ∃ w, (d.busyTo cid).cpy cid = some { c with wired := w } := by
  simp only [Dev.busyTo, hc]
  split
  · exact ⟨rfl, c.wired, hc⟩
  · exact ⟨rfl, c.wireBytes, Dev.cpy_setCpy _ _ _⟩

theorem Dev.dropForcedCopy_unforced (unforced : d.egressForced c = none) : d.dropForcedCopy cid = d := by
  simp only [Dev.dropForcedCopy, hc, unforced]

theorem Dev.deparseCopy_plain (fresh : c.deparsed = false) (given : c.verdict ≠ .none) (kept : c.verdict ≠ .discard)
    (plain : c.ps.Plain) : d.deparseCopy cid = d.setCpy cid { c with
      deparsed := true, head := edited c.ps.edits 0 (c.ps.head.take (d.copyHeadLen cid c)), headIn := d.copyHeadLen cid c } := by
  have goes : ¬ (c.deparsed = true ∨ c.verdict = .none ∨ c.verdict = .discard) := by simp [fresh, given, kept]
  simp only [Dev.deparseCopy, hc, if_neg goes, deparseHead_plain c.ps plain]
  rfl

/-- A copy with its verdict has its bytes and edits put together, and no frame moves. -/
theorem Dev.deparse_copy_plain (unforced : d.egressForced c = none) (fresh : c.deparsed = false) (given : c.verdict ≠ .none)
    (kept : c.verdict ≠ .discard) (plain : c.ps.Plain) : (d.deparse true cid).frames = d.frames
      ∧ ∃ g, (d.deparse true cid).cpy cid = some g ∧ g.deparsed = true
        ∧ g.head = edited c.ps.edits 0 (c.ps.head.take (d.copyHeadLen cid c)) ∧ g.headIn = d.copyHeadLen cid c := by
  rw [Dev.deparse, if_pos rfl, Dev.dropForcedCopy_unforced hc unforced, Dev.deparseCopy_plain hc fresh given kept plain]
  obtain ⟨frames, w, hg⟩ := Dev.busyTo_cpy (d.cpy_setCpy cid _)
  exact ⟨frames, _, hg, rfl, rfl, rfl⟩

end

/-! ## COUNT_BYTES_DEFERRED (R644) -/

theorem exec_countBytesDeferred (egress : Bool) (id : Nat) (s : State) :
    exec (.countBytesDeferred egress id) s = .next { s with dev := s.dev.countDeferred egress id } := rfl

theorem State.noUpsets.memClean {s : State} (quiet : s.noUpsets) : s.dev.memClean :=
  have ⟨right, unpoisoned, disarmed, _⟩ := quiet
  ⟨right, unpoisoned, disarmed⟩

theorem Dev.settle_one (d : Dev) (clean : d.memClean) (x : Deferred) (n : Nat) : d.settle [x] n = d.addStageBytes x n := by
  rw [Dev.settle, List.foldl_cons, List.foldl_nil, d.stageTouch_clean clean]

section
variable {d : Dev} {fid : Nat} {f : Frame} (hf : d.frame fid = some f)
include hf

theorem Dev.countDeferred_part (part : f.whole = false) : d.countDeferred false fid = d := by
  simp [Dev.countDeferred, hf, part]

theorem Dev.countDeferred_whole (clean : d.memClean) (whole : f.whole = true) {x : Deferred} (one : f.deferred = [x]) :
    d.countDeferred false fid = (d.addStageBytes x f.bytes.length).setFrame fid { f with deferred := [] } := by
  simp [Dev.countDeferred, hf, whole, one, d.settle_one clean]

end

section
variable {d : Dev} {cid : Nat} {c : Copy} (hc : d.cpy cid = some c)
include hc

theorem Dev.countDeferred_copy_unknown (unknown : d.copyLen cid c = 0) : d.countDeferred true cid = d := by
  simp [Dev.countDeferred, hc, unknown]

theorem Dev.countDeferred_copy_known (clean : d.memClean) (known : d.copyLen cid c ≠ 0) {x : Deferred} (one : c.deferred = [x]) :
    d.countDeferred true cid = (d.addStageBytes x (d.copyLen cid c)).setCpy cid { c with deferred := [] } := by
  simp [Dev.countDeferred, hc, known, one, d.settle_one clean]

end

/-! ## The obligation -/

/-- Settles O23: a head is what its input positions give with no edit, one PUSH or one POP, and the stage counter of a waiting
count gains the length. -/
theorem deparserAppliesEdits : Obligations.DeparserAppliesEdits := by
  unfold Obligations.DeparserAppliesEdits
  intro fid f s hf d h head
  simp only [exec_deparse, exec_countBytesDeferred]
  refine ⟨fun waits => by rw [Dev.deparse_waits hf waits], fun ready run turn clean unpatched => ?edits,
    fun part => by rw [Dev.countDeferred_part hf part],
    fun x quiet whole one => by rw [Dev.countDeferred_whole hf quiet.memClean whole one]; rfl,
    fun cid c hc => ⟨fun unknown => by rw [Dev.countDeferred_copy_unknown hc unknown],
      fun x quiet known one => by rw [Dev.countDeferred_copy_known hc quiet.memClean known one]; rfl, ?copy⟩⟩
  case edits =>
    have crosses := fun noCsum => @Dev.deparse_plain s.dev fid f hf ready run turn ⟨clean, unpatched, noCsum⟩
    refine ⟨fun es => ?_, fun p bs es inside => ?_, fun p len es inside => ?_⟩
    · rw [crosses (by simp [es]) (es ▸ edited_noEdit head)]
      rfl
    · rw [crosses (by simp [es]) (es ▸ edited_push p bs head inside)]
      rfl
    · rw [crosses (by simp [es]) (es ▸ edited_pop p len head inside)]
      rfl
  case copy =>
    intro unforced fresh given kept clean unpatched noEdit
    obtain ⟨frames, g, hg, done, out, taken⟩ :=
      Dev.deparse_copy_plain hc unforced fresh given kept ⟨clean, unpatched, by simp [noEdit]⟩
    rw [noEdit, edited_noEdit] at out
    exact ⟨_, g, rfl, rfl, hg, done, out, taken, frames⟩

end Sys2Proof.Machine
end
